-- ==== Sys2Proof/Word.lean ====
section
/-!
DEFINITION. Word.lean: bytes and the plainest arithmetic of the LY64 model: bytes, flags and saturating sums.
-/
namespace Sys2Proof

/-- One byte (R5, R7). -/
abbrev Byte := BitVec 8

/-- A set-up register or a field wider than one byte, as bits (R771). -/
abbrev W64 := BitVec 64

/-- A device-time value: bits [63:30] whole seconds, bits [29:0] the fraction in 2^−30 s (R88). -/
abbrev DevTime := Nat

/-- 1 for true, 0 for false: a one-bit field. -/
def b2n (b : Bool) : Nat := if b then 1 else 0

@[simp] theorem b2n_true : b2n true = 1 := rfl
@[simp] theorem b2n_false : b2n false = 0 := rfl

/-- Bit `i` of `n`. -/
def bitOf (n i : Nat) : Bool := n.testBit i

end Sys2Proof
end

