-- ==== Sys2Proof/Syntax.lean ====
section
/-!
DEFINITION. Syntax.lean: the commands of the block, one constructor per row of the opcode table, with what each
brings from outside: pins, measured values, register writes, descriptors, and the bytes read from host memory.
-/
namespace Sys2Proof.Machine

/-! ### What commands carry -/

/-- What a read of host memory returned: the bytes, or Unsupported Request, Completer Abort, poisoned data or a
time-out (R831, R894). -/
inductive HostRead
  | ok (bytes : List Byte)
  | failed
  deriving DecidableEq, Repr

/-- Where a command comes from: a command ring, the boot image (R864), or the tunnel under a TID (R1078). -/
inductive Issuer
  | ring (r : Nat)
  | boot
  | tunnel (tid : Nat)
  deriving DecidableEq, Repr

/-- What a completion needs of its command: where it came from, its TAG and its IRQ flag. -/
structure CmdRef where
  src : Issuer
  tag : Nat
  irq : Bool
  deriving DecidableEq, Repr

/-- A command descriptor as executed (Table 18.1), with the host memory it reads. `args` is bytes 24–31 as one number,
byte 24 least significant. `input` holds the bytes read for it, in the order the LY64 reads them. -/
structure Desc where
  src : Issuer
  fence : Bool := false
  irq : Bool := false
  tenant : Nat := 0xFF
  tag : Nat := 0
  addr : Nat := 0
  len : Nat := 0
  expEpoch : Nat := 0
  args : Nat := 0
  input : HostRead := .ok []
  deriving DecidableEq, Repr

/-- The completion reference of a descriptor. -/
def Desc.ref (x : Desc) : CmdRef := ⟨x.src, x.tag, x.irq⟩

/-- The path of a register access: PCIe to function `f` (0 the PF), or the two-wire target port (R775). -/
inductive Path
  | pcie (f : Nat)
  | twt
  deriving DecidableEq, Repr

/-- A write to one 64-bit register: which halves are written (a 4-byte write updates only its half, R768), and the
value over both halves. -/
structure RegVal where
  path : Path := .pcie 0
  lo : Bool := true
  hi : Bool := true
  value : W64
  deriving DecidableEq, Repr

/-- A free-buffer entry as read from host memory (Table 17.9). -/
structure RawBuf where
  addr : Nat
  len : Nat
  bufId : Nat
  phase : Bool
  deriving DecidableEq, Repr

/-- A doorbell word as read (R836), with, for a free-buffer ring, the entries the LY64 reads from its index on, and,
for a context not in the cache, context bytes 0–31 as read (R826). -/
structure Bell where
  index : Nat
  noIrq : Bool := false
  bufs : List RawBuf := []
  ctx : List Byte := []
  deriving DecidableEq, Repr

/-- A doorbell read of a ring: the ring, and the word, or nothing where a read failed (R831). -/
structure BellRead where
  ring : Nat
  bell : Option Bell
  deriving DecidableEq, Repr

/-- A descriptor as fetched: what the fetch and the order of execution judge of it; `args` are its bytes 24–31 (R841, R899, R922). -/
structure RawDesc where
  phase : Bool
  opcode : Nat
  tag : Nat := 0
  irq : Bool := false
  tenant : Nat := 0xFF
  args : Nat := 0
  deriving DecidableEq, Repr

/-! ### What the measuring units bring -/

/-- A direct input over one bit time, from the MCLK_OUT rising edge at which its modulator took the bit: its level at each T/8 (bit s
at s × T/8), and its mid-bit transition, how many hundredths of T after that edge and whether it falls (Table 4.1, R203). -/
structure DmBit where
  levels : Nat := 0
  edge : Option (Nat × Bool) := none
  deriving DecidableEq, Repr

/-- One frame of 16 T on both voltage converters: what each gives at its eight positions, as signed codes of 16 bits (Converter A) and of
14 bits (Converter B), 0 where it converts nothing here (Tables 5.1 and 5.2). -/
structure ConvFrame where
  a : List Int := []
  b : List Int := []
  deriving DecidableEq, Repr

/-- A quantity of a comparator slice of Converter A as its background correction has estimated it (R240): 0 offset in nV, 1 gain in
10^−9, 2 skew in fs. -/
structure SliceFind where
  slice : Nat
  quantity : Nat
  value : Int
  deriving DecidableEq, Repr

/-- One sample period: the direct inputs over the 384 bit times that end with it, for each of DM0–DM3; the 24 frames of
the two converters; what the slice correction has found; and a sign change of the tracking voltage (its age when the sample is taken,
positive-going). -/
structure Sample where
  dm : List (List DmBit) := []
  frames : List ConvFrame := []
  slices : List SliceFind := []
  deriving DecidableEq, Repr

/-- The straps as they stand at the end of a reset (R58, R984, R1191). -/
structure Straps where
  hostmode : Bool
  a0 : Bool
  a1 : Bool
  testmode : Bool
  deriving DecidableEq, Repr

/-- What shows the metrology clock gone (R80): its clocks counted over 1,024 RTC clocks (31.25 ms), or a gap without an
edge, in tenths of a µs. -/
inductive ClockLook
  | count (clocks : Nat)
  | gap (tenths : Nat)
  deriving DecidableEq, Repr

/-- What Converter B does for the aux sequence: it samples the next entry's channel at so many nanovolts, or the oldest conversion not
yet written is (R299). -/
inductive AuxStep
  | sample (nanovolts : Int)
  | result
  deriving DecidableEq, Repr

/-! ### What the memories bring -/

/-- A slot or KEYS record that reads bad at recall: its place, and whether the bad word lies in its header (R589). -/
structure SlotBad where
  sector : Nat
  place : Nat
  hdr : Bool
  deriving DecidableEq, Repr

/-- A ledger block that reads bad in one copy: by an uncorrectable word, or by its CRC only (Table 12.8). -/
structure BlockBad where
  copyB : Bool
  block : Nat
  hard : Bool
  deriving DecidableEq, Repr

/-- A margin pass finding (R595, R596): kind 0 level 1, 1 level 2, 2 a corrected word, 3 an uncorrectable word. -/
structure MarginFind where
  group : Nat
  sector : Nat
  place : Nat
  kind : Nat
  deriving DecidableEq, Repr

/-- A finding in the ledger (R576, R598, R599): the block, the copies it is found bad in, whether it was a correctable
word only, the array offset of the word, and whether the copy's SEQ could be read. -/
structure ScrubFind where
  block : Nat
  badA : Bool
  badB : Bool
  fixed : Bool := false
  word : Nat := 0
  seqOk : Bool := true
  deriving DecidableEq, Repr

/-- An uncorrectable word of the staging SRAM: in the block at an address, or in the ring shadow, with the rings it covers (R827,
Table 12.12). -/
inductive StagingFind
  | block (addr : Nat)
  | shadow (rings : List Nat)
  deriving DecidableEq, Repr

/-! ### What the tamper inputs and the buses bring -/

/-- One tamper input at a window: the level at the D sample point of a case switch or static loop, the four bits read of a
pseudo-random loop (bit 0 the first), and its resistance in 0.1 Ω. -/
structure TamperReading where
  high : Bool
  bits : Nat
  ohms : Nat
  deriving DecidableEq, Repr

/-- One round of a line-up as the bus showed it (Table 20.4): whether the read of 0x3A was ACKed, the nine bytes of steps 4 and 5,
and the nine of step 8 (none: the pod's address was NACKed). -/
structure RoundSeen where
  acked : Bool
  won : List Byte := []
  back : Option (List Byte) := none
  deriving DecidableEq, Repr

/-- One run of a line-up from its step 1 (R974): what each address 0x40–0x4F answered its survey read with, in ascending order (nine
bytes; none: NACKed), where the run surveys; its complete rounds; and the loss of arbitration that ended it: `some true` where R969
gives ARB_STOP_LOSS, `some false` where it gives ARB_LOST. -/
structure LineupPass where
  survey : List (Option (List Byte)) := []
  rounds : List RoundSeen := []
  lost : Option Bool := none
  deriving DecidableEq, Repr

/-- What the bus and the links showed of a line-up: its runs, and for each pod mapped, in ascending address, the links that reported
IDENT_MARK = 1 before its marker was set and those that did between 250 µs and 1 ms after (R980); bit n is link n. -/
structure LineupSeen where
  passes : List LineupPass
  marks : List (Nat × Nat) := []
  deriving DecidableEq, Repr

/-- Where in a transaction arbitration is lost (R969): the address byte, byte n of the write, the repeated START, the address byte
after it, the ACK of byte n read, or the STOP. -/
inductive LostAt
  | address
  | written (n : Nat)
  | restart
  | readAddress
  | readAck (n : Nat)
  | stop
  deriving DecidableEq, Repr

/-- How a POD_XFER ends but for a stuck bus or a stretched clock: the bus has stayed busy, all is moved, a NACK of the write's or the
read's address byte, a NACK of byte n of the write, or a loss of arbitration after those bytes read. -/
inductive XferEnd
  | busBusy
  | done (read : List Byte)
  | addrNack (reading : Bool)
  | dataNack (n : Nat)
  | lost (place : LostAt) (read : List Byte)
  deriving DecidableEq, Repr

/-- A preamble and SSD as a correlator hears them (R1017, R1018): the 32 bits, bit 31 the first; the level in quarter dBµV; the mean
energies of the mark band and of the space band over them, and over the 10 ms before. -/
structure Heard where
  bits : Nat
  level : Nat
  mark : Nat
  space : Nat
  markBefore : Nat := 0
  spaceBefore : Nat := 0
  deriving DecidableEq, Repr

/-- What a transaction of the two-wire target port does after its address: bytes written, or bytes read (R985). -/
inductive TwtPart
  | write (bytes : List Byte)
  | read (n : Nat)
  deriving DecidableEq, Repr

/-- An item of a function's configuration space that Table 16.1, Table 16.2 or R789 gives a value; `other` is any word else. -/
inductive CfgItem
  | vendorId | deviceId | revisionId | classCode | subVendorId | subsystemId | headerType | interruptPin | bar45 | msixTableSize
  | noSoftReset | serialNumber | initialVfs | totalVfs | numVfs | pageSizes | vfDeviceId | firstVfOffset | vfStride
  | maxPayload | l1ExitLatency | commonModeRestore | powerOnTime
  | other (off : Nat)
  deriving DecidableEq, Repr

/-- A register read or another host access: a memory read at an offset of a register BAR, a read of the configuration space, and a
write there of ASPM L1 enable and LTR Mechanism Enable (R767, R770, R788, R789). -/
inductive HostAccess
  | read (off : Nat)
  | config (item : CfgItem)
  | linkControl (aspmL1 ltrEn : Bool)
  deriving DecidableEq, Repr

end Sys2Proof.Machine

namespace Sys2Proof
open Sys2Proof.Machine

/-- The commands of the block: one constructor per row of the opcode table, in its order. -/
inductive Instr
  | alwaysOnPor (p : Straps) (mainsOk : Bool)
  | resetN (p : Straps) (mainsOk : Bool) (micros : Nat)
  | configRecallDone (bad : List SlotBad)
  | ledgerRecallDone (bad : List BlockBad)
  | powerUpTestEnd
  | accumulationStart
  | standaloneNegotiation
  | samplePeriod (x : Sample)
  | commitTick
  | commitComplete
  | holdEntry (vdd33 lowTenths : Nat)
  | vddaLow (tenths : Nat)
  | finalCommitDone
  | backupEntry
  | backupExit
  | offEntry
  | holdExit (micros vdd33 vdda : Nat)
  | metrologyClockLost (l : ClockLook)
  | metrologyClockReturn
  | xt32Fail (micros : Nat)
  | xt32Restored (cycles shortest longest : Nat)
  | vbatLow (mv : Nat)
  | dozeEntry
  | preWake (tx : Bool)
  | pllLock (locked : Bool)
  | fastSleep
  | backstopEntry
  | fastLogicFault (unit : Fin 6)
  | superframeReceived (n : Fin 16) (slots : List Nat) (arrival : Nat)
  | sampleRelease (n : Fin 16)
  | relayMismatch (n : Fin 16) (r : Fin 12)
  | dnShort (n : Fin 16) (common : Nat) (limit : Bool) (tenths : Nat)
  | dnShortRetry (n : Fin 16)
  | dnShortClear (n : Fin 16)
  | chFlatline (c : Fin 196)
  | chFlatlineEnd (c : Fin 196)
  | chOverloadEnd (c : Fin 196)
  | dmLock (x : Fin 4)
  | dmInputLost (x : Fin 4)
  | dmAlignError (x : Fin 4)
  | umpireBlock
  | referenceTestEnd
  | converterRetest (conv : Fin 2)
  | converterRetestEnd (conv : Fin 2)
  | vchkWatch
  | vinClipEnd (c : Fin 4)
  | vinOpenTest (c : Fin 4)
  | vinOpenTestEnd (c : Fin 4) (shift : Int)
  | compCrossing (n : Fin 4) (nanovolts tenths : Nat)
  | auxConversion (c : AuxStep)
  | reverseCurrent (a : Fin 64) (k : Fin 3)
  | reversalEnd (a : Fin 64) (k : Fin 3)
  | crossingConfirmed
  | lockLoss
  | freeRunBoundary
  | previewInstant
  | retractNoCrossing
  | secondBoundary
  | harmonicWindow
  | captureDelivery
  | sealOpen (micros : Nat)
  | sealClose
  | pulseWidthEnd (o : Fin 8)
  | pulseSaturatedEnd (o : Fin 8)
  | pulseShort (o : Fin 8) (tenths : Nat)
  | pulseShortRetry (o : Fin 8)
  | pulseShortClear (o : Fin 8)
  | groupWriteDone (good : Bool)
  | sectorEraseDone
  | marginPass (found : List MarginFind)
  | refreshForward (good : Bool)
  | ledgerScrub (found : List ScrubFind)
  | sramScrub (staging : List StagingFind) (rings : List (Nat × Nat))
  | demandIntervalClose
  | loadReclose (a : Fin 65)
  | friendlyHoursEnd
  | gridFallback
  | drbgReseed (raw : List Byte)
  | snapshotSigned
  | tamperWindow (inputs : List TamperReading) (calEn : Bool)
  | batteryCheck (mv : Int)
  | go (w : RegVal)
  | negotiationComplete (ctx : List HostRead)
  | softReset (w : RegVal)
  | causeW1c (w : RegVal)
  | kick (path : Path) (b : BellRead)
  | scanAll (path : Path) (bs : List BellRead)
  | movectlGo (w : RegVal)
  | movectlDrop (w : RegVal)
  | moveDone (data : List Byte) (okay : Bool) (bad : List ScrubFind)
  | registerWrite (off : Nat) (wellFormed : Bool) (w : RegVal)
  | msixHoldoff (f v : Nat)
  | hostPortDown
  | hostPortFail
  | hostPortUp
  | pfFlr
  | vfFlr (t : Fin 64)
  | vfFlrDone (t : Fin 64)
  | busMasterEnable (f : Nat) (on : Bool)
  | d3hot (on : Bool)
  | descriptorFetch (r : Nat) (xs : Option (List RawDesc))
  | contextWriteback (r : Nat)
  | doorbellScan (bs : List BellRead)
  | heldRecheck (b : BellRead)
  | nop (x : Desc)
  | fence (x : Desc)
  | ringAdd (x : Desc)
  | ringDel (x : Desc)
  | ringStop (x : Desc)
  | ringStart (x : Desc)
  | ringQuery (x : Desc)
  | ringBlockAssign (x : Desc)
  | bufReassign (x : Desc)
  | tenantSet (x : Desc)
  | tenantGet (x : Desc)
  | tenantSuspend (x : Desc)
  | tenantResume (x : Desc)
  | calSet (x : Desc)
  | calGet (x : Desc)
  | ledgerRead (x : Desc)
  | snapshot (x : Desc)
  | packageLoad (x : Desc)
  | gridStateSet (x : Desc)
  | creditAdd (x : Desc)
  | relaySet (x : Desc)
  | keyLoad (x : Desc)
  | keyCommit (x : Desc)
  | keyStatus (x : Desc)
  | configRead (x : Desc)
  | configWrite (x : Desc)
  | auxSeqSet (x : Desc)
  | auxRead (x : Desc)
  | captureArm (x : Desc)
  | lineSend (x : Desc)
  | lineJoin (x : Desc)
  | lineStatus (x : Desc)
  | podLineup (x : Desc)
  | lineupEnd (r : LineupSeen)
  | podXfer (x : Desc)
  | podXferEnd (e : XferEnd)
  | clockSet (x : Desc)
  | clockGet (x : Desc)
  | errorAck (x : Desc)
  | recoverCandidate (x : Desc)
  | recoverFresh (x : Desc)
  | linkZero (x : Desc)
  | linkWalk (x : Desc)
  | voltB (x : Desc)
  | refTest (x : Desc)
  | crypto (x : Desc)
  | selftestComplete (bits : Nat) (raw : List Byte)
  | pulseAssign (x : Desc)
  | stretchLimit (micros moved : Nat) (data : List Byte)
  | twmSclStuck (micros moved : Nat) (data : List Byte)
  | twmSdaStuck (micros : Nat) (sclHigh : Bool) (moved : Nat) (data : List Byte)
  | busRecovery (sclMicros : Nat) (sda : List Bool)
  | twtAddress (addr : Nat) (parts : List TwtPart)
  | twtSleep
  | frameDetect (h : Heard)
  | captured (h : Heard) (part : List (Nat × Nat))
  | phyFrameReceived (bits : List (Nat × Nat))
  | segmentTimeout (src : Nat)
  | agcRise
  | txSlotStart
  | txFrameEnd (ohms : Nat)
  | txShort (ohms : Option Nat)
  | beacon
  | claim
  | joinReq
  | joinAck
  | ack
  | keyreq
  | tunnelCmd
  | tunnelRec
  | app
  | listenTimeout
  | captainTimeout
  | beaconDue
  | beaconLoss
  | ackTimeout
  | keyreqRepeat
  | joinRetry
  | tunnelTimeout (tid : Nat)
  | slotWindowClose
  | restartCheck (pllOk logicOk : Bool)
  | dozeExitCount
  | counters
  | umpireSummary
  | trackerSummary
  | pqSummary
  | pulseSummary
  | balanceSummary
  | tamperSummary
  | errorSummary
  | lineSummary
  | registerRead (f : Nat) (a : HostAccess)
  | drbgSeed (raw : List Byte)
  | msixUnmask (f : Nat) (en fmask : Bool) (vmask : BitVec 4)
  | vfEnable (n : Fin 65) (on ari : Bool)
  | completionTimeout (r : Nat)
  deriving DecidableEq, Repr

end Sys2Proof
end

