-- ==== Sys2Proof/Decode.lean ====
section
/-!
DEFINITION. Decode.lean: the command that a word spells by the bits of the opcode table. The table gives no row any bits: the
commands of this block are register writes, descriptors, ticks and events, not words of an instruction memory.
-/
namespace Sys2Proof

/-- The command a word of `nbits` bits spells: none, since no row of the opcode table has bits. -/
def decodeTableWord (_nbits _w : Nat) : Option Instr := none

end Sys2Proof
end

