-- ==== Sys2Proof/Config.lean ====
section
/-!
DEFINITION. Config.lean: what one LY64 holds from production and what its manual leaves open. Every constant here has no
body: no proof can see a value, so a claim holds for every value.
-/
namespace Sys2Proof.Config

/-- A fresh free value, under a counter the state advances (DESIGN CHOICE: the manual leaves the value open). -/
opaque freeNat : Nat → Nat

/-- Whether a quotient that the manual does not say how to round goes up, by where it is formed, its dividend and divisor. -/
opaque roundsUp : Nat → Int → Int → Bool

/-- Taps 0–101 of the FIR filter that decimates by 6, in 2^−30; taps 103–204 mirror them, and tap 102 makes the gain at DC 1 (R207,
R208: the manual gives the filter's response, not its taps). -/
opaque firHalf : Nat → Int

/-- Taps 1–15 of the interpolator at a phase, in 2^−30; tap 0 makes the gain at DC 1 (R208, R216). -/
opaque interp : Nat → Nat → Int

/-- The 90° shifter is an antisymmetric FIR filter: how many samples its centre lags, and its half, tap 1 next to the centre, in 2^−30
(R362: the manual gives its response, not its taps). -/
opaque shiftLag : Nat
opaque shiftHalf : Nat → Int

/-- Taps 1–574 of the FIR filter of a voltage path, in 2^−30, by converter and channel, 5 × converter + channel, channel 4 the shared one;
tap 0 makes the gain at DC 1 (R245, R246: the manual gives its response and delay, not its taps). -/
opaque voltFir : Nat → Nat → Int

/-- A conversion of Converter A in 24-bit counts, from its code, with a slice's offset, gain and skew taken out (R240: the manual gives
the ranges of the correction, not its arithmetic). -/
opaque sliceFix : Int → Int → Int → Int → Int

/-- The factory trim of a slice: offset in nV, gain in 10^−9, skew in fs (R240). -/
opaque sliceTrim : Nat → Nat → Int

/-- The pole radius of the fundamental resonator, squared, in 2^−32: the manual gives its gain and phase at the fundamental, not its
bandwidth (R367). -/
opaque resRadius : Nat

/-- One step of the fundamental filter tuned to a period in 2^−30 s: state, input; next state and output (R405: the manual gives its
gain and delay at the tuned frequency, not its arithmetic). -/
opaque fundamental : Nat → Nat → Int → Nat × Int

/-- What a sample weighs in a point of the resampler, in 2^−30, by the window's length in 2^−30 s and how far the sample lies from the
point in 2^−40 s (R484: the manual gives the filter's response, not its taps). -/
opaque resampleTap : Nat → Int → Int

/-- The bits taken from a 5-bit code that is no data code of Table 3.3 (R155 judges the slot bad). -/
opaque badNibble : Nat → Nat

/-- How a line bit is decided where R1017 does not say: on one band alone (0 mark, 1 space), by its energy and the band's mean over
preamble and SSD; and with both weighted energies equal, or both bands ignored (2), by the two energies. -/
opaque lineBit : Nat → Nat → Nat → Bool

/-- A word of a function's configuration space that the manual leaves to the PCI Express Base Specification (R761, R764): function and
offset. -/
opaque configWord : Nat → Nat → Nat

/-! ### Production data (Tables 14.1, 14.2, R522) -/

/-- DEVICE_ID (Table 14.1). -/
opaque deviceId : Nat

/-- The FACTORY group's payload (R522, R664): VCHK values at 0 and 4, the certificate at 1,024. -/
opaque factoryBlock : List Byte

/-- IDK, a private key of P-256; KD and KT, 16 bytes each (Table 14.1). -/
opaque identityKey : Nat
opaque deviceKey : List Byte
opaque transportKey : List Byte

/-- The number that a use of the DRBG takes from the 32 bytes generated for it (R699: the manual names the uses, not how a value is
taken). -/
opaque drawnValue : List Byte → Nat

/-- A byte of a memory at an address whose contents the manual leaves undefined: a program or an erase cut short, a header
field it does not give, a ledger block that is not valid (R581, R588, R597). -/
opaque deadByte : Nat → Byte

end Sys2Proof.Config
end

