-- ==== Sys2Proof/Machine/Crypto.lean ====
section
/-!
DEFINITION. Machine/Crypto.lean: the functions of the crypto engine, as the standards that chapter 14 names define them: SHA-256,
AES-128 with CCM (SP 800-38C) and CTR_DRBG (SP 800-90A), ECDSA over P-256; and the health tests of the TRNG (SP 800-90B).
Bytes are held as numbers while they are computed with.
-/
namespace Sys2Proof.Machine

/-! ### Bytes and numbers -/

/-- A byte string read as a number, first byte most significant. -/
def beNat (l : List Nat) : Nat := l.foldl (fun n b => 256 * n + b) 0

/-- The `n` bytes of a number, most significant first. -/
def beBytes (n x : Nat) : List Nat := (List.range n).map fun i => x >>> (8 * (n - 1 - i)) % 256

/-- Byte strings as numbers, and back. -/
def toNats (l : List Byte) : List Nat := l.map BitVec.toNat
def toBytes (l : List Nat) : List Byte := l.map (BitVec.ofNat 8)

/-- Two byte strings added modulo 2, as long as the shorter. -/
def xorBytes (a b : List Nat) : List Nat := List.zipWith (· ^^^ ·) a b

/-- A byte string with zeros up to a multiple of 16. -/
def pad16 (l : List Nat) : List Nat := l ++ List.replicate ((16 - l.length % 16) % 16) 0

/-- The 16-byte blocks of a byte string. -/
def blocks16 (l : List Nat) : List (List Nat) := (List.range ((l.length + 15) / 16)).map fun i => (l.drop (16 * i)).take 16

/-! ### SHA-256 -/

/-- The round constants, eight to a number. -/
def shaRows : List Nat :=
  [0x428A2F9871374491B5C0FBCFE9B5DBA53956C25B59F111F1923F82A4AB1C5ED5,
    0xD807AA9812835B01243185BE550C7DC372BE5D7480DEB1FE9BDC06A7C19BF174,
    0xE49B69C1EFBE47860FC19DC6240CA1CC2DE92C6F4A7484AA5CB0A9DC76F988DA,
    0x983E5152A831C66DB00327C8BF597FC7C6E00BF3D5A7914706CA635114292967,
    0x27B70A852E1B21384D2C6DFC53380D13650A7354766A0ABB81C2C92E92722C85,
    0xA2BFE8A1A81A664BC24B8B70C76C51A3D192E819D6990624F40E3585106AA070,
    0x19A4C1161E376C082748774C34B0BCB5391C0CB34ED8AA4A5B9CCA4F682E6FF3,
    0x748F82EE78A5636F84C878148CC7020890BEFFFAA4506CEBBEF9A3F7C67178F2]

/-- Word `i` of a number of eight words. -/
def word8 (x i : Nat) : Nat := x >>> (32 * (7 - i)) % 2 ^ 32

/-- A 32-bit word turned right. -/
def rotr32 (x n : Nat) : Nat := (x >>> n) ||| (x <<< (32 - n)) % 2 ^ 32

/-- One more word of the message schedule; the words so far come newest first. -/
def shaExtend (w : List Nat) : List Nat :=
  let x := w.getD 14 0
  let y := w.getD 1 0
  let s0 := rotr32 x 7 ^^^ rotr32 x 18 ^^^ (x >>> 3)
  let s1 := rotr32 y 17 ^^^ rotr32 y 19 ^^^ (y >>> 10)
  (s1 + w.getD 6 0 + s0 + w.getD 15 0) % 2 ^ 32 :: w

/-- One round on the eight working words with a schedule word and its constant added. -/
def shaRound (s : List Nat) (wk : Nat) : List Nat :=
  match s with
  | [a, b, c, d, e, f, g, h] =>
    let s1 := rotr32 e 6 ^^^ rotr32 e 11 ^^^ rotr32 e 25
    let ch := (e &&& f) ^^^ ((e ^^^ (2 ^ 32 - 1)) &&& g)
    let t1 := h + s1 + ch + wk
    let s0 := rotr32 a 2 ^^^ rotr32 a 13 ^^^ rotr32 a 22
    let maj := (a &&& b) ^^^ (a &&& c) ^^^ (b &&& c)
    [(t1 + s0 + maj) % 2 ^ 32, a, b, c, (d + t1) % 2 ^ 32, e, f, g]
  | l => l

/-- One 64-byte block is taken into the hash. -/
def shaBlock (h : List Nat) (block : List Nat) : List Nat :=
  let w := (List.range 16).map fun i => beNat ((block.drop (4 * i)).take 4)
  let w := ((List.range 48).foldl (fun w _ => shaExtend w) w.reverse).reverse
  let s := (List.range 64).foldl (fun s i => shaRound s (w.getD i 0 + word8 (shaRows.getD (i / 8) 0) (i % 8))) h
  List.zipWith (fun a b => (a + b) % 2 ^ 32) h s

/-- SHA-256 of a byte string, 32 bytes. -/
def sha256 (m : List Byte) : List Byte :=
  let l := toNats m
  let p := l ++ 0x80 :: List.replicate ((119 - l.length % 64) % 64) 0 ++ beBytes 8 (8 * l.length)
  let h0 := (List.range 8).map fun i => word8 0x6A09E667BB67AE853C6EF372A54FF53A510E527F9B05688C1F83D9AB5BE0CD19 i
  let h := (List.range (p.length / 64)).foldl (fun h i => shaBlock h ((p.drop (64 * i)).take 64)) h0
  toBytes (h.flatMap (beBytes 4))

/-! ### AES-128 -/

/-- The substitution box, 32 bytes to a number. -/
def sboxRows : List Nat :=
  [0x637C777BF26B6FC53001672BFED7AB76CA82C97DFA5947F0ADD4A2AF9CA472C0,
    0xB7FD9326363FF7CC34A5E5F171D8311504C723C31896059A071280E2EB27B275,
    0x09832C1A1B6E5AA0523BD6B329E32F8453D100ED20FCB15B6ACBBE394A4C58CF,
    0xD0EFAAFB434D338545F9027F503C9FA851A3408F929D38F5BCB6DA2110FFF3D2,
    0xCD0C13EC5F974417C4A77E3D645D197360814FDC222A908846EEB814DE5E0BDB,
    0xE0323A0A4906245CC2D3AC629195E479E7C8376D8DD54EA96C56F4EA657AAE08,
    0xBA78252E1CA6B4C6E8DD741F4BBD8B8A703EB5664803F60E613557B986C11D9E,
    0xE1F8981169D98E949B1E87E9CE5528DF8CA1890DBFE6426841992D0FB054BB16]

def sbox (x : Nat) : Nat := sboxRows.getD (x / 32) 0 >>> (8 * (31 - x % 32)) % 256

/-- A byte times x in GF(2^8). -/
def xtime (x : Nat) : Nat := if x < 128 then 2 * x else (2 * x) % 256 ^^^ 0x1B

/-- The next round key, with its round constant. -/
def nextKey (k : List Nat) (rcon : Nat) : List Nat :=
  let t := (k.drop 12).map sbox
  let t := xorBytes [t.getD 1 0, t.getD 2 0, t.getD 3 0, t.getD 0 0] [rcon, 0, 0, 0]
  let a := xorBytes (k.take 4) t
  let b := xorBytes ((k.drop 4).take 4) a
  let c := xorBytes ((k.drop 8).take 4) b
  a ++ b ++ c ++ xorBytes (k.drop 12) c

/-- SubBytes and ShiftRows: column by column, row by row. -/
def subShift (s : List Nat) : List Nat := (List.range 16).map fun i => sbox (s.getD ((i + 4 * (i % 4)) % 16) 0)

/-- MixColumns. -/
def mixColumns (s : List Nat) : List Nat :=
  (List.range 16).map fun i =>
    let x := fun j => s.getD (4 * (i / 4) + (i + j) % 4) 0
    xtime (x 0) ^^^ (xtime (x 1) ^^^ x 1) ^^^ x 2 ^^^ x 3

/-- AES-128 of one 16-byte block. -/
def aes128 (key block : List Nat) : List Nat :=
  let step := fun (p : List Nat × List Nat × Nat) (_ : Nat) =>
    let k := nextKey p.2.1 p.2.2
    (xorBytes (mixColumns (subShift p.1)) k, k, xtime p.2.2)
  let (s, k, r) := (List.range 9).foldl step (xorBytes block key, key, 1)
  xorBytes (subShift s) (nextKey k r)

/-! ### CCM with an 8-byte tag -/

/-- The blocks that CCM's authentication covers: nonce, associated data and plaintext, formatted. -/
def ccmBlocks (nonce adata plain : List Nat) : List Nat :=
  let q := 15 - nonce.length
  let b0 := ((if adata.isEmpty then 0 else 64) + 8 * 3 + (q - 1)) :: (nonce ++ beBytes q plain.length)
  let a := if adata.isEmpty then []
    else if adata.length < 0xFF00 then pad16 (beBytes 2 adata.length ++ adata)
    else pad16 (0xFF :: 0xFE :: beBytes 4 adata.length ++ adata)
  b0 ++ a ++ pad16 plain

/-- The CBC-MAC of whole blocks. -/
def cbcMac (key bs : List Nat) : List Nat :=
  (blocks16 bs).foldl (fun y b => aes128 key (xorBytes y b)) (List.replicate 16 0)

/-- Key-stream block `i`. -/
def ctrBlock (key nonce : List Nat) (i : Nat) : List Nat :=
  let q := 15 - nonce.length
  aes128 key ((q - 1) :: (nonce ++ beBytes q i))

/-- Text under the key stream from block 1 on. -/
def ctrText (key nonce text : List Nat) : List Nat :=
  ((blocks16 text).mapIdx fun i b => xorBytes b (ctrBlock key nonce (i + 1))).flatten

/-- The tag of associated data and plaintext. -/
def ccmMac (key nonce adata plain : List Nat) : List Nat :=
  (xorBytes (cbcMac key (ccmBlocks nonce adata plain)) (ctrBlock key nonce 0)).take 8

/-- CCM seals: the ciphertext and the 8-byte tag. -/
def ccmSeal (key nonce adata plain : List Byte) : List Byte × List Byte :=
  let k := toNats key
  let n := toNats nonce
  let p := toNats plain
  (toBytes (ctrText k n p), toBytes (ccmMac k n (toNats adata) p))

/-- CCM opens: the plaintext, or none where the tag does not verify. -/
def ccmOpen (key nonce adata cipher tag : List Byte) : Option (List Byte) :=
  let k := toNats key
  let n := toNats nonce
  let p := ctrText k n (toNats cipher)
  if toBytes (ccmMac k n (toNats adata) p) = tag then some (toBytes p) else none

/-! ### P-256 and ECDSA -/

def p256 : Nat := 0xFFFFFFFF00000001000000000000000000000000FFFFFFFFFFFFFFFFFFFFFFFF
def p256n : Nat := 0xFFFFFFFF00000000FFFFFFFFFFFFFFFFBCE6FAADA7179E84F3B9CAC2FC632551
def p256b : Nat := 0x5AC635D8AA3A93E7B3EBBD55769886BC651D06B0CC53B0F63BCE3C3E27D2604B
def p256g : Nat × Nat :=
  (0x6B17D1F2E12C4247F8BCE6E563A440F277037D812DEB33A0F4A13945D898C296,
    0x4FE342E2FE1A7F9B8EE7EB4A7C0F9E162BCE33576B315ECECBB6406837BF51F5)

/-- The power of a number modulo `m`, with an exponent of 256 bits. -/
def powMod (m b e : Nat) : Nat :=
  (List.range 256).foldl (fun r i =>
    let r := r * r % m
    if e.testBit (255 - i) then r * b % m else r) 1

/-- The inverse modulo a prime. -/
def invMod (m x : Nat) : Nat := powMod m (x % m) (m - 2)

/-- Two points of the curve added; none is the point at infinity. -/
def ecAdd (a b : Option (Nat × Nat)) : Option (Nat × Nat) :=
  match a, b with
  | none, x => x
  | x, none => x
  | some (x1, y1), some (x2, y2) =>
    if x1 = x2 && (y1 + y2) % p256 = 0 then none
    else
      let l := if x1 = x2 then (3 * x1 * x1 + (p256 - 3)) * invMod p256 (2 * y1) % p256
        else (y2 + p256 - y1) * invMod p256 (x2 + p256 - x1) % p256
      let x3 := (l * l + 2 * p256 - x1 - x2) % p256
      some (x3, (l * (x1 + p256 - x3) + p256 - y1) % p256)

/-- A multiple of a point. -/
def ecMul (k : Nat) (p : Option (Nat × Nat)) : Option (Nat × Nat) :=
  (List.range 256).foldl (fun r i =>
    let r := ecAdd r r
    if k.testBit (255 - i) then ecAdd r p else r) none

/-- The point X ‖ Y, each 32 bytes big-endian. -/
def pointOf (xy : List Byte) : Nat × Nat :=
  let l := toNats xy
  (beNat (l.take 32), beNat ((l.drop 32).take 32))

/-- X ‖ Y lies on P-256 and is not the point at infinity, which has no such coordinates (Table 14.6). -/
def onCurve (xy : List Byte) : Bool :=
  let (x, y) := pointOf xy
  x < p256 && y < p256 && y * y % p256 = (x * x * x + (p256 - 3) * x + p256b) % p256

/-- A digest as the number that is signed. -/
def digestNat (digest : List Byte) : Nat := beNat (toNats digest)

/-- ECDSA P-256: a 64-byte signature r ‖ s over a digest verifies under a public key X ‖ Y. -/
def ecdsaVerify (pub digest sig : List Byte) : Bool :=
  let (r, s) := pointOf sig
  if !onCurve pub || r = 0 || p256n ≤ r || s = 0 || p256n ≤ s then false
  else
    let w := invMod p256n s
    match ecAdd (ecMul (digestNat digest * w % p256n) (some p256g)) (ecMul (r * w % p256n) (some (pointOf pub))) with
    | some (x, _) => x % p256n = r
    | none => false

/-- ECDSA P-256 under a private key with the value `k`: r ‖ s. -/
def ecdsaSign (priv k : Nat) (digest : List Byte) : List Byte :=
  let r := match ecMul k (some p256g) with | some (x, _) => x % p256n | none => 0
  let s := invMod p256n k * (digestNat digest + r * priv) % p256n
  toBytes (beBytes 32 r ++ beBytes 32 s)

/-! ### CTR_DRBG with AES-128, without a derivation function -/

/-- The DRBG's working state: Key, 16 bytes, and V, a 128-bit number. -/
structure Drbg where
  key : List Byte := List.replicate 16 0#8
  v : Nat := 0
  deriving DecidableEq, Repr

/-- The next `n` output blocks, and V after them. -/
def Drbg.blocks (g : Drbg) (n : Nat) : List Nat × Nat :=
  ((List.range n).flatMap fun i => aes128 (toNats g.key) (beBytes 16 ((g.v + 1 + i) % 2 ^ 128)), (g.v + n) % 2 ^ 128)

/-- The state is updated with 32 bytes of provided data. -/
def Drbg.update (g : Drbg) (data : List Nat) : Drbg :=
  let t := xorBytes (g.blocks 2).1 data
  { key := toBytes (t.take 16), v := beNat (t.drop 16) }

/-- Instantiation from 256 bits of entropy, and reseeding with them. -/
def Drbg.instantiate (entropy : List Byte) : Drbg := ({} : Drbg).update (toNats entropy)
def Drbg.reseed (g : Drbg) (entropy : List Byte) : Drbg := g.update (toNats entropy)

/-- One generate request of 32 bytes. -/
def Drbg.generate (g : Drbg) : Drbg × List Byte :=
  let (out, v) := g.blocks 2
  (({ g with v := v } : Drbg).update (List.replicate 32 0), toBytes out)

/-! ### The TRNG: health tests and conditioning (R697) -/

/-- The noise source since its start: raw bits still to discard, the last bit and how many have come like it, the first bit of the
running window of 1,024 with how often it has come and how many bits the window holds, and the raw bits gathered. -/
structure Noise where
  discard : Nat := 4096
  last : Bool := false
  run : Nat := 0
  first : Bool := false
  seen : Nat := 0
  filled : Nat := 0
  pool : List Bool := []
  deriving DecidableEq, Repr

/-- What a raw bit leads to: nothing yet, a failed health test (0 repetition count, 1 adaptive proportion), or a conditioned output. -/
inductive NoiseOut
  | more | failed (test : Nat) | output (bytes : List Byte)
  deriving DecidableEq, Repr

/-- Eight bits to a byte, the first most significant. -/
def packBits (l : List Bool) : List Byte :=
  (List.range (l.length / 8)).map fun i =>
    BitVec.ofNat 8 (((l.drop (8 * i)).take 8).foldl (fun n b => 2 * n + b.toNat) 0)

/-- One raw bit is tested: 41 identical bits in a row fail, and so does a first bit's value that comes 800 times or more in a window of
1,024. The first 4,096 bits of a start are discarded; then 1,024 bits give one conditioned output, their SHA-256 digest. -/
def Noise.bit (s : Noise) (b : Bool) : Noise × NoiseOut :=
  let run := if s.run ≠ 0 && s.last = b then s.run + 1 else 1
  let start := s.filled = 0 || s.filled = 1024
  let first := if start then b else s.first
  let seen := if start then 1 else if b = s.first then s.seen + 1 else s.seen
  let s := { s with last := b, run := run, first := first, seen := seen, filled := if start then 1 else s.filled + 1 }
  if run ≥ 41 then (s, .failed 0)
  else if seen ≥ 800 then (s, .failed 1)
  else if s.discard ≠ 0 then ({ s with discard := s.discard - 1 }, .more)
  else if s.pool.length < 1023 then ({ s with pool := s.pool ++ [b] }, .more)
  else ({ s with pool := [] }, .output (sha256 (packBits (s.pool ++ [b]))))

end Sys2Proof.Machine
end

