-- ==== Sys2Proof/Machine/Table.lean ====
section
/-!
DEFINITION. Machine/Table.lean: indexed collections of the state as sparse tables in one canonical order, and the
byte-layout helpers every structure of the manual is read and written with.
-/
namespace Sys2Proof.Machine

/-- A collection of like things by index (links, channels, accounts, rings, slots), held sparsely: an index that is
not listed holds the collection's starting value, which the reader of the table supplies. Entries stand in rising
order of index, so equal contents written in any order are equal data. -/
structure Tbl (α : Type) where
  cells : List (Nat × α) := []
  deriving DecidableEq, Repr

namespace Tbl

variable {α β : Type}

/-- The entry under `k` of a list of entries. -/
def find (k : Nat) : List (Nat × α) → Option α
  | [] => none
  | (i, v) :: t => if i = k then some v else find k t

/-- Put `v` under `k`, keeping the rising order. -/
def put (k : Nat) (v : α) : List (Nat × α) → List (Nat × α)
  | [] => [(k, v)]
  | (i, w) :: t =>
    if k < i then (k, v) :: (i, w) :: t
    else if k = i then (k, v) :: t
    else (i, w) :: put k v t

/-- Take the entry under `k` away. -/
def cut (k : Nat) : List (Nat × α) → List (Nat × α)
  | [] => []
  | (i, w) :: t => if i = k then cut k t else (i, w) :: cut k t

/-- What index `k` holds; `d` is the starting value of an index never written. -/
def get (t : Tbl α) (k : Nat) (d : α) : α := (find k t.cells).getD d

/-- What index `k` was last given, if anything. -/
def get? (t : Tbl α) (k : Nat) : Option α := find k t.cells

/-- Index `k` now holds `v`. -/
def set (t : Tbl α) (k : Nat) (v : α) : Tbl α := ⟨put k v t.cells⟩

/-- Index `k` changed by `f` (from the starting value `d` where never written). -/
def upd (t : Tbl α) (k : Nat) (d : α) (f : α → α) : Tbl α := t.set k (f (t.get k d))

/-- Index `k` back to its starting value. -/
def erase (t : Tbl α) (k : Nat) : Tbl α := ⟨cut k t.cells⟩

/-- The indices that were written, in rising order. -/
def keys (t : Tbl α) : List Nat := t.cells.map Prod.fst

/-- The written entries changed by `f`. -/
def mapV (t : Tbl α) (f : α → β) : Tbl β := ⟨t.cells.map fun p => (p.1, f p.2)⟩

/-- The written entries changed by `f`, which sees the index. -/
def mapKV (t : Tbl α) (f : Nat → α → β) : Tbl β := ⟨t.cells.map fun p => (p.1, f p.1 p.2)⟩

/-- A table holding `f k` for each listed index. -/
def ofFn (ks : List Nat) (f : Nat → α) : Tbl α := ks.foldl (fun t k => t.set k (f k)) {}

end Tbl

/-! ### Bytes and layouts -/

/-- The value of a little-endian byte string (R5). -/
def leNat : List Byte → Nat
  | [] => 0
  | b :: t => b.toNat + 256 * leNat t

/-- `sz` bytes of `n`, least significant first (R5). -/
def leBytes : Nat → Nat → List Byte
  | 0, _ => []
  | sz + 1, n => BitVec.ofNat 8 n :: leBytes sz (n / 256)

/-- The unsigned field of `sz` bytes at `off` of a byte string; bytes beyond its end read 0. -/
def fieldAt (bs : List Byte) (off sz : Nat) : Nat := leNat ((bs.drop off).take sz)

/-- `n` read as a two's complement number of `w` bits. -/
def asSigned (w n : Nat) : Int := if n % 2 ^ w < 2 ^ (w - 1) then (n % 2 ^ w : Nat) else (n % 2 ^ w : Nat) - (2 ^ w : Nat)

/-- The signed field of `sz` bytes at `off`. -/
def sfieldAt (bs : List Byte) (off sz : Nat) : Int := asSigned (8 * sz) (fieldAt bs off sz)

/-- `x` as a two's complement field of `w` bits. -/
def twos (w : Nat) (x : Int) : Nat := (x % (2 ^ w : Nat)).toNat

/-- One field of a layout: its offset, its size in bytes and its value. -/
structure Fld where
  off : Nat
  sz : Nat
  val : Nat
  deriving DecidableEq, Repr

/-- A signed field in two's complement. -/
def sfld (off sz : Nat) (x : Int) : Fld := ⟨off, sz, twos (8 * sz) x⟩

/-- Overwrite bytes `off …` of a byte string of fixed length; bytes beyond its end are dropped. -/
def pasteAt (bs : List Byte) (off : Nat) (new : List Byte) : List Byte :=
  bs.take off ++ (new.take (bs.length - off)) ++ bs.drop (off + new.length)

/-- A layout of `n` bytes: the listed fields, every other byte 0 (R11). -/
def layout (n : Nat) (fs : List Fld) : List Byte :=
  fs.foldl (fun bs f => pasteAt bs f.off (leBytes f.sz f.val)) (List.replicate n 0)

/-! ### Numbers -/

/-- A counter of `w` bits that stops at its top. -/
def satTo (w n : Nat) : Nat := min n (2 ^ w - 1)

/-- A saturating count up of a 32-bit counter. -/
def sat32 (n : Nat) : Nat := satTo 32 n

/-- `n` modulo 2^w: a wrapping counter. -/
def wrap (w n : Nat) : Nat := n % 2 ^ w

/-- `x` held within `lo` and `hi`. -/
def clampI (lo hi x : Int) : Int := max lo (min hi x)

/-- `n / d` rounded to the nearest integer, ties to even (R934). -/
def roundEven (n d : Int) : Int :=
  let q := n.fdiv d
  let r := n.fmod d
  if 2 * r < d then q else if 2 * r > d then q + 1 else if q % 2 = 0 then q else q + 1

/-- `n / d` rounded down or up, as the manual leaves open; a whole quotient is exact. `site` tells the places apart. -/
def freeDiv (site : Nat) (n d : Int) : Int :=
  let q := n.fdiv d
  if n.fmod d ≠ 0 && Sys2Proof.Config.roundsUp site n d then q + 1 else q

/-- The integer square root of `n`, rounded down: its bits from the highest down. -/
def isqrt (n : Nat) : Nat :=
  (List.range (n.log2 / 2 + 1)).foldr (fun k r => if (r + 2 ^ k) * (r + 2 ^ k) ≤ n then r + 2 ^ k else r) 0

/-- The integer square root, rounded to nearest of the exact root of `n / d`: the largest or next integer `q`
whose square is nearest, ties impossible for integer roots and upwards otherwise. -/
def sqrtRound (n d : Nat) : Nat :=
  let q := isqrt (n / d)
  if (4 * n ≥ (2 * q + 1) * (2 * q + 1) * d) then q + 1 else q

/-- The numbers `a, a+1, …` below `a + n`. -/
def span (a n : Nat) : List Nat := (List.range n).map (a + ·)

/-- The sum of `f` over a list. -/
def sumOn {α : Type} (l : List α) (f : α → Nat) : Nat := l.foldl (fun s x => s + f x) 0

/-- The signed sum of `f` over a list. -/
def sumOnI {α : Type} (l : List α) (f : α → Int) : Int := l.foldl (fun s x => s + f x) 0

/-- One step of a reflected CRC-32 register (polynomial 0x04C1_1DB7 reflected), one bit (R559). -/
def crc32Bit (c : BitVec 32) : BitVec 32 := if c.getLsbD 0 then (c >>> 1) ^^^ 0xEDB88320#32 else c >>> 1

/-- One byte through the reflected CRC-32. -/
def crc32Byte (c : BitVec 32) (b : Byte) : BitVec 32 :=
  (List.range 8).foldl (fun c _ => crc32Bit c) (c ^^^ b.setWidth 32)

/-- CRC-32: initial value all ones, input and output reflected, final complement (R559). -/
def crc32 (bs : List Byte) : Nat := (~~~(bs.foldl crc32Byte 0xFFFFFFFF#32)).toNat

/-- One bit, most significant first, through a CRC of polynomial `poly` on `w` bits. -/
def crcBit {w : Nat} (poly : BitVec w) (c : BitVec w) (b : Bool) : BitVec w :=
  if c.getMsbD 0 != b then (c <<< 1) ^^^ poly else c <<< 1

/-- The eight bits of a byte, most significant first. -/
def bitsMsb (b : Byte) : List Bool := (List.range 8).map fun i => b.getMsbD i

/-- CRC over a bit string, most significant bit first. -/
def crcBits {w : Nat} (poly init : BitVec w) (bits : List Bool) : BitVec w := bits.foldl (crcBit poly) init

end Sys2Proof.Machine
end

