-- ==== Sys2Proof/Machine/State.lean ====
section
/-!
DEFINITION. Machine/State.lean: the state of the LY64 as plain data, and the state right after reset.
-/
namespace Sys2Proof.Machine

/-! ### Power, clocks and service mode (chapters 1 and 2) -/

/-- The power states (R105, Table 2.3). -/
inductive PState
  | run | doze | hold | backup | off
  deriving DecidableEq, Repr

/-- How far the power-up order has come (R117, Table 2.5): reset or HOLD keeps step 3 from starting (`held`), config
store recall (step 3), ledger recall (step 4), and the end of step 4 onward (`ready`). -/
inductive BootStep
  | held | configRecall | ledgerRecall | ready
  deriving DecidableEq, Repr

/-- What clocks the RTC (R104, R1210): the start-up fallback, the crystal, the fallback after XT32_FAIL. -/
inductive RtcSource
  | startup | crystal | fallback
  deriving DecidableEq, Repr

/-- A POWER record that power-up owes and posts once records are posted again (R115, R116, R134, R121). -/
structure OwedPower where
  event : Nat
  time : DevTime
  fields : List Fld
  deriving DecidableEq, Repr

structure Power where
  /-- The model's time base in 2^−30 s at the last RTC tick: never set, never stepped, running in every power state. -/
  up : Nat := 0
  /-- Device time at the last RTC tick (R88, R89). -/
  rtc : DevTime := 0
  /-- Metrology clocks since the last RTC tick, 0–749 (R90). -/
  mcount : Nat := 0
  /-- The count has reached 749 and the crystal's tick is one clock late (R90). -/
  late : Bool := false
  /-- Metrology clocks since the last sample instant, and sample instants since the last commit tick (R77). -/
  smpClocks : Nat := 0
  tickSmps : Nat := 0
  /-- An RTC tick has come since the metrology clock stopped: device time reads in whole ticks (R91). -/
  coarse : Bool := false
  /-- The signed time difference a slew still has to absorb, in 2^−30 s (R95). -/
  slew : Int := 0
  /-- Fraction of a unit the slew has accrued, in thousandths (R95: 500 ppm of 2^15 is 16.384). -/
  slewFrac : Nat := 0
  /-- STATUS.TIME_INVALID (R100–R102). -/
  timeInvalid : Bool := true
  rtcSource : RtcSource := .startup
  /-- RTC ticks counted on the internal RC oscillator without a metrology clock, in the stretch running (R101). -/
  rcTicks : Nat := 0
  /-- A stretch of more than 10 s on the RC oscillator has happened since mains was last present (R101). -/
  rcLong : Bool := false
  pstate : PState := .run
  step : BootStep := .configRecall
  /-- Straps as sampled at reset end (R58, R984, R1191). -/
  hostmode : Bool := true
  twtA0 : Bool := false
  twtA1 : Bool := false
  testmode : Bool := false
  /-- MAINS_OK as last seen. -/
  mainsOk : Bool := true
  /-- The metrology clock runs (R80, R133). -/
  metClock : Bool := true
  /-- RTC ticks counted while the metrology clock was lost (R133). -/
  lostTicks : Nat := 0
  /-- The whole seconds of a metrology clock loss to add to unmetered-seconds registers after recall (R134). -/
  lostOwed : Nat := 0
  /-- Energy accumulation runs (step 6 of Table 2.5, R389). -/
  accum : Bool := false
  /-- Device time at which HOLD began, and whether a HOLD precedes this power-up (R116). -/
  holdTime : DevTime := 0
  /-- VDDA has fallen below its threshold in this HOLD or caused it (R1154). -/
  vddaHeld : Bool := false
  wasHeld : Bool := false
  /-- Device time at which BACKUP began, 0 when it was not entered (R116). -/
  backupTime : DevTime := 0
  /-- The final commit of the HOLD in progress has completed (R112, R114), or none is due (R132). -/
  finalDone : Bool := true
  /-- The HOLD in progress abandoned a recall, so no final commit takes place (R132). -/
  recallAbandoned : Bool := false
  /-- DOZE: entries and time since the last DOZE_EXIT_COUNT, and when the running DOZE began (R121). -/
  dozeEntries : Nat := 0
  dozeTime : Nat := 0
  dozeSince : DevTime := 0
  /-- STATUS.BACKSTOP, its cause, and the device time it began (R41, R51, R54, R799). -/
  backstop : Bool := true
  cause : Nat := 1
  backSince : DevTime := 0
  /-- A SOFT_RESET was written during the Backstop in progress (R1112, R1113). -/
  softSeen : Bool := false
  /-- A restart check runs and repeats every 10 s (R1113). -/
  checking : Bool := false
  /-- The fast domain is awake with its PLL locked (R29, R83, R84); TP3 shows it (R1190). -/
  fastOn : Bool := false
  /-- Consecutive failed PLL locks, 0–2 (R86). -/
  failedLocks : Nat := 0
  /-- Failed pre-wake locks not yet posted as PLL_LOCK_FAIL (R1096). -/
  lockFailOwed : Nat := 0
  /-- A pre-wake has been started for the next predicted boundary (R82, R418). -/
  preWake : Bool := false
  /-- Confirmed cycles since Backstop ended or the tracker locked; previews are allowed at 8 (R55, step 7). -/
  cyclesSinceBackstop : Nat := 0
  owed : List OwedPower := []
  /-- Device time at the end of ledger recall (R343). -/
  loadedAt : DevTime := 0
  /-- On the model's time base: end of config recall, end of ledger recall, since when voltage is present (R118), last work
  of the fast domain (R84), last activity that keeps DOZE away (R106), and last measurement of VBAT (R121). -/
  configAt : Nat := 0
  recallAt : Nat := 0
  presentSince : Option Nat := none
  workAt : Nat := 0
  idleSince : Nat := 0
  vbatAt : Option Nat := none
  /-- RTC ticks counted in RUN since power-up (R595, R698). -/
  runTicks : Nat := 0
  deriving DecidableEq, Repr

/-! ### The host port (chapter 16) -/

/-- One MSI-X vector's moderation window (R780): open or not, when it opened, the occurrences counted in it, whether
a message has been sent for the cause as it stands, and whether a message waits for the MSI-X masks. -/
structure Win where
  opened : Bool := false
  since : Nat := 0
  count : Nat := 0
  sent : Bool := false
  pending : Bool := false
  deriving DecidableEq, Repr

/-- What one function holds: CAUSE and MASK (Table 16.6), KICK_REJECTED (R778), Bus Master Enable, and the MSI-X
masks (R780). -/
structure Fn where
  cause : BitVec 4 := 0#4
  mask : BitVec 4 := 0xF#4
  kickRejected : Nat := 0
  bme : Bool := false
  msixEn : Bool := false
  fmask : Bool := false
  vmask : BitVec 4 := 0xF#4
  win : Tbl Win := {}
  deriving DecidableEq, Repr

/-- The mover's transfer in progress: bytes still to move and the bytes already there (R859, R860). -/
structure MoverRun where
  dir : Bool
  src : Nat
  dst : Nat
  left : Nat
  /-- Bytes that a read of the registers has found moved (R860). -/
  moved : Nat := 0
  deriving DecidableEq, Repr

structure HostPort where
  /-- ACCEPT, the accepted set of the host side, and that of the metrology units from the next tick (R786). -/
  accept : W64 := 0#64
  accepted : W64 := 0#64
  acceptedMet : W64 := 0#64
  /-- CONTROL (Table 16.4). -/
  enable : Bool := false
  quiesce : Bool := false
  wakeHold : Bool := false
  twtLock : Bool := false
  dozeIdle : BitVec 32 := 1000#32
  /-- STATUS fields kept here (Table 16.5). -/
  negotiated : Bool := false
  negFail : Bool := false
  twtLast : Bool := false
  /-- A negotiation in progress, with the ACCEPT it was judged on (R784, R814). -/
  negotiating : Option W64 := none
  /-- A GO written over TWT while READY was 0, held (R1133). -/
  goHeld : Bool := false
  /-- TABLEBASE, DOORBASE (Table 16.7) and the TABLEBASE.BASE of the last shadow (R825). -/
  tablebase : W64 := 0#64
  doorbase : W64 := 0#64
  shadowBase : W64 := 0#64
  /-- MOVESRC, MOVEDST, MOVECTL (Table 16.8). -/
  movesrc : W64 := 0#64
  movedst : W64 := 0#64
  moveCount : BitVec 32 := 0#32
  moveDir : Bool := false
  moveDone : Bool := false
  moveFail : Bool := false
  mover : Option MoverRun := none
  fns : Tbl Fn := {}
  numVfs : Nat := 0
  vfEnable : Bool := false
  /-- ARI Capable Hierarchy (Table 16.2). -/
  ari : Bool := false
  /-- PF in D3hot, ASPM L1 enabled, LTR enabled, link up, since when it is down (R788–R795). -/
  d3hot : Bool := false
  aspmL1 : Bool := false
  ltrEn : Bool := false
  linkUp : Bool := false
  downSince : Nat := 0
  /-- The HOST group's payload in effect (Table 16.10). -/
  groupBytes : List Byte := layout 64 ((List.range 8).map (fun v => ⟨4 * v + 2, 2, 1⟩) ++ [⟨32, 2, 100⟩])
  /-- VF resets under way that wait for owed follow-ups, by tenant (R798). -/
  flrWait : List Nat := []
  deriving DecidableEq, Repr

/-! ### Records, rings and commands in flight (chapters 17, 18, 19) -/

/-- The AUTH trailer of a record (Table 19.3): generation, counter and tag. -/
structure Auth where
  gen : Nat
  counter : Nat
  tag : Nat
  deriving DecidableEq, Repr

/-- A record as formed for one ring, less its phase bit: header of Table 19.1 and payload fields. -/
structure Rec where
  ty : Nat
  flags : Nat
  tenant : Nat
  epoch : Nat
  seq : Nat
  time : DevTime
  pay : List Fld
  auth : Option Auth
  deriving DecidableEq, Repr

/-- A record before it is formed for a ring: header fields, the full payload and its length (R928). -/
structure RecBody where
  ty : Nat
  flags : Nat := 0
  tenant : Nat := 0xFF
  epoch : Nat := 0
  seq : Nat := 0
  time : DevTime := 0
  len : Nat := 48
  pay : List Fld := []
  /-- LSTATUS of a payload that was cut before it was placed (R511, R930). -/
  cut : Nat := 0
  deriving DecidableEq, Repr

/-- An entry the LY64 fills into a ring (Table 17.5). -/
inductive Entry
  | completion (status tag : Nat) (result : Nat) (detail : Bool)
  | pad
  | record (r : Rec)
  deriving DecidableEq, Repr

/-- The states of a ring (Table 17.4). -/
inductive RingState
  | absent | stopped | started | stopping | error
  deriving DecidableEq, Repr

/-- A free-buffer entry taken from host memory and not yet used (Table 17.9). -/
structure FreeBuf where
  addr : Nat
  len : Nat
  bufId : Nat
  deriving DecidableEq, Repr

/-- One ring: its host-owned context fields as last read, its device-owned fields (Table 17.1), the shadow's CHECK
(R825) and what waits for it. -/
structure Ring where
  base : Nat := 0
  log2 : Nat := 0
  ty : Nat := 0
  cflags : Nat := 0
  weight : Nat := 0
  partner : Nat := 0xFFFF
  accounts : Nat := 0
  types : Nat := 0
  devIndex : Nat := 0
  hostIndex : Nat := 0
  noIrq : Bool := false
  state : RingState := .absent
  dropped : Nat := 0
  err : Nat := 0
  check : Nat := 0
  cached : Bool := true
  /-- A fetch stopped at a descriptor not yet written for its lap; it goes on at the next doorbell read (R841). -/
  stalled : Bool := false
  /-- When the doorbell was last read, on the model's time base, and whether an entry has found no room since (R838). -/
  bellAt : Nat := 0
  short : Bool := false
  /-- DEV_INDEX at the last write-back (R823). -/
  wbIndex : Nat := 0
  /-- Records held under Table 17.7, oldest first. -/
  held : List RecBody := []
  /-- Entries reserved for follow-ups of posted previews (R429, R847). -/
  owed : Nat := 0
  /-- Follow-ups that wait because mastering stopped (R803), oldest first. -/
  late : List RecBody := []
  /-- Free-buffer ring: entries fetched and not yet taken, and the ring index of the first of them. -/
  bufs : List FreeBuf := []
  bufIndex : Nat := 0
  deriving DecidableEq, Repr

/-- A descriptor fetched and not yet completed (R841), in fetch order; `no` counts fetches device-wide. The entry of Table 18.5 it
names, whether it writes the config store, and whether it has begun execution (R899). -/
structure Flight where
  no : Nat
  ring : Nat
  tag : Nat
  opcode : Nat
  entry : Option Nat := none
  store : Bool := false
  begun : Bool := false
  deriving DecidableEq, Repr

/-- A FENCE that waits (R900): for the flights of its ring fetched before `no`, and with TICK for a commit. -/
structure FenceWait where
  cmd : CmdRef
  ring : Nat
  no : Nat
  tick : Bool
  /-- With TICK, the SEQ of the commit it waits for, once the earlier commands have completed. -/
  commit : Option Nat
  deriving DecidableEq, Repr

/-- A completion that waits for its completion ring (R879) or for a preview set (R433). -/
structure OwedCompletion where
  cmd : CmdRef
  status : Nat
  result : Nat
  detail : Bool
  /-- The record the command produces, posted before it (R842). -/
  record : Option RecBody
  deriving DecidableEq, Repr

/-- What waits behind a preview set: a record for a ring, or a completion (R433). -/
inductive Behind
  | record (r : Nat) (b : RecBody)
  | completion (o : OwedCompletion)
  deriving DecidableEq, Repr

structure RingEngine where
  rings : Tbl Ring := {}
  /-- Owner of each assigned block but block 0: 0–63 a tenant, 0xFF the supervisor (R818, R819). -/
  blocks : Tbl Nat := {}
  flights : List Flight := []
  fetchNo : Nat := 0
  fences : List FenceWait := []
  /-- RING_STOPs that wait for STOPPED: the ring and the command (R902). -/
  stops : List (Nat × CmdRef) := []
  owedDone : List OwedCompletion := []
  /-- The service turn running (R843): the tenant it starts from, the first tenant served in it, and the place in its order of
  the ring served last. -/
  turn : Nat := 0
  turnFirst : Option Nat := none
  turnAt : Option Nat := none
  /-- The ring shadow is taken: its staging blocks (R825). -/
  shadowBlocks : Nat := 0
  /-- Staging blocks held by line receive, and quarantined; the reserved blocks that class 1 has taken; and the requester of each
  class that lost its last contest (R850–R852, Table 12.12). -/
  lineBlocks : Nat := 0
  quarantined : Nat := 0
  reserved : Nat := 0
  lost : Tbl Nat := {}
  /-- The predicted instant whose preview set a pre-wake has opened, and what waits behind the set, in order (R433). -/
  setOpen : Option Nat := none
  behind : List Behind := []
  /-- Boot-image descriptors not yet completed (R864). -/
  bootLeft : Nat := 0
  /-- When the last doorbell scan fell due (R839). -/
  scanAt : Nat := 0
  deriving DecidableEq, Repr

/-- The records unit: SEQ per stream (R925), keyed 256·TYPE + TENANT; numbered records that wait for a commit (R946);
copies for one ring that wait for a counter ceiling (R683); and when each quarter-hour record was last generated, by its
command's place in Table 19.13 ff. (R121). -/
structure Records where
  seq : Tbl Nat := {}
  sums : Tbl Nat := {}
  afterCommit : List RecBody := []
  ceilWait : List (Nat × RecBody) := []
  deriving DecidableEq, Repr

/-- A running SELFTEST (R908). -/
structure SelfTest where
  cmd : CmdRef
  test : Nat
  target : Nat
  duration : Nat
  /-- When it began, on the model's time base. -/
  since : Nat
  /-- A link test: slots judged so far, the ones of each stream in them, and the streams that mismatched (Table 18.8). -/
  slots : Nat := 0
  ones : Tbl Nat := {}
  wrong : Nat := 0
  deriving DecidableEq, Repr

/-! ### Errors (chapter 23) -/

/-- An error to report (R1094): code, class, region, account, DETAIL. -/
structure Err where
  code : Nat
  cls : Nat
  region : Nat := 0xFF
  account : Nat := 0xFF
  detail : List Fld := []
  deriving DecidableEq, Repr

/-- The handling slot that is open (R1098, R1099). -/
structure ErrSlot where
  err : Err
  time : DevTime
  /-- When it opened, on the model's time base. -/
  since : Nat := 0
  follow : Nat := 0
  followCode : Nat := 0
  regionCount : Nat := 0
  deriving DecidableEq, Repr

/-- A closed ERROR record that waits in the internal queue (R1102), before it is numbered into ring 2. -/
structure ErrRec where
  err : Err
  time : DevTime
  follow : Nat
  followCode : Nat
  regionCount : Nat
  escalated : Bool
  overflow : Nat
  seq : Nat
  deriving DecidableEq, Repr

structure ErrorUnit where
  slot : Option ErrSlot := none
  /-- Slot 3 is open until Backstop is entered (R1215). -/
  fatalOpen : Bool := false
  queue : List ErrRec := []
  overflow : Nat := 0
  queuePeak : Nat := 0
  /-- ERR_SEQ of C2 and C3 records written and not acknowledged, oldest first (R1110); UNACKED. -/
  unackList : List Nat := []
  unacked : Nat := 0
  /-- ERR_SEQ of the record posted from the latch (R1111). -/
  latchSeq : Option Nat := none
  /-- Totals per class since power-up (Table 23.4, 0x0F04). -/
  totals : Tbl Nat := {}
  /-- A device-fatal error has been latched and Backstop with this cause is due within 1 ms (R51). -/
  fatalDue : Option Nat := none
  /-- FATAL_ACKED is to be written at the next commit (R1111). -/
  ackDue : Bool := false
  /-- The errors found so far in the clock at hand, while a command that may find several runs (R1100); none between commands. -/
  found : Option (List Err) := none
  deriving DecidableEq, Repr

/-! ### The ledger (chapter 12) -/

/-- The sealed fields of an account in effect (Table 12.5 CFG, codes of Table 7.1). -/
structure AcctCfg where
  conn : Nat := 0
  dirmode : Nat := 0
  target : Nat := 0
  ch : Tbl Nat := ⟨[(0, 0xFFFF), (1, 0xFFFF), (2, 0xFFFF)]⟩
  ph : Tbl Nat := ⟨[(0, 0xFF), (1, 0xFF), (2, 0xFF)]⟩
  deriving DecidableEq, Repr

/-- A LEGAL block (Table 12.5): registers in their unit, residues in 2^−32 unit, in-filter energies in 2^−16 unit
keyed 3·pair + quantity. -/
structure Legal where
  reg : Tbl Nat := {}
  res : Tbl Nat := {}
  cfg : AcctCfg := {}
  infilter : Tbl Int := {}
  fresh : Bool := false
  freshSince : DevTime := 0
  deriving DecidableEq, Repr

/-- The tariff working state of an account (Table 13.6, R629). -/
structure TariffState where
  rate : Nat := 0
  grid : Nat := 0
  openReasons : Nat := 0
  tflags : Nat := 0
  relayMode : Nat := 0
  llCount : Nat := 0
  recloseLeft : Nat := 0
  trips : Nat := 0
  voucher : Nat := 0
  creditRes : Nat := 0
  demandStart : DevTime := 0
  demandE : Tbl Nat := {}
  deriving DecidableEq, Repr

/-- An OPEN block (Table 12.6). RATE and RATE_RES are keyed 2·rate + direction; DEMAND holds maximum and time. -/
structure OpenBlk where
  rate : Tbl Nat := {}
  rateRes : Tbl Nat := {}
  demand : Tbl (Nat × DevTime) := {}
  credit : Int := 0
  unmetered : Nat := 0
  unmetRes : Nat := 0
  suspendCount : Nat := 0
  epoch : Nat := 1
  relayClosed : Bool := false
  relayValid : Bool := false
  openLost : Bool := false
  suspended : Bool := false
  tst : TariffState := {}
  deriving DecidableEq, Repr

/-- The SEAL block (Table 12.4); GRP fields keyed by j = 0–2. -/
structure SealBlk where
  calEvents : Nat := 0
  pkgVersion : Nat := 0
  lastChange : DevTime := 0
  lastOpen : DevTime := 0
  grpSseq : Tbl Nat := {}
  grpPcrc : Tbl Nat := {}
  deriving DecidableEq, Repr

/-- The DEVICE block (Table 12.4a); COUNTS keyed 3·phase + kind (sags, swells, interruptions). -/
structure DeviceBlk where
  grid : Nat := 0
  gridSource : Nat := 0
  gridHeld : Bool := false
  arrival : DevTime := 0
  counts : Tbl Nat := {}
  weak : Tbl Nat := {}
  deriving DecidableEq, Repr

/-- The PULSE block: ACC in 2^−32 units of the 96-bit accumulator, and pending count, per output (R539). -/
structure PulseBlk where
  acc : Tbl Int := {}
  pending : Tbl Nat := {}
  deriving DecidableEq, Repr

/-- The ERRORS block (Table 12.2, Table 23.5). -/
structure ErrBlk where
  count : Tbl Nat := {}
  reported : Tbl Nat := {}
  fatalCode : Nat := 0
  fatalCause : Nat := 0
  fatalAcked : Bool := false
  fatalTime : DevTime := 0
  fatalFollow : Nat := 0
  fatalDetail : List Fld := []
  queueLost : Nat := 0
  classCount : Tbl Nat := {}
  firstCode : Tbl Nat := {}
  deriving DecidableEq, Repr

/-- The COUNTERS block (Table 14.4): ceilings of the tenant record counters, of the line counter, and SNAP_SEQ. -/
structure CounterBlk where
  tceil : Tbl Nat := {}
  lceil : Nat := 0
  snapSeq : Tbl Nat := {}
  deriving DecidableEq, Repr

/-- One owner's entry of the KEYPTR block (Table 14.5): active slot (0xFF none), generation, commits. -/
structure KeyPtr where
  active : Nat := 0xFF
  gen : Nat := 0
  commits : Nat := 0
  deriving DecidableEq, Repr

/-- One TAMPER slot (R562). -/
structure TSlot where
  count : Nat := 0
  first : DevTime := 0
  last : DevTime := 0
  lost : Bool := false
  deriving DecidableEq, Repr

/-- A RECOVERY candidate (Table 12.12a). -/
structure Candidate where
  account : Nat := 0xFF
  found : DevTime := 0
  image : Legal := {}
  /-- SEQ in the header of IMAGE: that of the LEGAL block's last commit at the finding. -/
  seq : Nat := 0
  deriving DecidableEq, Repr

/-- The contents of one ledger copy, or the working values of every block (R564): what Table 12.2 lists. -/
structure Image where
  sealBlk : SealBlk := {}
  device : DeviceBlk := {}
  pulse : PulseBlk := {}
  errors : ErrBlk := {}
  counters : CounterBlk := {}
  keyptr : Tbl KeyPtr := {}
  legal : Tbl Legal := {}
  opens : Tbl OpenBlk := {}
  tamper : Tbl TSlot := {}
  recovery : Tbl Candidate := {}
  deriving DecidableEq, Repr

/-- One copy of the ledger: its blocks' contents, each block's SEQ (0 where never written since formatting), the
COMMIT block's fields, and the blocks that are not valid: by an uncorrectable word (`hard`) or by their CRC only. -/
structure Copy where
  img : Image := {}
  seqs : Tbl Nat := {}
  seq : Nat := 0
  final : Bool := true
  time : DevTime := 0
  reason : Nat := 1
  hard : List Nat := []
  crcBad : List Nat := []
  deriving DecidableEq, Repr

/-- A commit under way: its image, number, FINAL, REASON, TIME and commit set (R565–R568), and how many of the records that
wait for a commit (R946) it covers. -/
structure Commit where
  img : Image
  seq : Nat
  final : Bool
  reason : Nat
  time : DevTime
  blocks : List Nat
  recs : Nat := 0
  deriving DecidableEq, Repr

structure Ledger where
  work : Image := {}
  a : Copy := {}
  b : Copy := {}
  /-- The last completed commit's values, which LEDGER_READ returns (R574), each block's SEQ, and its number. -/
  last : Image := {}
  lastSeqs : Tbl Nat := {}
  lastSeq : Nat := 0
  writing : Option Commit := none
  /-- When the scrubber last read the ledger, and staging and the context cache (R598). -/
  scrubAt : Nat := 0
  sramAt : Nat := 0
  /-- Blocks lost in both copies during operation, which the next commit rewrites (Table 12.12). -/
  rewrite : List Nat := []
  /-- The repair commit is due (step 7 of Table 12.8), and the sealed groups that differ are judged at it (R592). -/
  repairDue : Bool := false
  /-- Accounts whose LEGAL block was lost at recall (their CFG is taken from ACCOUNTS). -/
  legalLost : List Nat := []
  /-- COUNTERS lost: every counter is exhausted until KEY_COMMIT of a new generation (Table 12.12), by owner. -/
  countersLost : List Nat := []
  deriving DecidableEq, Repr

/-! ### The config store (chapter 12) -/

/-- A slot of a group's ring: where it stands, its sequence, its payload, and whether it is complete (DONE programmed),
holds an uncorrectable word, or holds one in its header (R579, R589). -/
structure Slot where
  sector : Nat
  place : Nat
  sseq : Nat
  payload : List Byte
  done : Bool := true
  bad : Bool := false
  hdrBad : Bool := false
  deriving DecidableEq, Repr

/-- A group write (R585): the block of the group it changes, by key (CAL_CABINET: 0 the CABINET block, 1 and 2 the
VOLTAGE blocks; CAL_CHANNEL: the channel; ACCOUNTS: the account; PULSES: the output; KEYS: 2·owner + slot; otherwise 0),
the command that waits for it (none for a refresh, or once Backstop abandoned it), and its completion's RESULT. -/
structure GroupWrite where
  group : Nat
  key : Nat
  block : List Byte
  cmd : Option CmdRef
  result : Nat := 0
  /-- CAL_SET and TENANT_SET: a sealed change (R529, R332); TENANT_SET: CLEAR_LEGAL (R335); KEY_LOAD: the GEN. -/
  sealChange : Bool := false
  clear : Bool := false
  gen : Nat := 0
  deriving DecidableEq, Repr

/-- The write that is executing, with its payload formed (R581). -/
structure Writing where
  w : GroupWrite
  payload : List Byte
  refresh : Bool := false
  retried : Bool := false
  deriving DecidableEq, Repr

/-- A KEYS record as it stands in the log (R580): its place, its fields, and the key its BODY wraps. -/
structure KeyRec where
  owner : Nat
  slot : Nat
  sector : Nat
  place : Nat
  sseq : Nat
  gen : Nat
  key : List Byte
  done : Bool := true
  bad : Bool := false
  deriving DecidableEq, Repr

structure ConfigStore where
  /-- Slots of each group, newest first (R578–R580). -/
  slots : Tbl (List Slot) := {}
  keys : List KeyRec := []
  /-- Sectors of each group's ring where they differ from Table 12.9; retired sectors; spares taken (R578, R597). -/
  rings : Tbl (List Nat) := {}
  retired : List Nat := []
  sparesUsed : Nat := 0
  sparesPosted : Bool := false
  /-- Sectors that do not read reliably erased, and those being erased (R581, R582, R588). -/
  dirty : List Nat := []
  erasing : List Nat := []
  /-- Group writes from commands, oldest first, the one executing apart (R585); refreshes, at most one per
  group, given as the group and, for a KEYS record, 256 times its key. -/
  queue : List GroupWrite := []
  executing : Option Writing := none
  refresh : List Nat := []
  /-- Group writes completed whose change takes effect at the next commit tick (R587). -/
  due : List GroupWrite := []
  /-- The package in effect: the payload of its slot (R593); TARIFF records carry PACKAGE_FALLBACK (Table 12.12). -/
  package : Option (List Byte) := none
  packageFallback : Bool := false
  /-- A fallback package takes effect at the next tick (Table 12.12). -/
  packageDue : Option (Option (List Byte)) := none
  factoryLost : Bool := false
  factoryBad : List Nat := []
  /-- Groups for which recall found slots but none valid (R591). -/
  lost : List Nat := []
  /-- RUN time of the last margin pass (R595), and of the first negotiation. -/
  lastMargin : Option Nat := none
  firstNeg : Option Nat := none
  deriving DecidableEq, Repr

/-! ### Links, direct inputs and channels (chapters 3 and 4) -/

/-- Link states (Table 3.7). -/
inductive LinkState
  | down | aligning | up | short
  deriving DecidableEq, Repr

/-- What the downstream frames of one superframe say (Table 3.1). -/
structure DnWord where
  sfc : Nat := 0
  relay : Nat := 0
  relayValid : Nat := 0
  test : Nat := 0
  locate : Bool := false
  deriving DecidableEq, Repr

/-- One Oaser link (R161–R186). -/
structure Link where
  state : LinkState := .down
  /-- DOWN: sync symbols found 7,680 code bits apart so far (R161). -/
  found : Nat := 0
  /-- ALIGNING: consecutive valid superframes inside the window, superframes without sync, superframes outside the
  window (R161, Table 3.8). -/
  aligned : Nat := 0
  noSync : Nat := 0
  outside : Nat := 0
  /-- UP: consecutive superframes that are not valid, and when the first of them began (R164, R168). -/
  bad : Nat := 0
  /-- Receiver and driver polarity inverted (R171, R173, R175); the driver inverts at the next frame 0. -/
  rxInv : Bool := false
  dnInv : Bool := false
  dnFlip : Bool := false
  /-- A superframe has been received since the last sample instant. -/
  heard : Bool := false
  /-- Consecutive inverted and undecided echo results; the driver toggles, and superframes since the last toggle. -/
  invRun : Nat := 0
  undecRun : Nat := 0
  toggling : Bool := false
  toggleAge : Nat := 0
  /-- MOD bits of the last slot as delivered (R156). -/
  mods : Nat := 0
  /-- Status word and RELAY_STATE of the last valid superframe (R160); none before the first. -/
  status : Option Nat := none
  relayState : Nat := 0
  /-- UP: consecutive valid superframes with ADDR_ASSIGNED = 0, and what this UP period has posted (R182, R183). -/
  unassignedRun : Nat := 0
  unassignedPosted : Bool := false
  absentPosted : Bool := false
  /-- Released samples (R167), when the link entered UP, and when the unmetered interval opened (R168). -/
  released : Bool := false
  upSince : Nat := 0
  lostSince : Option Nat := none
  /-- Relay and valid bits asked for, as the tariff engine and RELAY_SET set them (R179); TEST and LOCATE. -/
  cmdRelay : Nat := 0
  cmdValid : Nat := 0
  cmdTest : Nat := 0
  cmdLocate : Bool := false
  /-- The same as sent in the frames of the superframe (R146). -/
  relay : Nat := 0
  relayValid : Nat := 0
  test : Nat := 0
  locate : Bool := false
  /-- What the frames of the superframe before said: an echo may answer it (R172). -/
  before : DnWord := {}
  /-- When each relay's command was first sent, and relays already compared for it (R181). -/
  sentAt : Tbl Nat := {}
  compared : List Nat := []
  /-- SHORT: the driver is on in a retry, and when it was last switched (R177). -/
  retrying : Bool := false
  switchedAt : Nat := 0
  /-- SHORT: the fault came in UP and the third superframe after it is yet to come (R196). -/
  shortUp : Bool := false
  /-- Counters of R184. -/
  badSlot : Nat := 0
  crcFail : Nat := 0
  syncMiss : Nat := 0
  lossCount : Nat := 0
  shortRetry : Nat := 0
  unmetered : Nat := 0
  /-- A counter changed since the last COUNTERS record (Table 3.8). -/
  changed : Bool := false
  deriving DecidableEq, Repr

/-- A direct input DM0–DM3 (R202–R206, R224). -/
structure DirectIn where
  locked : Bool := false
  /-- Consecutive bit times with and without a mid-bit transition inside the window, and when the first without began (R203). -/
  goodRun : Nat := 0
  badRun : Nat := 0
  badFrom : Nat := 0
  /-- When the input began to lack lock, and when DM_ALIGN_ERROR was last posted for it. -/
  unlockedSince : Nat := 0
  alignPosted : Option Nat := none
  codeErr : Nat := 0
  lossCount : Nat := 0
  unmetered : Nat := 0
  changed : Bool := false
  deriving DecidableEq, Repr

/-- One current channel's flatline and overload (R217–R220) and counters (R224). -/
structure Chan where
  flat : Bool := false
  /-- When the input locked again or was configured anew: the flatline ends no sooner than 2.0 ms later (R219, R234). -/
  backAt : Nat := 0
  /-- When the flatline began, for the unmetered interval. -/
  flatSince : Nat := 0
  ovl : Bool := false
  overSince : Nat := 0
  lastOver : Nat := 0
  overSecs : Nat := 0
  flatCount : Nat := 0
  deriving DecidableEq, Repr

/-- One channel's bitstream and decimation (R207–R219), each list newest first: its last 189 bits, its last sinc3 outputs and its
last 16 kS/s FIR outputs; the run of equal bits it ends in, when that run began and when the last run of 64 ended; and a run of 64
that no flatline has answered yet, by its bit and its start. -/
structure Stream where
  bits : List Bool := []
  sinc : List Int := []
  fir : List Int := []
  run : Nat := 0
  runStart : Nat := 0
  runEnd : Nat := 0
  seen : Option (Bool × Nat) := none
  deriving DecidableEq, Repr

/-- The intake (chapter 4): channels and their streams, direct inputs, and the superframe count of the downstream frames (Table
3.1). -/
structure Intake where
  chans : Tbl Chan := {}
  streams : Tbl Stream := {}
  dms : Tbl DirectIn := {}
  sfc : Nat := 0
  deriving DecidableEq, Repr

/-! ### Accounts at run time (chapters 7 and 8) -/

/-- Sums over the running second of one pair: the numerator of P in mW of every sample (R496); those of P, Q and S of the samples at
which its account advanced (Table 7.6, Table 19.6); squares, and samples. -/
structure Sec where
  all : Int := 0
  p : Int := 0
  q : Int := 0
  s : Nat := 0
  i2 : Int := 0
  v2 : Int := 0
  n : Nat := 0
  deriving DecidableEq, Repr

/-- One pair of an account. Filters hold what their two sections remember and an output per quantity: 0 P, 1 Q, 2 P1, 3 v², 4 i². -/
structure PairRun where
  flt : Tbl (List Int) := {}
  out : Tbl Int := {}
  /-- In-filter energy: the sum of unfiltered less filtered products, 0 P, 1 Q, 2 P1 (R378). -/
  infl : Tbl Int := {}
  gate : Bool := false
  /-- Commit ticks below −P_REV, and at or above 0; reversed (R384). -/
  revRun : Nat := 0
  backRun : Nat := 0
  reversed : Bool := false
  /-- When the pair last stopped delivering samples, while it does not and its time counts (R168, R169). -/
  lostSince : Option Nat := none
  sec : Sec := {}
  /-- The pair lost samples or was overloaded in the running second, harmonic window or half-cycle. -/
  secBad : Bool := false
  winBad : Bool := false
  deriving DecidableEq, Repr

/-- A pending TENANT_SUSPEND or TENANT_RESUME (R334). -/
inductive AcctPend
  | suspend | resume
  deriving DecidableEq, Repr

/-- A pending sealed recovery (R909, R1116, R1118): from a candidate, or from the fresh accumulator. -/
inductive Recovery
  | candidate (n : Nat)
  | fresh
  deriving DecidableEq, Repr

/-- One account: its configuration block in effect (Table 7.1, with FLAGS 0), its state as shown, and its pairs. -/
structure Acct where
  block : List Byte := layout 32 [⟨4, 2, 0xFFFF⟩, ⟨6, 2, 0xFFFF⟩, ⟨8, 2, 0xFFFF⟩, ⟨10, 3, 0xFFFFFF⟩, ⟨18, 1, 0xFF⟩]
  pend : Option AcctPend := none
  recover : Option Recovery := none
  /-- STATE (Table 7.8) as held: transitions wait while no converter gives valid voltages (R329). -/
  shown : Nat := 0
  /-- The SUSPENDED condition as the held state shows it (R329). -/
  susp : Bool := false
  /-- Device time of the last change of STATE; none before the first since power-up (R343). -/
  changed : Option DevTime := none
  pairs : Tbl PairRun := {}
  /-- The unmetered interval in progress: when it began, and its superframes counted so far (R168, R169). -/
  unmet : Option (Nat × Nat) := none
  /-- The epoch changes of late, newest first: when, and what the epoch was before (R342, R420, Table 10.5). -/
  touches : List (Nat × Nat) := []
  /-- Energy filed into RATE A+ during the running second, in 2^−32 mWh (R641). -/
  secImport : Nat := 0
  /-- The limit LL_COUNT was counted against (R641). -/
  llLimit : Nat := 0
  /-- The energy imported in the last second (R641). -/
  lastImport : Nat := 0
  deriving DecidableEq, Repr

/-! ### Voltage converters and the Umpire (chapter 5) -/

/-- One converter's health (R262–R264). -/
structure Conv where
  good : Bool := true
  stays : Bool := false
  failTimes : List DevTime := []
  passes : Nat := 0
  latestPass : Bool := false
  /-- When the retest in progress began, or when the last ended. -/
  retesting : Bool := false
  retestAt : Nat := 0
  deriving DecidableEq, Repr

/-- A reference test in progress (R256, R279): kind 0 after DISAGREE, 1 power-up, 3 SELFTEST; the SELFTEST command. -/
structure RefTest where
  kind : Nat
  since : Nat
  cmd : Option CmdRef := none
  deriving DecidableEq, Repr

/-- A sum of values and how many there were. -/
structure Mean where
  sum : Int := 0
  n : Nat := 0
  deriving DecidableEq, Repr

/-- An Umpire block of 200 ms (R250–R253, R282): the shared channel, the samples that have come, the sum of e² in counts² × 2^60 and the
samples in it, whether something spoils it, and Converter A's slot 6 codes of its two halves. -/
structure UmpBlock where
  shared : Nat := 0
  smps : Nat := 0
  e2 : Int := 0
  n : Nat := 0
  bad : Bool := false
  zero : Mean := {}
  vchk : Mean := {}
  deriving DecidableEq, Repr

structure Volt where
  healthA : Conv := {}
  healthB : Conv := {}
  /-- Converter that serves metrology: 0 A, 1 B, 2 none. -/
  serving : Nat := 0
  /-- Converter B's frame: 0 NORMAL, 1 VOLTS, 2 none (Table 5.2). -/
  frameB : Nat := 0
  /-- Converter A's frames since power-up, modulo 4 (R238), and each slice's correction, keyed 4 × quantity + slice; unlisted: the factory
  trim (R240). -/
  frame : Nat := 0
  corr : Tbl Int := {}
  /-- Conversions of each voltage path, newest first, in 24-bit counts, and its newest FIR outputs (R245), keyed 5 × converter +
  channel, channel 4 the shared one. -/
  lines : Tbl (List Int) := {}
  outs : Tbl (List Int) := {}
  persist : Nat := 0
  shared : Nat := 0
  /-- The running block, its commit ticks and its place in the second, and the block that has closed and is not judged yet. -/
  run : UmpBlock := {}
  tick : Nat := 0
  block : Nat := 0
  closed : Option UmpBlock := none
  /-- The last RMS(e) values, newest first (R254). -/
  rms : List Nat := []
  test : Option RefTest := none
  /-- CHK_ZERO and VCHK codes read so far: 0 and 1 by Converter A, 2 and 3 by Converter B in a test; 4 to 7 the same in a retest; 8 VCHK by
  Converter B in the 100 ms of R265, and when those began. -/
  checks : Tbl Mean := {}
  watchAt : Nat := 0
  chkDrift : Bool := false
  vchkRun : Nat := 0
  /-- Slices for which SLICE_LIMIT has been posted (R241). -/
  slices : List Nat := []
  /-- Channels in a VIN_CLIP; channels clipped in this half-cycle; when each was last clipped (R266). -/
  clip : List Nat := []
  clipNow : List Nat := []
  lastClip : Tbl Nat := {}
  /-- Open-input test in progress, the result per channel (0 normal, 1 VIN_OPEN, 2 VIN_DEAD), 10 ms intervals below
  2 % of U_NOM, and when each channel was last tested (R268). -/
  openTest : Option (Nat × Nat) := none
  openState : Tbl Nat := {}
  lowRun : Tbl Nat := {}
  lastOpen : Tbl Nat := {}
  /-- Squares of VA–VC over the running 10 ms interval, and samples (R118, R268). -/
  tickV2 : Tbl Int := {}
  tickN : Nat := 0
  /-- UMPIRE SUMMARY: peak RMS(e) per channel, slot 6 codes, persistence maximum (Table 5.6). -/
  peakE : Tbl Nat := {}
  zero : Mean := {}
  vchk : Mean := {}
  persistMax : Nat := 0
  deriving DecidableEq, Repr

/-! ### The aux sequencer (chapter 6) -/

structure AuxSlot where
  value : Nat := 0
  stale : Bool := true
  out : Bool := false
  clip : Bool := false
  run : Nat := 0
  time : DevTime := 0
  persist : Nat := 0
  deriving DecidableEq, Repr

/-- A run in progress: the next entry to sample, its number, the commands that wait for it, and from when it may sample. -/
structure AuxRun where
  next : Nat := 0
  number : Nat := 0
  waiting : List Desc := []
  ready : Nat := 0
  deriving DecidableEq, Repr

/-- A conversion sampled and not yet written: its entry and run, the slot value and CLIP, the sampling instant on the model's time base
and in device time, and whether the definition it was sampled for is no longer in effect. -/
structure AuxConv where
  entry : Nat
  number : Nat
  value : Nat
  clip : Bool
  at_ : Nat
  time : DevTime
  old : Bool := false
  deriving DecidableEq, Repr

structure Aux where
  /-- Definition in effect (Tables 6.2 and 6.3). -/
  seq : Option (List Byte) := none
  slots : Tbl AuxSlot := {}
  run : Option AuxRun := none
  /-- A pending trigger under QUEUE1, with the AUX_READ that raised it. -/
  queued : Option (List Desc) := none
  runCount : Nat := 0
  overrun : Nat := 0
  restarts : Nat := 0
  noConv : Nat := 0
  windowExits : Nat := 0
  compCount : Tbl Nat := {}
  compLevel : Nat := 0
  /-- When Converter B last sampled an aux position. -/
  lastAt : Option Nat := none
  zxCount : Nat := 0
  /-- The 2 T boundary at which a trigger last registered, and what became of it: 0 a run started, 1 it waits, 2 it was
  dropped, 3 it was counted in NO_CONV (R298). -/
  trigAt : Option (Nat × Nat) := none
  /-- Conversions sampled and not yet written, oldest first: of the running run, or of one that was aborted (R299, Table 6.4). -/
  sampled : List AuxConv := []
  deriving DecidableEq, Repr

/-! ### Cycle tracking and previews (chapter 9) -/

inductive TrackState
  | search | warmup | predicting
  deriving DecidableEq, Repr

/-- One pair's unfiltered values at one sample: P and Q numerators, i² and v². -/
structure PairSmp where
  p : Int
  q : Int
  i2 : Int
  v2 : Int
  deriving DecidableEq, Repr

/-- One sample as the half-cycle sums need it: its reference instant, the pairs keyed 3·account + pair, squares of the
four voltages, and the direct channels' calibrated currents (R414, R460, R479). -/
structure Smp where
  ref : Nat
  pairs : Tbl PairSmp := {}
  v2 : Tbl Int := {}
  dm : Tbl Int := {}
  /-- VA, VB and VC after their resonators (R475). -/
  v1 : List Int := []
  /-- Converter B served metrology (Table 19.2). -/
  vb : Bool := false
  deriving DecidableEq, Repr

/-- Half-cycle values of one pair: E_P, E_Q numerators, Σi², Σv². -/
structure PairHalf where
  p : Int := 0
  q : Int := 0
  i2 : Int := 0
  v2 : Int := 0
  n : Nat := 0
  deriving DecidableEq, Repr

/-- A closed half-cycle (R415): its number, opening and closing boundary, samples, pairs, voltage squares, direct
channel sums (residual squared, channel 195 squared), and the accounts whose preview of it was retracted (R424). -/
structure Half where
  hcsn : Nat
  opened : Nat
  closed : Nat
  n : Nat
  pairs : Tbl PairHalf := {}
  v2 : Tbl Int := {}
  res2 : Int := 0
  in2 : Int := 0
  free : Bool := false
  /-- The resonated phase voltages of its samples, oldest first (R475). -/
  v1 : List (List Int) := []
  /-- Converter B served for some sample of it (Table 19.2). -/
  vb : Bool := false
  redone : List Nat := []
  deriving DecidableEq, Repr

/-- A preview posted and not yet followed up: its ring, tenant byte, epoch, half-cycle, SEQ (R426, R473). -/
structure Preview where
  ring : Nat
  tenant : Nat
  epoch : Nat
  hcsn : Nat
  seq : Nat
  deriving DecidableEq, Repr

structure Tracker where
  state : TrackState := .search
  volt : Nat := 0
  /-- Confirmed cycle interval in 2^−30 s from which f_t follows; none: the declared nominal (R405). -/
  period : Option Nat := none
  /-- The fundamental filter's state, and its last output (R405, R406). -/
  filt : Nat := 0
  out : Option Int := none
  /-- Sign changes accepted and not yet confirmed, oldest first: instant and positive-going (R406). -/
  waiting : List (Nat × Bool) := []
  lastAccepted : Option Nat := none
  /-- Accepted crossings in SEARCH, newest first (Table 9.1). -/
  seen : List (Nat × Bool) := []
  /-- Confirmed crossings, newest first: instant, positive-going. -/
  crossings : List (Nat × Bool) := []
  hcsn : Nat := 0
  anyConfirmed : Bool := false
  /-- Confirmed cycles since WARMUP was entered, and the crossing they count from (Table 9.1). -/
  cycles : Nat := 0
  warmAt : Nat := 0
  /-- Half-cycles in a row in which VA, VB and VC lay below 40 % of U_NOM (R403). -/
  lowRun : Tbl Nat := {}
  predicted : Option Nat := none
  /-- Tp has passed for the half-cycle in progress, with its boundary; the pre-wake lock failed (R86, R420). -/
  tp : Option Nat := none
  wakeFailed : Bool := false
  previews : List Preview := []
  /-- Accounts whose preview of the half-cycle in progress was retracted before its close (R424). -/
  redone : List Nat := []
  /-- Samples since the opening boundary, newest first, and the boundary. -/
  log : List Smp := []
  opened : Nat := 0
  prev : Option Half := none
  /-- A free-running boundary: the last one (R461); the next Urms½ straddles a change and is not formed. -/
  freeLast : Nat := 0
  straddle : Nat := 0
  /-- Positive-going crossings confirmed in the running second: first, last, count (R438). -/
  secFirst : Option Nat := none
  secLast : Nat := 0
  secCount : Nat := 0
  glitch : Nat := 0
  suppTrack : Nat := 0
  suppEpoch : Nat := 0
  suppEarly : Nat := 0
  suppWake : Nat := 0
  previewLate : Nat := 0
  retractBoundary : Nat := 0
  retractOther : Nat := 0
  lockLoss : Nat := 0
  deriving DecidableEq, Repr

/-! ### Power quality, harmonics, capture and balance (chapter 10) -/

/-- A sag, swell or interruption in progress (R465–R468). -/
structure PqEvent where
  start : DevTime
  extreme : Nat
  phase : Nat
  halves : Nat := 0
  /-- VOLT_B and FREE_RUN of its Urms½ (Table 19.2). -/
  flags : Nat := 0
  deriving DecidableEq, Repr

structure HarmWin where
  opened : Nat
  hcsn : Nat
  /-- F_NOM was 60 Hz when it opened (Table 11.6). -/
  at60 : Bool := false
  cycles : Nat := 0
  incomplete : Bool := false
  clip : Bool := false
  clipCh : List Nat := []
  voltB : Bool := false
  closed : Nat := 0
  /-- Sums of squares of VA–VC and samples over the window, for the sliding reference (R463). -/
  v2 : Tbl Int := {}
  n : Nat := 0
  deriving DecidableEq, Repr

structure Harm where
  win : Option HarmWin := none
  /-- A window closed and not yet computed. -/
  closed : Option HarmWin := none
  /-- The next window is the first after accumulation started, Backstop ended or lock was lost (Table 10.5). -/
  incomplete : Bool := true
  /-- The harmonic sample store: reference instants, newest first, and the calibrated samples of the harmonic channels (R483). -/
  store : List (Nat × Tbl Int) := []
  /-- A result that lost staging arbitration and waits for the next (R489, R510). -/
  delayed : List RecBody := []
  dropped : Nat := 0
  deriving DecidableEq, Repr

structure Capture where
  arm : Option (List Byte) := none
  /-- Samples kept, newest first: reference instant and the channels in CH order, none where a channel delivers none. -/
  store : List (Nat × List (Option Int)) := []
  /-- Triggered: the trigger sample's instant. -/
  trig : Option Nat := none
  missed : Nat := 0
  deriving DecidableEq, Repr

/-- Balance of one phase (R496–R500); energies in 0.1 W. -/
structure BalPhase where
  run : Nat := 0
  calm : Nat := 0
  deviating : Bool := false
  start : DevTime := 0
  largest : Int := 0
  evalN : Nat := 0
  devN : Nat := 0
  sumD : Int := 0
  sumLargest : Int := 0
  /-- Converter B served in the deviation (Table 19.2). -/
  vb : Bool := false
  deriving DecidableEq, Repr

/-- A second that has ended and is not yet reported: its SECOND records, E_F and E_T of the phases evaluated, and
whether Converter B served in it (R438, R496). -/
structure SecDone where
  recs : List RecBody := []
  phases : Tbl (Int × Int) := {}
  vb : Bool := false
  deriving DecidableEq, Repr

structure Pq where
  /-- PQ group in effect (Table 10.1). -/
  group : List Byte := layout 32
    [⟨1, 1, 0x1F⟩, ⟨2, 2, 900⟩, ⟨4, 2, 1100⟩, ⟨6, 2, 50⟩, ⟨8, 2, 20⟩, ⟨10, 2, 200⟩, ⟨12, 2, 50⟩, ⟨14, 2, 100⟩,
      ⟨16, 2, 150⟩, ⟨18, 2, 300⟩, ⟨20, 2, 60⟩]
  /-- Latest Urms½ of VA, VB, VC, VNE, in 10 mV. -/
  urms : Tbl Nat := {}
  /-- Sliding references as held, in 10 mV; unlisted: U_NOM; and their low-pass in 2^−16 of that (R463). -/
  ref : Tbl Nat := {}
  refState : Tbl Int := {}
  sag : Option PqEvent := none
  swell : Option PqEvent := none
  intr : Option PqEvent := none
  lowest : Tbl Nat := {}
  highest : Tbl Nat := {}
  /-- Voltage angle class held, candidate, its run and angle sums, and when the run began (R475–R478). -/
  cls : Nat := 0
  cand : Nat := 0
  candRun : Nat := 0
  candStart : Nat := 0
  candB : Bool := false
  sumB : Nat := 0
  sumC : Nat := 0
  /-- Neutral conditions 0 NE, 1 IN: in progress, run of cycles that hold or fail (R480), and when the run began. -/
  neutral : Tbl Bool := {}
  neutRun : Tbl Nat := {}
  neutStart : Tbl Nat := {}
  neutB : Tbl Bool := {}
  harm : Harm := {}
  cap : Capture := {}
  bal : Tbl BalPhase := {}
  /-- A configuration change took effect, or accumulation started or a final commit fell, in the running second. -/
  secTouched : Bool := true
  /-- Commit ticks in the running second, and when it began (R250). -/
  ticks : Nat := 0
  secStart : Nat := 0
  /-- The first commit tick after accumulation began has come, from which seconds count (R250). -/
  secOn : Bool := false
  secDone : Option SecDone := none
  /-- Converter B has served in the running second, and since the last PQ_SUMMARY and BALANCE_SUMMARY (Table 19.2). -/
  secVoltB : Bool := false
  sumVoltB : Bool := false
  balVoltB : Bool := false
  deriving DecidableEq, Repr

/-! ### Calibration, the seal and the pulse outputs (chapter 11) -/

structure Cal where
  /-- Calibration blocks in effect (Tables 11.2–11.4); unlisted: the defaults of Table 11.1a. -/
  cabinet : List Byte := layout 32 [⟨0, 4, 481000⟩, ⟨4, 2, 23000⟩, ⟨6, 1, 50⟩, ⟨7, 1, 7⟩]
  volt : Tbl (List Byte) := {}
  chan : Tbl (List Byte) := {}
  sealed : Bool := true
  /-- Level of the CAL_EN ball. -/
  calEn : Bool := false
  /-- Always-on findings in HOLD and BACKUP: found high, and consecutive high samples (R527). -/
  aonHigh : Bool := false
  aonRun : Nat := 0
  deriving DecidableEq, Repr

/-- Where a pulse output stands in its shape (R540, R541). -/
inductive PulsePhase
  | idle | active | rest
  deriving DecidableEq, Repr

structure Pulse where
  /-- Assignment in effect (Table 11.8); ACCOUNT 0xFF: unassigned. -/
  block : List Byte := layout 16 [⟨1, 1, 0xFF⟩]
  pend : Option (List Byte) := none
  phase : PulsePhase := .idle
  since : Nat := 0
  /-- The shape the pulse in progress began with: width in ms, or calibration mode (R553). -/
  width : Nat := 0
  calPulse : Bool := false
  level : Bool := false
  emitted : Nat := 0
  discarded : Nat := 0
  overflow : Nat := 0
  saturated : Bool := false
  satSince : Nat := 0
  satEmitted : Nat := 0
  zeroSince : Option Nat := none
  shorted : Bool := false
  redriving : Bool := false
  shortAt : Nat := 0
  deriving DecidableEq, Repr

/-! ### Tariffs (chapter 13) -/

/-- A change accepted and pending for step 1 of Table 13.1, in order of completion. -/
inductive TariffChange
  | credit (account : Nat) (amount : Int) (set : Bool) (voucher : Nat)
  | relay (account mode : Nat)
  deriving DecidableEq, Repr

structure Tariff where
  pend : List TariffChange := []
  /-- A grid state that has arrived and waits for the tick: state, source (R627). -/
  arrival : Option (Nat × Nat) := none
  /-- The last arrival on the model's time base, before 0 where it lies before power-up; none once the hold has expired
  (R1064). -/
  arrivedAt : Option Int := none
  /-- The tariff engine has begun to send recalled relay commands (R179, R647). -/
  relaysOn : Bool := false
  /-- Why the rate may change at this tick besides the calendar: the package or time changed (Table 19.13). -/
  pkgChanged : Bool := false
  timeChanged : Bool := false
  /-- What opens a new demand interval: OFFSET, DEMAND_MIN and TIME_INVALID as of the last tick (R632). -/
  lastOffset : Option Int := none
  lastDemandMin : Option Nat := none
  wasInvalid : Bool := false
  /-- Demand interval as of the last close, counted in DEMAND_MIN from 2000-01-01 local time (R631). -/
  lastSlot : Option Int := none
  /-- A time step or the start of accumulation opens a new, partial interval at the next tick (R632). -/
  restart : Bool := false
  deriving DecidableEq, Repr

/-! ### Keys, counters, snapshots and random numbers (chapter 14) -/

/-- An accepted KEY_COMMIT (R675–R677): until its tick `commit` is none, then the SEQ of the commit it waits for;
and the command, none once Backstop has abandoned it. -/
structure KeyCommit where
  owner : Nat
  slot : Nat
  gen : Nat
  cmd : Option CmdRef
  commit : Option Nat := none
  deriving DecidableEq, Repr

/-- A pending SNAPSHOT (R694, R695): once captured, the encoding without its signature and the commit's SEQ. -/
structure SnapWait where
  cmd : Desc
  account : Nat
  taken : Option (List Byte) := none
  commit : Nat := 0
  time : DevTime := 0
  deriving DecidableEq, Repr

structure KeyUnit where
  /-- Next counter value of each tenant and of the line, 0x40 (R681). -/
  counter : Tbl Nat := {}
  pend : List KeyCommit := []
  snaps : List SnapWait := []
  authRefused : Tbl Nat := {}
  /-- Tenants for which AUTH_COUNTER_EXHAUSTED was posted (R685). -/
  exhausted : List Nat := []
  /-- Functions found failed by SELFTEST CRYPTO (R1095). -/
  ccmFailed : Bool := false
  shaFailed : Bool := false
  ecdsaFailed : Bool := false
  drbgFailed : Bool := false
  /-- The DRBG (R698, R701): its working state, seeded, requests since, RUN time of the last seeding. -/
  drbg : Drbg := {}
  seeded : Bool := false
  requests : Nat := 0
  seededAt : Nat := 0
  /-- The TRNG (R697, R700): its source, whether a restart runs its start test, consecutive failed restarts, failed until power-up. -/
  noise : Noise := {}
  restarted : Bool := false
  restarts : Nat := 0
  trngFailed : Bool := false
  /-- New tamper loop seeds have been drawn since power-up (R727). -/
  seedsDrawn : Bool := false
  deriving DecidableEq, Repr

/-! ### Tamper (chapter 15) -/

/-- One entry of the always-on log (Table 15.6). -/
structure TamEntry where
  kind : Nat
  index : Nat
  count : Nat
  taken : Bool := false
  pseq : Nat := 0
  first : DevTime
  last : DevTime
  deriving DecidableEq, Repr

/-- One condition or split of an input (R729–R733): in progress; the run of windows towards its start or end, when that
run's first window began, on the model's time base and in device time, and the detectors seen in it (bit 0 D, bit 1 V). -/
structure CondRun where
  on : Bool := false
  run : Nat := 0
  start : DevTime := 0
  detect : Nat := 0
  deriving DecidableEq, Repr

structure TamperUnit where
  /-- COUNT last announced of each slot (R745); unlisted: 0. -/
  announced : Tbl Nat := {}
  log : List TamEntry := []
  /-- Starts written to the log and not yet announced: kind, index, detectors, start time (Table 15.7). -/
  starts : List (Nat × Nat × Nat × DevTime) := []
  /-- Conditions keyed 4·input + c: 0 OPEN, 1 SHORT, 2 SEQUENCE, 3 split. -/
  conds : Tbl CondRun := {}
  /-- LFSR states of loops 2 and 3; unlisted: the values of R728; and the seeds due at the next window (R727). -/
  lfsr : Tbl Nat := {}
  newSeeds : Option (Nat × Nat) := none
  /-- The schedule of the windows: when its first was due, on the model's time base, and how many it has had (R724). -/
  windowBase : Nat := 0
  windowNo : Nat := 0
  /-- VBAT checks (R735): runs of low and of good checks, the first of the low run, in progress, due once at the first
  commit after an always-on power-on reset, and when the last check was. -/
  batLowRun : Nat := 0
  batOkRun : Nat := 0
  batStart : DevTime := 0
  batLost : Bool := false
  batOwed : Bool := true
  lastCheck : Option Nat := none
  deriving DecidableEq, Repr

/-! ### The two-wire ports (chapter 20) -/

/-- A line-up in progress or waiting (R974). -/
structure LineupRun where
  cmd : Option CmdRef
  flags : Nat
  since : Nat
  /-- The bus stuck, or its clock was stretched too long, in its transaction or its mapping. -/
  broken : Bool := false
  deriving DecidableEq, Repr

structure TwoWire where
  /-- Settings in effect (R959): mode, stretch limit and low timeout in ms; and those that wait for a STOP (R960). -/
  mode : Nat := 0
  stretchMs : Nat := 25
  lowMs : Nat := 35
  newBus : Option (Nat × Nat × Nat) := none
  /-- POD_XFERs, the first one running or waiting for the bus, with the time it was taken up. -/
  xfers : List (Desc × Nat) := []
  lineup : Option LineupRun := none
  /-- The bus is stuck: on SDA or SCL, since when, and when the recovery sequence last ran (R963–R966). -/
  stuck : Option (Bool × Nat) := none
  recovered : Option Nat := none
  /-- Links of the pods mapped since power-up, by ID: 0–15, or 0xFF for none or a conflict (R981). -/
  map : Tbl Nat := {}
  /-- Addresses in use as the last line-up left them. -/
  addressed : List Nat := []
  /-- TWT: pointer, staged bytes of the register being written, last transaction, asleep, answering again from,
  and when the last register write was completed (R985–R990). -/
  ptr : Nat := 0
  staged : List Byte := []
  lastUse : Nat := 0
  asleep : Bool := false
  wakeAt : Nat := 0
  wroteAt : Option Nat := none
  deriving DecidableEq, Repr

/-! ### The line physical layer (chapter 21) -/

/-- A frame that MAIN holds (R1017): its level in quarter dBµV, when its detection came, and the start of its preamble. -/
structure RxFrame where
  level : Nat
  since : Nat
  start : Nat
  /-- Mean energies of the mark and the space band over preamble and SSD; none where the band is ignored for the frame. -/
  mark : Option Nat := none
  space : Option Nat := none
  deriving DecidableEq, Repr

/-- A physical frame being sent: when it began, its bit time in metrology clocks, and where its line frame stands: ahead
of the queue or in it. -/
structure TxFrame where
  since : Nat
  clocks : Nat
  ahead : Bool
  /-- The XID of the line frame it belongs to. -/
  xid : Nat
  deriving DecidableEq, Repr

structure LinePhy where
  /-- The LINE group in effect (Tables 21.2 and 22.5), and the parameters the physical layer works with (R1011). -/
  params : List Byte := layout 64 [⟨0, 1, 3⟩, ⟨1, 1, 1⟩, ⟨2, 2, 6330⟩, ⟨4, 2, 7400⟩, ⟨7, 1, 7⟩, ⟨34, 2, 0xFFFF⟩, ⟨36, 1, 8⟩,
    ⟨37, 1, 3⟩, ⟨38, 2, 15⟩, ⟨40, 4, 0x6CE8⟩, ⟨44, 1, 3⟩]
  applied : List Byte := layout 64 [⟨0, 1, 3⟩, ⟨1, 1, 1⟩, ⟨2, 2, 6330⟩, ⟨4, 2, 7400⟩, ⟨7, 1, 7⟩, ⟨34, 2, 0xFFFF⟩, ⟨36, 1, 8⟩,
    ⟨37, 1, 3⟩, ⟨38, 2, 15⟩, ⟨40, 4, 0x6CE8⟩, ⟨44, 1, 3⟩]
  gain : Nat := 7
  rx : Option RxFrame := none
  lastLevel : Nat := 0
  /-- When a frame was last detected, or the gain last rose (R1016). -/
  quietSince : Nat := 0
  tx : Option TxFrame := none
  lastTx : DevTime := 0
  lastTxUp : Option Nat := none
  /-- The two newest predicted crossings, newest first, and the one whose slot start has last been used (R1026). -/
  crossings : List Nat := []
  slotUsed : Option Nat := none
  /-- LINE_TXEN has fallen; reception is blanked for 2 ms from here (R1021). -/
  txEnd : Option Nat := none
  openRun : Nat := 0
  couplerOpen : Bool := false
  txShort : Bool := false
  loadOhms : Nat := 0
  /-- Reception has been stopped under R1021 since it last worked; when a conversion last lowered the gain (R1016). -/
  stopped : Bool := true
  dropAt : Nat := 0
  /-- Counters of Table 21.5, by offset. -/
  counts : Tbl Nat := {}
  deriving DecidableEq, Repr

/-! ### The line network (chapter 22) -/

/-- A message of the tunnel of a standalone node (Table 22.7): KIND, TID, bytes. -/
structure TunMsg where
  kind : Nat
  tid : Nat
  bytes : List Byte
  deriving DecidableEq, Repr

/-- A tunnel command being reassembled (R1078): TID, parts received in order, NPART, when the last part came. -/
structure TunJoin where
  tid : Nat
  bytes : List Byte
  parts : Nat
  npart : Nat
  last : Nat
  deriving DecidableEq, Repr

/-- A line frame being joined from segments of one source (R1048). -/
structure RxJoin where
  xid : Nat
  last : Nat
  bytes : List Byte := []
  next : Nat := 0
  level : Nat := 0
  rate : Nat := 0
  /-- Start of segment 0 and end of the newest segment. -/
  start : Nat := 0
  ended : Nat := 0
  deriving DecidableEq, Repr

/-- A line frame accepted and not yet acted on: header, decrypted payload, and how it arrived. -/
structure RxLine where
  srcId : Nat
  net : Nat
  dest : Nat
  src : Nat
  ftype : Nat
  counter : Nat
  xid : Nat
  payload : List Byte
  level : Nat
  rate : Nat
  segs : Nat
  start : Nat
  ended : Nat
  deriving DecidableEq, Repr

/-- A line frame to send: what its header and payload hold, and how far it has come (R1067–R1069). Its XID, its counter
and its bytes are fixed when its segment 0 is first sent. `role` is 0 for the queue's own frames, 1 for a tunnel part, 2
for ACK, JOIN_ACK and KEYREQ, 3 for a beacon, 4 for a CLAIM. -/
structure TxLine where
  dest : Nat
  src : Nat
  ftype : Nat
  secured : Bool
  ackReq : Bool
  payload : List Byte
  role : Nat := 0
  cmd : Option CmdRef := none
  /-- When it was queued, on the model's time base. -/
  handed : Nat := 0
  xid : Nat := 0
  counter : Nat := 0xFFFFFFFF
  /-- The bytes of the line frame, empty until first sent; the segment to send next. -/
  bytes : List Byte := []
  next : Nat := 0
  /-- Eligible slot starts still to wait; none until drawn. -/
  wait : Option Nat := none
  tries : Nat := 0
  /-- SHORT attempts in a row at the segment to send next (R1034). -/
  shorts : Nat := 0
  /-- Its last segment ended here, and an ACK is awaited. -/
  ackFrom : Option Nat := none
  deriving DecidableEq, Repr

structure LineNet where
  /-- ROLE 0 none, 1 member, 2 Captain; KSTATE 0 IDLE, 1 LISTEN, 2 CLAIMING, 3 JOINING, 4 joined (Table 22.8). -/
  role : Nat := 0
  kstate : Nat := 0
  netId : Nat := 0
  addr : Nat := 0
  w : Nat := 64
  captainId : Nat := 0
  lastBeacon : DevTime := 0
  rosterEpoch : Nat := 0
  /-- Captain: its first beacon has given ROSTER_EPOCH (R1059). -/
  rosterSet : Bool := false
  /-- MODE and NETWORK_ID filter of the last LINE_JOIN; the node ID whose network alone passes after a merge or a lost
  claim (R1057, R1065, R1066). -/
  mode : Nat := 0
  filter : Nat := 0xFFFF
  onlyId : Option Nat := none
  listenSince : Nat := 0
  beaconAt : Nat := 0
  /-- CLAIMING (R1056–R1059): CLAIMs sent, slot starts to wait, the newest CLAIM's end, frames it could not decode and
  CLAIMs decoded in the gap, CLAIMs collided. -/
  claims : Nat := 0
  claimWait : Nat := 0
  /-- A slot start that R1027 allows has come since the last CLAIM. -/
  claimOpen : Bool := true
  claimEnd : Option Nat := none
  gapNoise : Bool := false
  gapClaim : Bool := false
  collided : Nat := 0
  /-- Joining (R1074, R1076): the network chosen and its Captain, the window of JOIN_REQ, and the last refusal. -/
  joinNet : Nat := 0
  joinId : Nat := 0
  joinCw : Nat := 8
  refusedAt : Option Nat := none
  /-- NODES of the last beacon. -/
  nodes : Nat := 0
  /-- The member entered LISTEN after DISSOLVE, and does not claim against `onlyId` (R1065). -/
  yields : Bool := false
  /-- Addresses (R1050), the roster (R1075), highest counters accepted under the active and the previous key (R1071), by
  node ID, and the last frame accepted from a source: secured, its number, when (R1072). -/
  table : Tbl Nat := {}
  roster : Tbl Nat := {}
  high : Tbl Nat := {}
  highPrev : Tbl Nat := {}
  lastSeen : Tbl (Bool × Nat × Nat) := {}
  /-- When the line key was last committed (R1070). -/
  keyChanged : Option Nat := none
  rx : Tbl RxJoin := {}
  inbox : List RxLine := []
  /-- Frames to send: answers and Captain's beacon ahead, the rest in order; XID of the next line frame; CW, 0 standing for CW_MIN; LFSR of R1061,
  0 before its seeding. -/
  urgent : List TxLine := []
  queue : List TxLine := []
  xid : Nat := 0
  cw : Nat := 0
  lfsr : Nat := 0
  /-- Captain: the even second the last beacon was drawn for, and its beacons with DISSOLVE still to send and MERGE_TO. -/
  beaconSec : Option Nat := none
  beaconWait : Option Nat := none
  dissolve : Option (Nat × Nat) := none
  /-- Last KEYREQ (R1073), and whether LINE_EXHAUSTED was posted. -/
  keyreqAt : Option Nat := none
  exhausted : Bool := false
  /-- The tunnel (R1077, R1078): next TID of unsolicited records, messages waiting, part of the first to send next, commands
  being reassembled, complete commands waiting to run. -/
  tunNext : Nat := 0x8000
  tunQueue : List TunMsg := []
  tunPart : Nat := 0
  tunDropped : Nat := 0
  tunJoin : List TunJoin := []
  tunReady : List TunJoin := []
  tunRunning : Option Nat := none
  /-- Counters of Table 22.8, by offset (TUN_DROPPED apart). -/
  counts : Tbl Nat := {}
  deriving DecidableEq, Repr

/-! ### The metrology core's filters (chapter 8) -/

/-- By channel (a current channel, or 256 + a voltage channel): the DC tracked, the newest samples after it, newest first, from which
v90 and the delay that matches it come, what the resonator remembers, and the period the resonators are tuned to (R361, R362, R367,
R405). -/
structure MetCore where
  dc : Tbl Int := {}
  line : Tbl (List Int) := {}
  res : Tbl (List Int) := {}
  tune : Int := 21474836
  deriving DecidableEq, Repr

/-! ### What leaves the LY64 -/

/-- A part of a transaction on TWM after a START or repeated START: the address with the write bit and bytes sent, the address with
the read bit and a number of bytes read, the last of them NACKed; or clocks with SDA released. -/
inductive TwmSeg
  | write (target : Nat) (bytes : List Byte)
  | read (target n : Nat)
  | clocks (n : Nat)
  deriving DecidableEq, Repr

/-- A physical frame at LINE_TXP/N (R1013, R1029): dB below DAC full scale; by how many tenths of a µs LINE_TXEN leads the
first bit, and trails the last; the amplitude at each µs of its ramps, from none to the full one, in 2^−30; the bit rate; and each
bit's tone in 10 Hz with the phase it begins at, as turns over the bit rate, counted from the phase of the first bit. -/
structure LineWave where
  atten : Nat
  lead : Nat
  trail : Nat
  ramp : List Nat
  rate : Nat
  bits : List (Nat × Nat)
  deriving DecidableEq, Repr

/-- What the LY64 puts out: writes to host memory, messages, balls, the line and the two-wire buses. -/
inductive Out
  | entry (ring index : Nat) (phase : Bool) (e : Entry)
  | hostWrite (addr : Nat) (bytes : List Byte)
  | hostZero (addr len : Nat)
  | msix (f v : Nat)
  | ltr (micros : Nat)
  | retryStatus
  | readData (v : W64)
  | pulse (o : Nat) (active activeLow : Bool)
  | pulseHighZ (o : Nat)
  | mclk (n : Nat) (driven : Bool)
  | clkreq (asserted : Bool)
  | configAnswer (f : Nat) (item : CfgItem) (value : Nat)
  | downstream (n : Nat) (halfBits : List Bool)
  /-- A sampling window: LOOP0_OUT and LOOP1_OUT high, and the four bits LOOP2_OUT and LOOP3_OUT are driven with, bit 0 the first
  (R723). -/
  | loops (loop2 loop3 : Nat)
  | twtAnswer (acks : List Bool) (read : List Byte)
  /-- A transaction driven on TWM, from its START to its STOP (R971, R974, R980), or the clocks of a recovery (R965). -/
  | twm (segments : List TwmSeg)
  | linePhy (f : LineWave)
  | lineOff
  /-- One 2 T pulse on TP1 or TP2 (Table 26.5). -/
  | testPulse (n : Nat)
  deriving DecidableEq, Repr

/-! ### The whole block -/

/-- Everything of the block but the queue of commands. -/
structure Dev where
  pwr : Power := {}
  host : HostPort := {}
  eng : RingEngine := {}
  recs : Records := {}
  test : Option SelfTest := none
  err : ErrorUnit := {}
  led : Ledger := {}
  store : ConfigStore := {}
  /-- Epochs of state book entries 0x41–0x47 (Table 7.7); unlisted: 1. -/
  book : Tbl Nat := {}
  links : Tbl Link := {}
  intake : Intake := {}
  core : MetCore := {}
  /-- Accounts configured since shipment, by number; unlisted: UNUSED. -/
  accts : Tbl Acct := {}
  volt : Volt := {}
  aux : Aux := {}
  trk : Tracker := {}
  pq : Pq := {}
  cal : Cal := {}
  pulses : Tbl Pulse := {}
  tariff : Tariff := {}
  keys : KeyUnit := {}
  tam : TamperUnit := {}
  tw : TwoWire := {}
  lphy : LinePhy := {}
  lnet : LineNet := {}
  /-- Bytes on their way into the boot image area: the model's own, empty between commands. -/
  stores : List Host.Cell := []
  /-- Counter under which the next free value is drawn: the model's own. -/
  free : Nat := 0
  /-- What has left the LY64, newest first: the model's own. -/
  out : List Out := []
  deriving DecidableEq, Repr

/-- The state of the block: the device, its addressed memory, and the commands that wait, first in, first out. -/
structure State where
  dev : Dev := {}
  /-- The 64 KiB boot image area (Table 17.11) as written through the mover, addresses rising, no byte of 0 listed. -/
  boot : List Host.Cell := []
  pending : List Instr := []
  deriving DecidableEq, Repr

/-- Why a step could stop with a fault. No command raises one: every row of the table has an effect. -/
inductive Fault
  /-- Raised by nothing: the block's manual names no machine stop. Safe. -/
  | none
  deriving DecidableEq, Repr

/-- Why a step could refuse. -/
inductive Refusal
  /-- An arm whose meaning is not written. No arm is left so. Safe. -/
  | notModelled (mnemonic : String)
  deriving DecidableEq, Repr

/-! ### Reset -/

/-- The formatted ledger of R573 in both copies, as the first power-up finds it: blocks never written hold SEQ 0. -/
def formatted : Copy := {}

/-- The block right after its first reset: step 3 of Table 2.5 has begun, power-up Backstop is entered, and no command
waits. -/
def State.reset : State := {}

end Sys2Proof.Machine
end

