-- ==== Sys2Proof/Machine/Flags.lean ====
section
/-!
DEFINITION. Machine/Flags.lean: what the LY64 computes from its state without changing it: device time, which units
run, which features are accepted, the words of the set-up registers, and which cause bit an occurrence sets.
-/
namespace Sys2Proof.Machine

/-! ### Device time (chapter 2) -/

/-- The power state is RUN or DOZE. -/
def Dev.awake (d : Dev) : Bool := d.pwr.pstate = .run || d.pwr.pstate = .doze

/-- The metrology domain runs: in RUN and DOZE, and in HOLD until the final commit completes (R28). -/
def Dev.metRuns (d : Dev) : Bool :=
  d.pwr.metClock && (d.awake || (d.pwr.pstate = .hold && !d.pwr.finalDone))

/-- Device time as read or stamped: the RTC value and the metrology clocks since its last tick; from the first tick after the
metrology clock has stopped, in whole ticks (R90, R91). -/
def Dev.now (d : Dev) : DevTime :=
  if d.pwr.coarse && !d.metRuns then d.pwr.rtc / 32768 * 32768 else (d.pwr.rtc + d.pwr.mcount * 32768 / 750) % 2 ^ 64

/-- One second in device-time units (R88). -/
def second : Nat := 2 ^ 30

/-- `n` milliseconds in device-time units, rounded down. -/
def ms (n : Nat) : Nat := n * 2 ^ 30 / 1000

/-- `n` microseconds in device-time units, rounded down. -/
def us (n : Nat) : Nat := n * 2 ^ 30 / 1000000

/-- The signed distance from `a` to `b` on the device-time circle. -/
def timeDiff (b a : DevTime) : Int := asSigned 64 (((b : Int) - a) % (2 ^ 64 : Int)).toNat

/-- The model's time base, 2^−30 s: it counts with device time and no step, slew or reset moves it. -/
def Dev.up (d : Dev) : Nat := d.pwr.up + d.pwr.mcount * 32768 / 750

/-- `n` metrology clocks on the model's time base. -/
def clocks (n : Nat) : Nat := n * 32768 / 750

/-- Whether at least `n` units have passed since `t`, on the model's time base. -/
def Dev.since (d : Dev) (t n : Nat) : Bool := t + n ≤ d.up

/-- A record of the quarter-hour kind `k` is due: none has been generated for 15 minutes (Table 2.8, Table 19.5). -/
def Dev.quarterDue (d : Dev) (k : Nat) : Bool :=
  match d.recs.sums.get? k with | some t => d.since t (900 * second) | none => true

/-- The physical layer becomes `l`. -/
def Dev.setPhy (d : Dev) (l : LinePhy) : Dev := { d with lphy := l }

/-- The predicted crossing whose slot start, TX_DELAY after it, lies no more than `n` units from now and has not been used (R1026). -/
def Dev.slotNear (d : Dev) (n : Nat) : Option Nat :=
  let delay := us (fieldAt d.lphy.applied 8 2)
  if d.trk.state = .search then none
  else d.lphy.crossings.find? fun p => d.lphy.slotUsed ≠ some p && p + delay ≤ d.up + n && d.up ≤ p + delay + n

/-- The level of TP0, high while a commit is written, and of TP3, high while the PLL of the fast domain is locked (Table 26.5). -/
def Dev.testPoint (d : Dev) (n : Nat) : Bool :=
  match n with
  | 0 => d.led.writing.isSome
  | 3 => d.pwr.fastOn
  | _ => false

/-- A tamper window schedule begins at the next whole millisecond of device time, in BACKUP at the next quarter of a second (R724). -/
def Dev.alignWindows (d : Dev) : Dev :=
  let t := d.now
  let next := if d.pwr.pstate = .backup then (t + (2 ^ 28 - 1)) / 2 ^ 28 * 2 ^ 28
    else ((t * 125 + (2 ^ 27 - 1)) / 2 ^ 27 * 2 ^ 27 + 124) / 125
  { d with tam := { d.tam with windowBase := d.up + (next - t), windowNo := 0 } }

/-! ### What runs (Table 2.3, R28, R43, R45) -/

/-- The metrology units work: recall is done and the power state is RUN or DOZE. -/
def Dev.units (d : Dev) : Bool := d.pwr.metClock && d.awake && d.pwr.step = .ready

/-- Commands are served and records are posted: recall done, negotiated, no Backstop (R43, R45, R53). -/
def Dev.serving (d : Dev) : Bool := d.units && d.host.negotiated && !d.pwr.backstop

/-- The error unit runs (R50, R1108). -/
def Dev.errRuns (d : Dev) : Bool := d.serving

/-- Feature `n` of Table 16.8a is in the accepted set, as the host side sees it (R786). -/
def Dev.has (d : Dev) (n : Nat) : Bool := d.host.accepted.getLsbD n

/-- Feature `n` is in the accepted set, as the metrology units see it (R786). -/
def Dev.hasMet (d : Dev) (n : Nat) : Bool := d.host.acceptedMet.getLsbD n

/-- FEATURES (R60, Table 16.3). -/
def Dev.features (d : Dev) : W64 := if d.pwr.hostmode then 0xFFFF#64 else 0x8FE9#64

/-- IDENT (R1). -/
def identValue : W64 := 0xA7C3006400A10000#64

/-! ### Functions, rings and mastering -/

/-- The state of function `f`: 0 the PF, `t + 1` the VF of tenant `t` (R344, R765). -/
def Dev.fn (d : Dev) (f : Nat) : Fn := d.host.fns.get f {}

/-- VF `f` exists: NumVFs and VF Enable (R765). -/
def Dev.vfExists (d : Dev) (f : Nat) : Bool := d.host.vfEnable && 1 ≤ f && f ≤ d.host.numVfs

/-- Ring `r`. -/
def Dev.ring (d : Dev) (r : Nat) : Ring := d.eng.rings.get r {}

/-- LOG2_RINGS (Table 16.7). -/
def Dev.log2Rings (d : Dev) : Nat := (d.host.tablebase &&& 0x1F#64).toNat

/-- TABLEBASE.BASE (Table 16.7). -/
def Dev.tableBase (d : Dev) : Nat := (d.host.tablebase >>> 12).toNat * 4096

/-- The ring count, 2^LOG2_RINGS (R816). -/
def Dev.ringCount (d : Dev) : Nat := 2 ^ d.log2Rings

/-- Owner of ring `r`'s block: 0–63 a tenant, 0xFF the supervisor, 0xFE unassigned (R818–R820). -/
def Dev.ringOwner (d : Dev) (r : Nat) : Nat := if r < 512 then 0xFF else d.eng.blocks.get (r / 512) 0xFE

/-- The function of an owner: the PF for the supervisor, VF t + 1 for tenant t. -/
def fnOfOwner (o : Nat) : Nat := if o < 64 then o + 1 else 0

/-- The LY64 may issue memory requests for function `f` (R801). -/
def Dev.masters (d : Dev) (f : Nat) : Bool :=
  d.host.enable && (d.fn 0).bme && (d.fn f).bme && !d.host.d3hot && d.host.linkUp

/-- Entries of a ring (Table 17.1). -/
def Ring.size (g : Ring) : Nat := 2 ^ g.log2

/-- Entries the LY64 has filled and the host has not consumed (R837). -/
def Ring.used (g : Ring) : Nat := (g.devIndex + 2 ^ 32 - g.hostIndex % 2 ^ 32) % 2 ^ 32

/-- Free entries of a ring the LY64 fills. -/
def Ring.room (g : Ring) : Nat := g.size - g.used

/-- Bytes of one entry (Table 17.2). -/
def Ring.entryBytes (g : Ring) : Nat := match g.ty with | 0 => 32 | 1 => 16 | 3 => 16 | _ => 64

/-- The phase bit of the entry at index `i` (R832). -/
def Ring.phase (g : Ring) (i : Nat) : Bool := i / g.size % 2 = 0

/-- A preview ring: a started RECORD ring that subscribes to PREVIEW or EVENT_PREVIEW, while PREVIEW is accepted (R822). -/
def Dev.isPreview (d : Dev) (g : Ring) : Bool :=
  d.has 2 && g.state = .started && g.ty = 2 && (g.types.testBit 0 || g.types.testBit 4)

/-- Descriptors in flight on ring `r` (INFLIGHT). -/
def Dev.inflight (d : Dev) (r : Nat) : Nat := (d.eng.flights.filter fun f => f.ring = r).length

/-- Descriptors in flight against completion ring `c` (R842). -/
def Dev.inflightAgainst (d : Dev) (c : Nat) : Nat :=
  (d.eng.flights.filter fun f => (d.ring f.ring).partner = c).length

/-! ### Staging (R850, R852) -/

/-- Bytes a held record takes: its 64, and a long payload. -/
def RecBody.staged (b : RecBody) : Nat := 64 + (if 48 < b.len then b.len else 0)

/-- Blocks that records held for rings occupy: of a ring, those of each owner of data, a tenant or the supervisor, fill blocks of
their own (R847, R850, R852). -/
def Dev.heldBlocks (d : Dev) : Nat := sumOn d.eng.rings.cells fun p =>
  let owner (b : RecBody) : Nat := if b.tenant < 64 then b.tenant else 64
  sumOn (p.2.held.map owner).eraseDups fun o => (sumOn (p.2.held.filter fun b => owner b = o) RecBody.staged + 2047) / 2048

/-- Blocks of class 1: held records, and completions that wait, 16 bytes each and 64 for a record before them (Table 17.8). -/
def Dev.class1Blocks (d : Dev) : Nat :=
  d.heldBlocks + (sumOn d.eng.owedDone (fun o => 16 + (if o.record.isSome then 64 else 0)) + 2047) / 2048

/-- The reserved blocks in use: those class 1 took while the general pool was empty, as far as it still holds so many (R850, R851). -/
def Dev.reservedUsed (d : Dev) : Nat := min d.eng.reserved d.class1Blocks

/-- Blocks of the general pool in use. -/
def Dev.poolUsed (d : Dev) : Nat :=
  d.class1Blocks - d.reservedUsed + d.eng.lineBlocks + d.eng.quarantined

/-- Free blocks of the general pool: 1,536 less 16 reserved, less the ring shadow and the blocks in use (R850). -/
def Dev.poolFree (d : Dev) : Nat := 1536 - 16 - d.eng.shadowBlocks - d.poolUsed

/-- A block for class 2: of the general pool, or a reserved one when that is empty (R851, Table 17.8). -/
def Dev.errorBlock (d : Dev) : Bool := 0 < d.poolFree || d.reservedUsed < 16

/-- Other records and completions wait behind the preview set at hand: from its pre-wake until its last preview is posted (R433). -/
def Dev.setWaits (d : Dev) : Bool :=
  d.eng.setOpen.isSome && d.eng.setOpen = d.trk.predicted && d.trk.tp.isNone && d.pwr.fastOn

/-! ### The set-up registers as words (Tables 16.4 to 16.8) -/

/-- STATUS.QUIESCED: QUIESCE is 1, nothing is in flight and no mover transfer runs (Table 16.5, R919). -/
def Dev.quiesced (d : Dev) : Bool :=
  d.host.quiesce && d.eng.behind.isEmpty && d.eng.flights.isEmpty && d.eng.fences.isEmpty && d.eng.owedDone.isEmpty && d.test.isNone &&
    d.host.mover.isNone

/-- STATUS.PSTATE (Table 2.3); BACKUP and OFF cannot be read. -/
def pstateCode : PState → Nat
  | .run => 0 | .doze => 1 | .hold => 2 | .backup => 2 | .off => 2

/-- STATUS (Table 16.5). -/
def Dev.status (d : Dev) : Nat :=
  b2n (d.pwr.step = .ready)
  + 2 * b2n (d.pwr.step = .configRecall || d.pwr.step = .ledgerRecall)
  + 4 * b2n d.pwr.backstop
  + 8 * b2n d.host.negotiated
  + 16 * b2n d.host.negFail
  + 32 * pstateCode d.pwr.pstate
  + 128 * b2n d.cal.sealed
  + 256 * b2n d.cal.calEn
  + 512 * b2n d.pwr.timeInvalid
  + 1024 * b2n d.host.twtLast
  + 2048 * b2n d.quiesced
  + 4096 * (if d.pwr.backstop then d.pwr.cause else 0)

/-- CONTROL as read: the triggers read 0 (Table 16.4). -/
def Dev.control (d : Dev) : Nat :=
  b2n d.host.enable + 4 * b2n d.host.quiesce + 16 * b2n d.host.wakeHold + 32 * b2n d.host.twtLock
  + 2 ^ 32 * d.host.dozeIdle.toNat

/-- CAUSE of function `f` as read (Table 16.6). -/
def Dev.causeWord (d : Dev) (f : Nat) : Nat := (d.fn f).cause.toNat + 2 ^ 32 * (d.fn f).mask.toNat

/-- Bytes of the transfer in progress that have moved so far, as the registers show them (R860). -/
def Dev.moved (d : Dev) : Nat := match d.host.mover with | some m => m.moved | none => 0

/-- MOVECTL as read (Table 16.8). -/
def Dev.movectl (d : Dev) : Nat :=
  d.host.moveCount.toNat - d.moved + 2 ^ 34 * b2n d.host.moveDir + 2 ^ 40 * b2n d.host.moveDone + 2 ^ 41 * b2n d.host.moveFail

/-- The 64-bit register at an aligned offset of the PF's register BAR (Table 16.3); 0 beyond the map (R769). -/
def Dev.regPf (d : Dev) (off : Nat) : Nat :=
  match off with
  | 0x00 => identValue.toNat
  | 0x08 => d.features.toNat
  | 0x10 => d.host.accept.toNat
  | 0x18 => d.control
  | 0x20 => d.status
  | 0x28 => d.causeWord 0
  | 0x30 => d.host.tablebase.toNat
  | 0x38 => d.host.doorbase.toNat
  | 0x48 => (d.host.movesrc.toNat + d.moved) % 2 ^ 64
  | 0x50 => (d.host.movedst.toNat + d.moved) % 2 ^ 64
  | 0x58 => d.movectl
  | _ => 0

/-- The 64-bit register of function `f` at an aligned offset: a VF shows IDENT, STATUS and its own CAUSE; its KICK
reads 0 (R777). -/
def Dev.regOf (d : Dev) (f off : Nat) : Nat :=
  if f = 0 then d.regPf off
  else match off with
    | 0x00 => identValue.toNat
    | 0x20 => d.status
    | 0x28 => d.causeWord f
    | _ => 0

/-- ALERT_N is driven low: some PF cause is 1 with its mask 0 (R782). -/
def Dev.alertLow (d : Dev) : Bool := ((d.fn 0).cause &&& ~~~(d.fn 0).mask) ≠ 0#4

/-- CLKREQ_N is asserted: the host port runs, but for DOZE, in which it is released (R30, R790). -/
def Dev.clkreqLow (d : Dev) : Bool := d.pwr.hostmode && d.pwr.metClock && d.pwr.pstate = .run

/-! ### Causes and errors -/

/-- The cause bit (0 RING, 1 EVENT, 2 FAULT, 3 POWER) of a record type (Table 16.9). -/
def causeOfType (ty : Nat) : Nat :=
  if (0x01 ≤ ty ∧ ty ≤ 0x05) ∨ ty = 0x20 ∨ ty = 0x21 ∨ ty = 0x60 ∨ ty = 0x71 then 0
  else if ty = 0x7F then 3
  else if ty = 0x70 then 2
  else 1

/-- The subscription bit of a record type in TYPES (Table 17.3); 32, beyond the field, for types no bit names. -/
def typeBit (ty : Nat) : Nat :=
  match ty with
  | 0x01 => 0 | 0x04 => 1 | 0x05 => 2 | 0x10 => 3 | 0x11 => 4 | 0x12 => 5 | 0x13 => 5 | 0x14 => 6 | 0x15 => 7
  | 0x20 => 8 | 0x21 => 9 | 0x30 => 10 | 0x31 => 11 | 0x40 => 12 | 0x41 => 12 | 0x50 => 13 | 0x7F => 14
  | _ => 32

/-- The feature a record type needs (Table 16.8a), as R822 ignores a subscription without it; none for the rest. -/
def typeFeature (ty : Nat) : Option Nat :=
  match ty with
  | 0x01 => some 2 | 0x02 => some 2 | 0x03 => some 2 | 0x11 => some 2 | 0x20 => some 3 | 0x21 => some 4
  | 0x40 => some 5 | 0x41 => some 5 | 0x14 => some 8 | 0x60 => some 7
  | _ => none

/-- The records that a standalone LY64 does not generate: PREVIEW, CONFIRM, RETRACT, CYCLE, SECOND, WAVEFORM (R63). -/
def hostOnlyTypes : List Nat := [0x01, 0x02, 0x03, 0x04, 0x05, 0x21]

/-- The record type's feature is in the accepted set, and a standalone LY64 generates it (R63). -/
def Dev.typeOn (d : Dev) (ty : Nat) : Bool :=
  (match typeFeature ty with | some n => d.has n | none => true) && (d.pwr.hostmode || !hostOnlyTypes.contains ty)

/-- Class, 0–3 for C0–C3, of an error code whose class Table 23.3 fixes. -/
def errClass (code : Nat) : Nat :=
  match code with
  | 0x0101 => 0 | 0x0102 => 0 | 0x0103 => 2 | 0x0108 => 2 | 0x0109 => 2 | 0x010C => 0 | 0x0201 => 0
  | 0x0301 => 0 | 0x0302 => 0 | 0x0405 => 3 | 0x0802 => 0 | 0x0E01 => 3 | 0x0E02 => 3 | 0x0F01 => 0 | 0x0F03 => 0
  | 0x0F04 => 0 | _ => 1

/-- The error region of a config store group (Table 12.9). -/
def groupRegion (g : Nat) : Nat :=
  if g = 0x01 then 8 else if g ≤ 0x04 then 5 else if g = 0x0B then 7 else 6

/-- The error region of a ledger block (R578's list of regions). -/
def blockRegion (b : Nat) : Nat :=
  if 0x0100 ≤ b ∧ b < 0x0200 then 0
  else if 0x0200 ≤ b ∧ b < 0x0300 then 1
  else if b = 0x0006 ∨ b = 0x0007 then 3
  else if b = 0x0008 ∨ 0x0300 ≤ b then 4
  else 2

/-- Account `a`'s LEGAL block, working values. -/
def Dev.legal (d : Dev) (a : Nat) : Legal := d.led.work.legal.get a {}

/-- Account `a`'s OPEN block, working values. -/
def Dev.openBlk (d : Dev) (a : Nat) : OpenBlk := d.led.work.opens.get a {}

/-- The TENANT byte of account `a`'s records: 0–63, or 0x40 for the feeder account (Table 19.1). -/
def tenantByte (a : Nat) : Nat := if a < 64 then a else 0x40

/-- A bit of the working TARIFF etc. is set for an account in FAULT-HOLD: its LEGAL block is FRESH (R575). -/
def Dev.faultHold (d : Dev) (a : Nat) : Bool := (d.legal a).fresh

/-- The epoch of a state book entry (Table 7.7): accounts from their OPEN block, units from the book. -/
def Dev.epoch (d : Dev) (e : Nat) : Nat := if e ≤ 0x40 then (d.openBlk e).epoch else d.book.get e 1

end Sys2Proof.Machine
end

