-- ==== Sys2Proof/Machine/Operands.lean ====
section
/-!
DEFINITION. Machine/Operands.lean: the fields that commands and configuration blocks carry, read from their bytes:
descriptor arguments, account blocks, calibration blocks, parameter groups and the tariff section.
-/
namespace Sys2Proof.Machine

/-- An argument field of `sz` bytes at descriptor offset `off` (24–31) (Table 18.1). -/
def Desc.arg (x : Desc) (off sz : Nat) : Nat := x.args / 2 ^ (8 * (off - 24)) % 2 ^ (8 * sz)

/-- An argument field as a two's complement number. -/
def Desc.sarg (x : Desc) (off sz : Nat) : Int := asSigned (8 * sz) (x.arg off sz)

/-- Every opcode of Table 18.5. -/
def opcodes : List Nat :=
  [0x0001, 0x0002, 0x0010, 0x0011, 0x0012, 0x0013, 0x0014, 0x0015, 0x0021, 0x0030, 0x0031, 0x0032, 0x0033, 0x0040,
    0x0041, 0x0050, 0x0051, 0x0060, 0x0061, 0x0062, 0x0063, 0x0070, 0x0071, 0x0072, 0x0080, 0x0081] ++
  [0x0090, 0x0091, 0x00A0, 0x00B0, 0x00B1, 0x00B2, 0x00C0, 0x00C1, 0x00D0, 0x00D1, 0x00E0, 0x00E1, 0x00F0]

/-! ### Accounts (Table 7.1) -/

/-- Account `a`'s run-time state. -/
def Dev.acct (d : Dev) (a : Nat) : Acct := d.accts.get a {}

/-- The number of accounts (R314): 0–63 tenants, 64 the feeder. -/
def accounts : List Nat := List.range 65

/-- Fields of a configuration block. -/
def blkConn (b : List Byte) : Nat := fieldAt b 1 1
def blkDir (b : List Byte) : Nat := fieldAt b 2 1
def blkTarget (b : List Byte) : Nat := fieldAt b 3 1
def blkCh (b : List Byte) (k : Nat) : Nat := fieldAt b (4 + 2 * k) 2
def blkPh (b : List Byte) (k : Nat) : Nat := fieldAt b (10 + k) 1
def blkProfile (b : List Byte) : Nat := fieldAt b 16 1
def blkPrepay (b : List Byte) : Nat := fieldAt b 17 1
def blkLink (b : List Byte) : Nat := fieldAt b 18 1
def blkRelay (b : List Byte) : Nat := fieldAt b 19 1

/-- Pairs an account's block uses: CONN + 1 (Table 7.2). -/
def blkPairs (b : List Byte) : Nat := min 3 (blkConn b + 1)

/-- The pair numbers of account `a`. -/
def Dev.pairsOf (d : Dev) (a : Nat) : List Nat := List.range (blkPairs (d.acct a).block)

/-- Whether the account's TARGET is METERING. -/
def Dev.targeted (d : Dev) (a : Nat) : Bool := blkTarget (d.acct a).block = 2

/-- The account and pair that channel `c` is mapped to, among accounts whose TARGET is 1 or 2 (R319). -/
def Dev.ownerOf (d : Dev) (c : Nat) : Option (Nat × Nat) :=
  (d.accts.keys.flatMap fun a => (d.pairsOf a).map fun k => (a, k)).find? fun p =>
    blkTarget (d.acct p.1).block ≠ 0 && blkCh (d.acct p.1).block p.2 = c

/-! ### Calibration (Tables 11.2 to 11.4) -/

/-- VFULL in mV, U_NOM in 0.01 V, F_NOM in Hz. -/
def Dev.vfull (d : Dev) : Nat := fieldAt d.cal.cabinet 0 4
def Dev.unom (d : Dev) : Nat := fieldAt d.cal.cabinet 4 2
def Dev.fnom (d : Dev) : Nat := fieldAt d.cal.cabinet 6 1
/-- Voltage input `c` (0 VA, 1 VB, 2 VC, 3 VNE) is declared used (R267). -/
def Dev.vinUsed (d : Dev) (c : Nat) : Bool := bitOf (fieldAt d.cal.cabinet 7 1) c
/-- DM_CFG of direct input `x`, and its mode 0 OFF, 1 CLOCKED, 2 MANCHESTER (Table 4.1). -/
def Dev.dmCfg (d : Dev) (x : Nat) : Nat := fieldAt d.cal.cabinet (8 + x) 1
def Dev.dmMode (d : Dev) (x : Nat) : Nat := d.dmCfg x % 4

/-- The default VOLTAGE block of a converter (Table 11.1a). -/
def defVolt (c : Nat) : List Byte :=
  layout 40 (⟨0, 1, c⟩ :: (List.range 4).map fun i => ⟨12 + 8 * i, 4, 0x40000000⟩)

/-- The default CHANNEL block of a channel (Table 11.1a). -/
def defChan (c : Nat) : List Byte :=
  layout 32 [⟨0, 2, c⟩, ⟨4, 4, 312500⟩, ⟨8, 4, 0x40000000⟩, ⟨16, 4, 0x40000000⟩, ⟨20, 4, 0x40000000⟩]

/-- VOLTAGE block of a converter, CHANNEL block of a channel, as in effect. -/
def Dev.voltBlk (d : Dev) (conv : Nat) : List Byte := d.cal.volt.get conv (defVolt conv)
def Dev.chanBlk (d : Dev) (c : Nat) : List Byte := d.cal.chan.get c (defChan c)

/-- IFULL of a channel, in mA. -/
def Dev.ifull (d : Dev) (c : Nat) : Nat := fieldAt (d.chanBlk c) 4 4

/-- A 24-bit sample's range, scaled by 2^30 (R247). -/
def sat24 (x : Int) : Int := clampI (-(2 ^ 53)) ((2 ^ 23 - 1) * 2 ^ 30) x

/-- A voltage sample of a converter after offset and gain, scaled by 2^30 (R247). -/
def Dev.calVolt (d : Dev) (conv c : Nat) (raw : Int) : Int :=
  sat24 ((raw - sfieldAt (d.voltBlk conv) (8 + 8 * c) 4) * fieldAt (d.voltBlk conv) (12 + 8 * c) 4)

/-- A current sample of a channel after offset and gain, scaled by 2^30 (Table 8.1, stage 2). -/
def Dev.calCur (d : Dev) (c : Nat) (raw : Int) : Int :=
  sat24 ((raw - sfieldAt (d.chanBlk c) 12 4) * fieldAt (d.chanBlk c) 8 4)

/-- MCLK is driven on MCLK_OUTn: the ball is enabled and the metrology domain runs (R78, R206). -/
def Dev.mclkOut (d : Dev) (n : Nat) : Bool := d.metRuns && bitOf (fieldAt d.cal.cabinet 12 1) n

/-! ### The PQ group (Table 10.1) -/

def Dev.pqField (d : Dev) (off sz : Nat) : Nat := fieldAt d.pq.group off sz

/-- A bit of ENABLES: 0 EVENT_PREVIEW, 1 PHASE_CHECK, 2 NEUTRAL_V, 3 NEUTRAL_I, 4 BALANCE. -/
def Dev.pqOn (d : Dev) (b : Nat) : Bool := bitOf (d.pqField 1 1) b

/-! ### Pulse assignments (Table 11.8) -/

def Dev.pulse (d : Dev) (o : Nat) : Pulse := d.pulses.get o {}
def plsAccount (b : List Byte) : Nat := fieldAt b 1 1
def plsQuantity (b : List Byte) : Nat := fieldAt b 2 1
def plsCal (b : List Byte) : Bool := bitOf (fieldAt b 3 1) 0
def plsLow (b : List Byte) : Bool := bitOf (fieldAt b 3 1) 1
def plsConst (b : List Byte) : Nat := fieldAt b 4 4
def plsWidth (b : List Byte) : Nat := fieldAt b 8 2

/-! ### Efevo packages (Tables 14.10, 14.11) -/

/-- The section of type `ty` of a container, by its directory. -/
def pkgSection (p : List Byte) (ty : Nat) : Option (List Byte) :=
  ((List.range (fieldAt p 36 1)).find? fun i => fieldAt p (128 + 16 * i) 2 = ty).map fun i =>
    (p.drop (fieldAt p (132 + 16 * i) 4)).take (fieldAt p (136 + 16 * i) 4)

/-- The tariff section of the package in effect (R593, R618). -/
def Dev.tariffBytes (d : Dev) : Option (List Byte) := d.store.package.bind fun p => pkgSection p 1

/-! ### The tariff section (Tables 13.2 to 13.5) -/

/-- Counts of a tariff section. -/
def tarNProf (t : List Byte) : Nat := fieldAt t 0 1
def tarNSeason (t : List Byte) : Nat := fieldAt t 1 1
def tarNWeek (t : List Byte) : Nat := fieldAt t 2 1
def tarNDay (t : List Byte) : Nat := fieldAt t 3 1
def tarNSpecial (t : List Byte) : Nat := fieldAt t 4 1
def tarNOffset (t : List Byte) : Nat := fieldAt t 5 1
def tarDemandMin (t : List Byte) : Nat := fieldAt t 6 1
def tarResetDay (t : List Byte) : Nat := fieldAt t 7 1

/-- Where each array begins (R618). -/
def tarOffsets (_ : List Byte) : Nat := 32
def tarSeasons (t : List Byte) : Nat := tarOffsets t + 16 * tarNOffset t
def tarWeeks (t : List Byte) : Nat := tarSeasons t + 8 * tarNSeason t
def tarDays (t : List Byte) : Nat := tarWeeks t + 8 * tarNWeek t
def tarSpecials (t : List Byte) : Nat := tarDays t + 32 * tarNDay t
def tarProfiles (t : List Byte) : Nat := tarSpecials t + 8 * tarNSpecial t

/-- The profile of an account: its TARIFF_PROFILE, or 0 where that is not below NPROF (R620). -/
def tarProfileOf (t : List Byte) (profile : Nat) : Nat :=
  tarProfiles t + 128 * (if profile < tarNProf t then profile else 0)

/-- Fields of the profile at offset `p` of a section (Table 13.5). -/
def prFallback (t : List Byte) (p : Nat) : Nat := fieldAt t p 1
def prFlags (t : List Byte) (p : Nat) : Nat := fieldAt t (p + 1) 1
def prGsRate (t : List Byte) (p g : Nat) : Nat := fieldAt t (p + 4 + 8 * g) 1
def prLimit (t : List Byte) (p g : Nat) : Nat := fieldAt t (p + 8 + 8 * g) 4
def prDelay (t : List Byte) (p : Nat) : Nat := fieldAt t (p + 36) 2
def prReclose (t : List Byte) (p : Nat) : Nat := fieldAt t (p + 38) 2
def prPrice (t : List Byte) (p r : Nat) : Nat := fieldAt t (p + 40 + 4 * r) 4
def prExport (t : List Byte) (p : Nat) : Nat := fieldAt t (p + 72) 4
def prLow (t : List Byte) (p : Nat) : Int := sfieldAt t (p + 80) 8
def prEmergency (t : List Byte) (p : Nat) : Nat := fieldAt t (p + 88) 8
def prReconnect (t : List Byte) (p : Nat) : Int := sfieldAt t (p + 96) 8

/-! ### Keys (R580, R666, R669) -/

/-- The record in force of an owner and slot: the valid one with the highest SSEQ; one with an uncorrectable word
counts as empty (R580, Table 12.12). -/
def Dev.keyRec (d : Dev) (owner slot : Nat) : Option KeyRec :=
  match (d.store.keys.filter fun k => k.owner = owner && k.slot = slot && k.done) with
  | [] => none
  | k :: t =>
    let m := t.foldl (fun m x => if m.sseq < x.sseq then x else m) k
    if m.bad then none else some m

/-- The key pointer of an owner (R669). -/
def Dev.keyPtr (d : Dev) (owner : Nat) : KeyPtr := d.led.work.keyptr.get owner {}

/-- The slot that is not active: B when A is active, and A otherwise (R666). -/
def Dev.inactiveSlot (d : Dev) (owner : Nat) : Nat := if (d.keyPtr owner).active = 0 then 1 else 0

/-- The usable active key of an owner (R686), under the key pointer as the last commit wrote it: a new key serves from the
completion of the commit that flips the pointer (R714). -/
def Dev.activeKey (d : Dev) (owner : Nat) : Option KeyRec :=
  let p := d.led.last.keyptr.get owner {}
  if p.active = 0xFF then none else d.keyRec owner p.active

/-! ### Line parameters (R1008, R1053) -/

/-- The 64 bytes of line parameters in effect: the LINE section of the package in effect, else the LINE group. -/
def Dev.lineParams (d : Dev) : List Byte := ((d.store.package.bind fun p => pkgSection p 3)).getD d.lphy.params

/-- FORM_ID as taken: DEVICE_ID[15:0] for 0, with 0x0000 and 0xFFFF taken as 0x0001 (Table 22.5). -/
def Dev.formId (d : Dev) : Nat :=
  let f := fieldAt d.lineParams 32 2
  let g := Config.deviceId % 2 ^ 16
  if f ≠ 0 then f else if g = 0 || g = 0xFFFF then 1 else g

end Sys2Proof.Machine
end

