-- ==== Sys2Proof/Machine/Ops.lean ====
section
/-!
DEFINITION. Machine/Ops.lean: the named operations over the state: rings, interrupts, records, completions, errors,
the state book, and the block's addressed memory.
-/
namespace Sys2Proof.Machine

/-! ### Plumbing -/

/-- Something leaves the LY64 (newest first). -/
def Dev.emit (d : Dev) (o : Out) : Dev := { d with out := o :: d.out }

/-- `f` applied when `c` holds. -/
def Dev.when (d : Dev) (c : Bool) (f : Dev → Dev) : Dev := if c then f d else d

/-- `f` over each element of a list, in order. -/
def Dev.each {α : Type} (d : Dev) (l : List α) (f : Dev → α → Dev) : Dev := l.foldl f d

/-- A byte of the boot image area is written, keeping the canonical form: addresses rising, no byte of 0 listed. -/
def putCell (a : Nat) (b : Byte) : List Host.Cell → List Host.Cell
  | [] => if b = 0#8 then [] else [(a, b)]
  | c :: t =>
    if a < c.1 then (if b = 0#8 then c :: t else (a, b) :: c :: t)
    else if a = c.1 then (if b = 0#8 then t else (a, b) :: t)
    else c :: putCell a b t

/-- What an address of the boot image area reads as; one never written reads 0. -/
def getCell (a : Nat) : List Host.Cell → Byte
  | [] => 0#8
  | c :: t => if c.1 = a then c.2 else getCell a t

/-- The canonical form of the boot image area: every address above `lo` and below the next, no byte of 0 listed. -/
def Memory.wfFrom (lo : Nat) : List Host.Cell → Bool
  | [] => true
  | c :: t => lo ≤ c.1 && c.2 != 0#8 && Memory.wfFrom (c.1 + 1) t

/-- The boot image area is in canonical form: addresses strictly rising, no byte of 0 listed. -/
def Memory.wf (m : List Host.Cell) : Bool := Memory.wfFrom 0 m

/-- Bytes arrive in the boot image area, in order. -/
def storeCells (l m : List Host.Cell) : List Host.Cell := l.foldl (fun m c => putCell c.1 c.2 m) m

/-- The next state with device part `d`: commands leave the queue alone, and most leave the boot image area alone. -/
def State.ok (s : State) (d : Dev) : Host.Outcome State Fault Refusal := .next { s with dev := { d with stores := [] } }

/-- The next state with device part `d`, whose bytes for the boot image area have arrived there. -/
def State.stored (s : State) (d : Dev) : Host.Outcome State Fault Refusal :=
  .next { s with dev := { d with stores := [] }, boot := storeCells d.stores s.boot }

/-- The next state with device part `d` where power-up begins: the boot image area is all 0 (R867). -/
def State.fresh (s : State) (d : Dev) : Host.Outcome State Fault Refusal :=
  .next { s with dev := { d with stores := [] }, boot := [] }

/-- A free value: nothing constrains it. The counter it is drawn under advances. -/
def Dev.draw (d : Dev) : Dev × Nat := ({ d with free := d.free + 1 }, Config.freeNat d.free)

/-- Ring `r` becomes `g`. -/
def Dev.setRing (d : Dev) (r : Nat) (g : Ring) : Dev := { d with eng := { d.eng with rings := d.eng.rings.set r g } }

/-- Ring `r` changed by `f`. -/
def Dev.updRing (d : Dev) (r : Nat) (f : Ring → Ring) : Dev := d.setRing r (f (d.ring r))

/-- Function `f` becomes `x`. -/
def Dev.setFn (d : Dev) (f : Nat) (x : Fn) : Dev := { d with host := { d.host with fns := d.host.fns.set f x } }

/-- The working values of the ledger become `w` (R564). -/
def Dev.setWork (d : Dev) (w : Image) : Dev := { d with led := { d.led with work := w } }

/-- Account `a`'s LEGAL block changed by `f`. -/
def Dev.updLegal (d : Dev) (a : Nat) (f : Legal → Legal) : Dev :=
  d.setWork { d.led.work with legal := d.led.work.legal.set a (f (d.legal a)) }

/-- Account `a`'s OPEN block changed by `f`. -/
def Dev.updOpen (d : Dev) (a : Nat) (f : OpenBlk → OpenBlk) : Dev :=
  d.setWork { d.led.work with opens := d.led.work.opens.set a (f (d.openBlk a)) }

/-! ### Epochs (R337–R340) -/

/-- The epoch after `e`: 1 to 255, wrapping from 255 to 1 (R339). -/
def nextEpoch (e : Nat) : Nat := if e ≥ 255 then 1 else e + 1

/-- A unit's epoch increments (Table 7.7, entries 0x41–0x47). -/
def Dev.bump (d : Dev) (e : Nat) : Dev := { d with book := d.book.set e (nextEpoch (d.book.get e 1)) }

/-- An account's epoch increments (R338, R340). -/
def Dev.bumpAccount (d : Dev) (a : Nat) : Dev := d.updOpen a fun o => { o with epoch := nextEpoch o.epoch }

/-! ### The fast domain (R82–R84) -/

/-- DOZE is left for RUN: its time counts, CLKREQ_N is asserted again and, with LTR enabled, a message goes out; the time that
the next DOZE waits for begins (R82, R105, R121, R789, R790). -/
def Dev.leaveDoze (d : Dev) : Dev :=
  if d.pwr.pstate ≠ .doze then d
  else
    let d := { d with pwr := { d.pwr with
      pstate := .run, idleSince := d.up, dozeTime := d.pwr.dozeTime + (timeDiff d.now d.pwr.dozeSince).toNat } }
    if !d.pwr.hostmode then d
    else if d.host.ltrEn then (d.emit (.clkreq true)).emit (.ltr 20)
    else d.emit (.clkreq true)

/-- A wake source of Table 2.2 arises: DOZE moves to RUN, and the fast domain is woken, in Backstop for a mover transfer only
(R43, R82, R83, R105). -/
def Dev.rouse (d : Dev) : Dev :=
  let d := d.leaveDoze
  if d.pwr.pstate = .run then
    { d with pwr := { d.pwr with workAt := d.up, fastOn := d.pwr.fastOn || !d.pwr.backstop || d.host.mover.isSome } }
  else d

/-- A wake by what R106 counts as activity: a host access, a record or completion to post, a command. -/
def Dev.wake (d : Dev) : Dev := ({ d with pwr := { d.pwr with idleSince := d.up } } : Dev).rouse

/-! ### Interrupts (R779, R780) -/

/-- HOLDOFF of vector `v` of function `f`, in µs (R783). -/
def Dev.holdoff (d : Dev) (f v : Nat) : Nat :=
  fieldAt d.host.groupBytes ((if f = 0 then 0 else 16) + 4 * v) 2

/-- THRESH of vector `v` of function `f` (R783). -/
def Dev.thresh (d : Dev) (f v : Nat) : Nat :=
  fieldAt d.host.groupBytes ((if f = 0 then 2 else 18) + 4 * v) 2

/-- The message of vector `v` of function `f` is sent, or waits while the MSI-X masks block it (R780). -/
def Dev.sendMsix (d : Dev) (f v : Nat) : Dev :=
  let x := d.fn f
  let w := x.win.get v {}
  if x.msixEn && !x.fmask && !x.vmask.getLsbD v && d.masters f then
    (d.setFn f { x with win := x.win.set v { w with opened := false, sent := true, pending := false } }).emit (.msix f v)
  else d.setFn f { x with win := x.win.set v { w with opened := false, sent := true, pending := true } }

/-- The moderation window of vector `v` opens with `n` occurrences in it, and the message goes at once where HOLDOFF
is 0 or THRESH is reached (R780). -/
def Dev.openWindow (d : Dev) (f v n : Nat) : Dev :=
  let x := d.fn f
  let d := d.setFn f { x with win := x.win.set v { opened := true, since := d.up, count := n } }
  if d.holdoff f v = 0 || d.thresh f v ≤ n then d.sendMsix f v else d

/-- An occurrence of cause `v` at function `f` (Table 16.9): it sets the bit, and arms or counts the moderation
window. While SRIOV is not accepted no VF's bit sets (R766). -/
def Dev.occur (d : Dev) (f v : Nat) : Dev :=
  if f ≠ 0 && !(d.has 1 && d.vfExists f) then d
  else
    let x := d.fn f
    let was := x.cause.getLsbD v
    let d := d.setFn f { x with cause := x.cause ||| (1#4 <<< v) }
    if x.mask.getLsbD v then d
    else if !was then d.openWindow f v 1
    else
      let w := x.win.get v {}
      if w.opened then
        let n := w.count + 1
        let y := d.fn f
        let d := d.setFn f { y with win := y.win.set v { w with count := n } }
        if d.thresh f v ≤ n then d.sendMsix f v else d
      else d

/-! ### Ring contexts (R823) -/

/-- The code of a ring state (Table 17.4). -/
def stateCode : RingState → Nat
  | .absent => 0 | .stopped => 1 | .started => 2 | .stopping => 3 | .error => 4

/-- Context bytes 32–63 of ring `r` as written back now (Table 17.1). -/
def Dev.deviceFields (d : Dev) (r : Nat) : List Fld :=
  let g := d.ring r
  [⟨0, 4, g.devIndex⟩, ⟨4, 4, g.hostIndex⟩, ⟨8, 1, stateCode g.state⟩, ⟨9, 1, d.ringOwner r⟩, ⟨10, 2, g.dropped⟩,
    ⟨12, 2, d.inflight r⟩, ⟨14, 2, g.held.length⟩, ⟨16, 8, d.now⟩, ⟨24, 1, g.err⟩]

/-- The device-owned bytes of a context are written back in one memory write (R823). -/
def Dev.writeBack (d : Dev) (r : Nat) : Dev :=
  let g := d.ring r
  let d := d.setRing r { g with wbIndex := g.devIndex }
  if d.pwr.hostmode then d.emit (.hostWrite (d.tableBase + 64 * r + 32) (layout 32 (d.deviceFields r))) else d

/-- Ring `r` changes state and its fields are written back (R823). -/
def Dev.ringState (d : Dev) (r : Nat) (st : RingState) : Dev :=
  (d.updRing r fun g => { g with state := st }).writeBack r

/-- The records held for a ring are discarded, each counted in DROPPED (R849). -/
def Dev.discardHeld (d : Dev) (r : Nat) : Dev :=
  d.updRing r fun g => { g with dropped := wrap 16 (g.dropped + g.held.length + g.late.length), held := [], late := [], owed := 0 }

/-! ### Forming a record for a ring (R926–R932, R690–R692) -/

/-- What authentication does to a record of tenant `t`: none, the trailer, a stub, or a wait for the ceiling. -/
inductive AuthPlan
  | plain | sign (gen counter : Nat) | stub | wait
  deriving DecidableEq, Repr

/-- A tenant counter at or above 2^48 − 4,096 is exhausted (R685); so it is after COUNTERS was lost (Table 12.12). -/
def Dev.tenantExhausted (d : Dev) (t : Nat) : Bool :=
  d.keys.counter.get t 0 ≥ 2 ^ 48 - 4096 || d.led.countersLost.contains t

/-- What R683, R685, R686, R689 and R690 do to a record of tenant byte `t`. -/
def Dev.authPlan (d : Dev) (t : Nat) : AuthPlan :=
  if !(d.has 6) || t ≥ 64 then .plain
  else match d.activeKey t with
    | none => .stub
    | some k =>
      if d.keys.ccmFailed || d.tenantExhausted t then .stub
      else if d.keys.counter.get t 0 ≥ d.led.last.counters.tceil.get t 0 then .wait
      else .sign k.gen (d.keys.counter.get t 0)

/-- The 64 bytes of a record, with the phase bit `ph`; the trailer stands in payload bytes 30–47 (Tables 19.1–19.3). -/
def Rec.bytes (r : Rec) (ph : Bool) : List Byte :=
  let head := layout 64 [⟨0, 1, r.ty⟩, ⟨1, 1, r.flags + b2n ph⟩, ⟨2, 1, r.tenant⟩, ⟨3, 1, r.epoch⟩, ⟨4, 4, r.seq⟩,
    ⟨8, 8, r.time⟩]
  let body := r.pay.foldl (fun bs f => pasteAt bs (16 + f.off) (leBytes f.sz f.val)) head
  match r.auth with
  | none => body
  | some a => [(⟨46, 4, a.gen⟩ : Fld), ⟨50, 6, a.counter⟩, ⟨56, 8, a.tag⟩].foldl
      (fun bs f => pasteAt bs f.off (leBytes f.sz f.val)) body

/-- The free buffers taken in index order until `need` bytes have room (R855): those taken and those left. -/
def takeBufs : Nat → List FreeBuf → List FreeBuf × List FreeBuf
  | _, [] => ([], [])
  | need, b :: t =>
    if need = 0 then ([], b :: t)
    else
      let p := takeBufs (need - b.len) t
      (b :: p.1, p.2)

/-- The payload bytes laid into the buffers, each filled from its start (R855). -/
def fillBufs (d : Dev) : List Byte → List FreeBuf → Dev
  | _, [] => d
  | bs, b :: t => fillBufs (d.emit (.hostWrite b.addr (bs.take b.len))) (bs.drop b.len) t

/-- RFLAGS bits (Table 19.2). -/
def flagPreview : Nat := 2
def flagAuth : Nat := 4
def flagTrunc : Nat := 8
def flagLong : Nat := 16
def flagVoltB : Nat := 32
def flagFaultHold : Nat := 64
def flagFreeRun : Nat := 128

/-- The payload of a record body as it stands for a room of `room` bytes on ring `r`: short in place, long through
the free-buffer partner, or a stub for want of buffers (R928–R930, R856). Answers the flags it adds, the payload
fields and the buffer bytes. -/
def Dev.placePayload (d : Dev) (r : Nat) (b : RecBody) (room : Nat) : Dev × Nat × List Fld × List Byte :=
  if b.len ≤ room then (d, 0, b.pay, [])
  else
    let g := d.ring r
    let p := d.ring g.partner
    if g.partner = 0xFFFF || p.state != .started || p.bufs.isEmpty || g.ty ≠ 2 then
      (d, flagLong + flagTrunc, [⟨14, 2, 0x40⟩], [])
    else
      let tk := takeBufs b.len p.bufs
      let bytes := layout b.len b.pay
      let got := min b.len (sumOn tk.1 fun x => x.len)
      let n := tk.1.length
      let first := (tk.1.head?.map FreeBuf.bufId).getD 0
      let last := (tk.1.getLast?.map FreeBuf.bufId).getD 0
      let d := d.setRing g.partner
        { p with bufs := tk.2, bufIndex := wrap 32 (p.bufIndex + n), devIndex := wrap 32 (p.devIndex + n) }
      let d := fillBufs d (bytes.take got) tk.1
      let short := got < b.len
      (d, flagLong + (if short then flagTrunc else 0),
        [⟨0, 4, got⟩, ⟨4, 4, p.bufIndex⟩, ⟨8, 2, n⟩, ⟨10, 2, first⟩, ⟨12, 2, last⟩, ⟨14, 2, if short then 0x40 else b.cut⟩,
          ⟨16, room - 16, leNat (bytes.take (room - 16))⟩],
        bytes.take got)

/-- The record formed for ring `r` (R932): plain, with the AUTH trailer over its bytes and its buffer bytes (R692),
or the stub of R931, counted in AUTH_REFUSED (R685). The counter of a signed copy advances by one (R681). -/
def Dev.formRec (d : Dev) (r : Nat) (b : RecBody) (plan : AuthPlan) (ph : Bool) : Dev × Rec :=
  match plan with
  | .stub =>
    ({ d with keys := { d.keys with authRefused := d.keys.authRefused.upd b.tenant 0 fun n => sat32 (n + 1) } },
      { ty := b.ty, flags := b.flags ||| flagTrunc, tenant := b.tenant, epoch := b.epoch, seq := b.seq, time := b.time,
        pay := [], auth := none })
  | .sign gen counter =>
    let (d, fl, pay, bufBytes) := d.placePayload r b 30
    let rec0 : Rec := { ty := b.ty, flags := b.flags ||| fl ||| flagAuth, tenant := b.tenant, epoch := b.epoch,
                        seq := b.seq, time := b.time, pay := pay, auth := some ⟨gen, counter, 0⟩ }
    let key := match d.activeKey b.tenant with | some k => k.key | none => []
    let tag := leNat (ccmSeal key (layout 11 [⟨0, 4, gen⟩, ⟨4, 1, b.tenant⟩, ⟨5, 6, counter⟩]) (rec0.bytes ph ++ bufBytes) []).2
    ({ d with keys := { d.keys with counter := d.keys.counter.set b.tenant (counter + 1) } },
      { rec0 with auth := some ⟨gen, counter, tag⟩ })
  | _ =>
    let (d, fl, pay, _) := d.placePayload r b 48
    (d, { ty := b.ty, flags := b.flags ||| fl, tenant := b.tenant, epoch := b.epoch, seq := b.seq, time := b.time,
          pay := pay, auth := none })

/-! ### Writing entries (R832–R834, R846) -/

/-- The 16 bytes of a completion (Table 18.2). -/
def completionBytes (status tag result : Nat) (detail ph : Bool) : List Byte :=
  layout 16 [⟨1, 1, b2n ph + 2 * b2n detail⟩, ⟨2, 2, status⟩, ⟨4, 4, tag⟩, ⟨8, 8, result⟩]

/-- The bytes of an entry with its phase bit (Table 17.5). -/
def Entry.bytes (e : Entry) (ph : Bool) : List Byte :=
  match e with
  | .completion st tag result detail => completionBytes st tag result detail ph
  | .pad => layout 16 [⟨0, 1, 0xFE⟩, ⟨1, 1, b2n ph⟩]
  | .record r => r.bytes ph

/-- An entry is written at its slot of ring `r`: bytes 8 and on in a first memory write, bytes 0 to 7 in a second, with which the
entry stands in the ring (R832, R833). -/
def Dev.fill (d : Dev) (r : Nat) (e : Entry) : Dev :=
  let g := d.ring r
  let ph := g.phase g.devIndex
  let bs := e.bytes ph
  let at_ := g.base + g.devIndex % g.size * g.entryBytes
  ((d.emit (.hostWrite (at_ + 8) (bs.drop 8))).emit (.hostWrite at_ (bs.take 8))).emit (.entry r g.devIndex ph e)

/-- PAD entries until the next index of a multiple of four (R834). -/
def Dev.padRing (d : Dev) (r : Nat) : Nat → Dev
  | 0 => d
  | n + 1 =>
    let g := d.ring r
    Dev.padRing ((d.fill r .pad).setRing r
      { g with devIndex := wrap 32 (g.devIndex + 1) }) r n

/-- PADs a record needs at the current index of a ring (R834). -/
def Ring.pads (g : Ring) : Nat := if g.ty = 1 then (4 - g.devIndex % 4) % 4 else 0

/-- Slots a record takes on a ring, PADs included (R834). -/
def Ring.recSlots (g : Ring) : Nat := if g.ty = 1 then 4 + g.pads else 1

/-- A record copy is written to ring `r`: PADs, the entry with the phase of its index, DEV_INDEX, and the occurrence
(R832–R834, R846). One that must wait for a counter ceiling waits; a preview and its follow-up keep an entry reserved (R683, R954). -/
def Dev.writeRec (d : Dev) (r : Nat) (b : RecBody) : Dev :=
  let plan := d.authPlan b.tenant
  if plan = .wait then
    let d := if 1 ≤ b.ty && b.ty ≤ 3 then d.updRing r fun g => { g with owed := g.owed + 1 } else d
    { d with recs := { d.recs with ceilWait := d.recs.ceilWait ++ [(r, b)] } }
  else
    let d := d.wake.padRing r (d.ring r).pads
    let g := d.ring r
    let b := if b.ty = 0x01 then { b with pay := b.pay ++ [⟨4, 2, g.dropped⟩] } else b
    let ph := g.phase g.devIndex
    let (d, x) := d.formRec r b plan ph
    let d := d.fill r (.record x)
    let d := d.updRing r fun g => { g with devIndex := wrap 32 (g.devIndex + if g.ty = 1 then 4 else 1) }
    if g.cflags.testBit 0 && !g.noIrq then d.occur (fnOfOwner (d.ringOwner r)) (causeOfType b.ty) else d

/-- Room on ring `r` for a record that has no reservation: beyond the entries reserved for follow-ups (R429) and, on a
completion ring, beyond those reserved for the descriptors in flight against it (R842). -/
def Dev.roomForRec (d : Dev) (r : Nat) : Bool :=
  let g := d.ring r
  g.recSlots + g.owed + (if g.ty = 1 then 8 * d.inflightAgainst r else 0) ≤ g.room

/-- The blocks that class 1 holds in `d` beyond those it held in `old` are taken: of the general pool while it has any, then reserved
ones (R851, R881). Where neither is left the record waits all the same. -/
def Dev.claimed (d old : Dev) : Dev :=
  let more := d.class1Blocks - old.class1Blocks
  { d with eng := { d.eng with reserved := min 16 (min old.reservedUsed d.class1Blocks + (more - min more old.poolFree)) } }

/-- A request for staging blocks: its number among those of the clock, the requester, and the blocks. -/
structure BlockReq where
  no : Nat
  who : Nat
  blocks : Nat

/-- Requests of one class for blocks of the general pool in one clock: they are served in turn, those of the requester that lost the
class's previous contest first, while blocks last. Answers the numbers of the requests served; the requester of the first that is not
has lost this contest (R851, R881). -/
def Dev.contest (d : Dev) (cls : Nat) (reqs : List BlockReq) : Dev × List Nat :=
  let order := (reqs.filter fun q => d.eng.lost.get? cls = some q.who) ++ reqs.filter fun q => d.eng.lost.get? cls ≠ some q.who
  let z := order.foldl (fun (z : Nat × List Nat × Option Nat) q =>
    if q.blocks ≤ z.1 then (z.1 - q.blocks, z.2.1 ++ [q.no], z.2.2) else (z.1, z.2.1, z.2.2.or (some q.who))) (d.poolFree, [], none)
  (match z.2.2 with | some l => { d with eng := { d.eng with lost := d.eng.lost.set cls l } } | none => d, z.2.1)

/-- A record waits for its ring, or is dropped and counted, as the ring's full policy says (Table 17.7). -/
def Dev.holdOrDrop (d : Dev) (r : Nat) (b : RecBody) : Dev :=
  let g := { d.ring r with short := true }
  if (g.ty = 1 || !g.cflags.testBit 1) && g.held.length < 64 then (d.setRing r { g with held := g.held ++ [b] }).claimed d
  else d.setRing r { g with dropped := wrap 16 (g.dropped + 1) }

/-- A numbered record goes to ring `r` under Table 17.7: previews only with room for two and nothing held (R429),
follow-ups into their reserved entry (R425), every other record in order behind the held ones (R847). What a ring in ERROR was to
take, as its only destination, is counted in DROPPED (R831, R849; DEDUCED, assumption 143). -/
def Dev.postNow (d : Dev) (r : Nat) (b : RecBody) : Dev :=
  let d := if (d.ring r).state = .started || (d.ring r).state = .stopping then d.wake else d
  let g := d.ring r
  let can := d.masters (fnOfOwner (d.ringOwner r))
  if b.ty = 0x02 || b.ty = 0x03 then
    if g.state = .started || g.state = .stopping then
      if can then (d.updRing r fun g => { g with owed := g.owed - 1 }).writeRec r b
      else d.setRing r { g with late := g.late ++ [b] }
    else if g.state = .error then d.setRing r { g with dropped := wrap 16 (g.dropped + 1) }
    else d
  else if g.state = .error then d.setRing r { g with dropped := wrap 16 (g.dropped + 1) }
  else if g.state ≠ .started then d
  else if b.ty = 0x01 || b.ty = 0x11 then
    if can && g.held.isEmpty && g.owed + 2 ≤ g.room then
      (d.updRing r fun g => { g with owed := g.owed + 1 }).writeRec r b
    else d.setRing r { g with dropped := wrap 16 (g.dropped + 1), short := true }
  else if can && g.held.isEmpty && d.roomForRec r then d.writeRec r b
  else d.holdOrDrop r b

/-- A numbered record goes to ring `r`, behind the preview set at hand (R433). -/
def Dev.postTo (d : Dev) (r : Nat) (b : RecBody) : Dev :=
  if d.setWaits || !d.eng.behind.isEmpty then { d with eng := { d.eng with behind := d.eng.behind ++ [.record r b] } }
  else d.postNow r b

/-- The event code of a record: its payload byte 0. -/
def RecBody.event (b : RecBody) : Nat := match b.pay.find? fun f => f.off = 0 with | some f => f.val % 256 | none => 0

/-- Ring `r` is a destination of a record under Table 17.6. -/
def Dev.subscribes (d : Dev) (r : Nat) (g : Ring) (b : RecBody) : Bool :=
  let o := d.ringOwner r
  g.state = .started && g.ty = 2 && g.types.testBit (typeBit b.ty) &&
    (if b.tenant < 64 then g.accounts.testBit b.tenant && (o = 0xFF || o = b.tenant)
     else if b.tenant = 0x40 then o = 0xFF && g.cflags.testBit 3
     else g.cflags.testBit 2 &&
       (o = 0xFF || (o < 64 && ((b.ty = 0x10 && 1 ≤ b.event && b.event ≤ 7) || b.ty = 0x11 || b.ty = 0x20 || b.ty = 0x7F))))

/-- A message for the tunnel of a standalone node (R1078): KIND, TID (none for an unsolicited record, which takes the
next number from 0x8000), and its bytes. Records are dropped when the queue of 128 is full. -/
def Dev.tunnelPush (d : Dev) (kind : Nat) (tid : Option Nat) (bytes : List Byte) : Dev :=
  if kind = 2 && tid.isNone && d.lnet.tunQueue.length ≥ 128 then
    { d with lnet := { d.lnet with tunDropped := sat32 (d.lnet.tunDropped + 1) } }
  else
    let id := tid.getD d.lnet.tunNext
    let nx := if tid.isNone then (if d.lnet.tunNext ≥ 0xFFFF then 0x8000 else d.lnet.tunNext + 1) else d.lnet.tunNext
    { d with lnet := { d.lnet with tunQueue := d.lnet.tunQueue ++ [⟨kind, id, bytes⟩], tunNext := nx } }

/-- A record of a standalone node goes into the tunnel when it is an ERROR or its type is in TUN_TYPES (R1078); HARMONICS never
does (R63, R514). A long payload follows the record's 64 bytes. -/
def Dev.tunnelRecord (d : Dev) (b : RecBody) (tid : Option Nat) : Dev :=
  if d.has 15 && (b.ty = 0x70 || tid.isSome || (b.ty ≠ 0x20 && (fieldAt d.lineParams 40 4).testBit (typeBit b.ty))) then
    let d := d.wake
    let plan := match d.authPlan b.tenant with | .wait => AuthPlan.stub | p => p
    let room := match plan with | .sign _ _ => 30 | _ => 48
    let long := b.len > room
    let (d, x) := d.formRec 0xFFFF { b with len := min b.len room } plan false
    let full := layout b.len b.pay
    let x := if long then
        { x with flags := x.flags ||| flagLong
                 pay := [⟨0, 4, b.len⟩, ⟨14, 2, b.cut⟩, ⟨16, room - 16, leNat (full.take (room - 16))⟩] }
      else x
    d.tunnelPush 2 tid (x.bytes false ++ if long then full else [])
  else d

/-- A numbered record goes to every destination of Table 17.6; POWER goes to ring 1 too. -/
def Dev.route (d : Dev) (b : RecBody) : Dev :=
  if !d.pwr.hostmode then d.tunnelRecord b none
  else
    let d := if b.ty = 0x7F then d.postTo 1 b else d
    d.each d.eng.rings.cells fun d p => if d.subscribes p.1 (d.ring p.1) b then d.postTo p.1 b else d

/-- The next SEQ of a stream (R925). -/
def Dev.number (d : Dev) (b : RecBody) : Dev × RecBody :=
  let k := 256 * b.ty + b.tenant
  let n := d.recs.seq.get k 0
  ({ d with recs := { d.recs with seq := d.recs.seq.set k (wrap 32 (n + 1)) } }, { b with seq := n })

/-- RFLAGS.FAULT_HOLD of a record that concerns an account (Table 19.2). -/
def Dev.withHold (d : Dev) (b : RecBody) : RecBody :=
  if b.tenant ≤ 0x40 && d.faultHold b.tenant then { b with flags := b.flags ||| flagFaultHold } else b

/-- The device time of an instant of the model's time base. -/
def Dev.stamp (d : Dev) (t : Nat) : DevTime := (d.now + 2 ^ 64 - (d.up - t) % 2 ^ 64) % 2 ^ 64

/-- A capture trigger of kind `trig` with argument `arg` at an instant (Table 10.6, R493, R495): it triggers the armed
capture, or is counted in CAPTURE_MISSED while one is being delivered. -/
def Dev.captureTrig (d : Dev) (trig arg inst : Nat) : Dev :=
  let c := d.pq.cap
  match c.arm with
  | none => d
  | some b =>
    if fieldAt b 1 1 = trig && (trig < 2 || trig = 4 || fieldAt b 2 1 = arg) then
      if c.trig.isSome then { d with pq := { d.pq with cap := { c with missed := sat32 (c.missed + 1) } } }
      else { d with pq := { d.pq with cap := { c with trig := some inst } } }
    else d

/-- An EVENT_PQ record triggers a capture armed for it: any start of a sag, swell or interruption, or its own code. -/
def Dev.captureOn (d : Dev) (b : RecBody) : Dev :=
  if b.ty ≠ 0x10 then d
  else
    let t := d.up - (timeDiff d.now b.time).toNat
    let d := if b.event = 1 || b.event = 3 || b.event = 5 then d.captureTrig 1 0 t else d
    d.captureTrig 2 b.event t

/-- A record is generated and posted; behind one of its stream that waits for a commit it waits as well (R945). In Backstop,
before negotiation, and for a feature not accepted it is not generated and not numbered (R43, R45, R925, R786). -/
def Dev.post (d : Dev) (b : RecBody) : Dev :=
  if !(d.serving && d.typeOn b.ty) then d
  else
    let (d, b) := d.number (d.withHold b)
    let d := d.captureOn b
    if d.recs.afterCommit.any fun x => x.ty = b.ty && x.tenant = b.tenant then
      { d with recs := { d.recs with afterCommit := d.recs.afterCommit ++ [b] } }
    else d.route b

/-- A record is generated now and posted when the commit that writes its values has completed (R946). -/
def Dev.postAfterCommit (d : Dev) (b : RecBody) : Dev :=
  if !(d.serving && d.typeOn b.ty) then d
  else
    let (d, b) := d.number (d.withHold b)
    { d with recs := { d.recs with afterCommit := d.recs.afterCommit ++ [b] } }

/-- Held records of ring `r` are posted, oldest first, while there is room (R848). -/
def Dev.drainHeld (d : Dev) (r : Nat) : Nat → Dev
  | 0 => d
  | n + 1 =>
    let g := d.ring r
    match g.held with
    | [] => d
    | b :: t =>
      if g.state = .started && d.masters (fnOfOwner (d.ringOwner r)) && d.roomForRec r && !d.setWaits then
        Dev.drainHeld ((d.setRing r { g with held := t }).writeRec r b) r n
      else d

/-- A POWER record (Table 19.14): event and fields, with the host configuration epoch. -/
def Dev.postPower (d : Dev) (event : Nat) (fs : List Fld) : Dev :=
  d.post { ty := 0x7F, epoch := d.epoch 0x47, time := d.now, pay := ⟨0, 1, event⟩ :: fs }

/-- The quarter of an hour of a kind of record begins anew. -/
def Dev.quarter (d : Dev) (k : Nat) : Dev := { d with recs := { d.recs with sums := d.recs.sums.set k d.up } }

/-- MCLK starts or stops on the balls where that differs from `old` (R78). -/
def Dev.mclkEdges (d old : Dev) : Dev :=
  d.each [0, 1] fun e n => if old.mclkOut n != d.mclkOut n then e.emit (.mclk n (d.mclkOut n)) else e

/-! ### Completions (R844, R889, R879) -/

/-- The completion ring of a command: the PARTNER of its command ring; ring 1 for the boot image (R842, R864). -/
def Dev.completionRing (d : Dev) (c : CmdRef) : Nat :=
  match c.src with
  | .ring r => (d.ring r).partner
  | .boot => 1
  | .tunnel _ => 0xFFFF

/-- The command ring a command counts against: ring 0 for the boot image and the tunnel. -/
def CmdRef.ring (c : CmdRef) : Nat := match c.src with | .ring r => r | _ => 0

/-- The owner a command acts for: the owner of its ring (R895). -/
def Dev.issuer (d : Dev) (c : CmdRef) : Nat := match c.src with | .ring r => d.ringOwner r | _ => 0xFF

/-- The first flight of a ring and tag that has begun leaves the list. -/
def dropFlight (r tag : Nat) : List Flight → List Flight
  | [] => []
  | f :: t => if f.ring = r && f.tag = tag && f.begun then t else f :: dropFlight r tag t

/-- The first flight of a ring and tag that has not begun begins. -/
def beginFlight (r tag : Nat) : List Flight → List Flight
  | [] => []
  | f :: t => if f.ring = r && f.tag = tag && !f.begun then { f with begun := true } :: t else f :: beginFlight r tag t

/-- A completion, and the record before it, are written to the completion ring (R842, R846, R890). -/
def Dev.writeCompletion (d : Dev) (c : Nat) (o : OwedCompletion) : Dev :=
  let d := match o.record with | some b => d.writeRec c b | none => d
  let d := d.wake
  let g := d.ring c
  let d := (d.fill c (.completion o.status o.cmd.tag o.result o.detail)).setRing c
    { g with devIndex := wrap 32 (g.devIndex + 1) }
  if o.cmd.irq && !g.noIrq then d.occur (fnOfOwner (d.ringOwner c)) 0 else d

/-- The flight of a command ends, with one boot-image descriptor less where it came from there (R841, R864). -/
def Dev.land (d : Dev) (c : CmdRef) : Dev :=
  { d with eng := { d.eng with
    flights := dropFlight c.ring c.tag d.eng.flights
    bootLeft := match c.src with | .boot => d.eng.bootLeft - 1 | _ => d.eng.bootLeft } }

/-- Complete tunnel commands with an undefined opcode at the head of their queue complete with BAD_OPCODE (R922, R1078). -/
def Dev.tunSkip (d : Dev) : Nat → Dev
  | 0 => d
  | n + 1 =>
    match d.lnet.tunReady with
    | j :: t =>
      if d.lnet.tunRunning.isNone && d.lnet.tunQueue.length < 124 && !opcodes.contains (fieldAt j.bytes 0 2) then
        Dev.tunSkip (({ d with lnet := { d.lnet with tunReady := t } } : Dev).tunnelPush 0 (some j.tid)
          (completionBytes 0x0010 (fieldAt j.bytes 4 4) 0 false false)) n
      else d
    | [] => d

/-- Completion ring `c` can take the completion `o` now: it is started, mastering is allowed, and a record before it need not wait for
a counter ceiling (R842, R879). -/
def Dev.takesDone (d : Dev) (c : Nat) (o : OwedCompletion) : Bool :=
  (d.ring c).state = .started && d.masters (fnOfOwner (d.ringOwner c)) && !d.setWaits && o.record.all fun b => d.authPlan b.tenant != .wait

/-- A command completes: its record and completion are posted, in the order in which commands complete, or wait while its completion
ring cannot take them (R842, R844, R879); through the tunnel they go as messages (R1078). RESULT is 0 unless OK, save where
the caller says otherwise (R889). -/
def Dev.finishNow (d : Dev) (o : OwedCompletion) : Dev :=
  match o.cmd.src with
  | .tunnel tid =>
    let d := match o.record with | some b => d.tunnelRecord b (some tid) | none => d
    let d := d.tunnelPush 0 (some tid) (completionBytes o.status o.cmd.tag o.result o.detail false)
    Dev.tunSkip { d with lnet := { d.lnet with tunRunning := none } } d.lnet.tunReady.length
  | _ =>
    let c := d.completionRing o.cmd
    if d.takesDone c o && d.eng.owedDone.all fun x => d.completionRing x.cmd ≠ c then (d.writeCompletion c o).land o.cmd
    else ({ d with eng := { d.eng with owedDone := d.eng.owedDone ++ [o] } } : Dev).claimed d

/-- A command completes, behind the preview set at hand (R433). -/
def Dev.finish (d : Dev) (o : OwedCompletion) : Dev :=
  if d.setWaits || !d.eng.behind.isEmpty then { d with eng := { d.eng with behind := d.eng.behind ++ [.completion o] } }
  else d.finishNow o

/-- Whether a FENCE's earlier commands have all completed (R900). -/
def Dev.fenceReady (d : Dev) (f : FenceWait) : Bool :=
  d.eng.flights.all fun x => x.ring ≠ f.ring || x.no ≥ f.no

/-- The number of the next commit to begin (R565). -/
def Dev.nextCommit (d : Dev) : Nat := (match d.led.writing with | some w => w.seq | none => d.led.lastSeq) + 1

/-- FENCEs whose earlier commands have completed complete; those with TICK then wait for the next commit (R900). -/
def Dev.settleFences (d : Dev) : Nat → Dev
  | 0 => d
  | n + 1 =>
    match d.eng.fences.find? fun f => f.commit.isNone && d.fenceReady f with
    | none => d
    | some f =>
      let rest := d.eng.fences.erase f
      if f.tick then
        Dev.settleFences
          { d with eng := { d.eng with fences := rest ++ [{ f with commit := some d.nextCommit }] } } n
      else
        Dev.settleFences (({ d with eng := { d.eng with fences := rest } } : Dev).finish ⟨f.cmd, 0, 0, false, none⟩) n

/-- Rings in STOPPING with nothing in flight and no follow-up owed become STOPPED, and their RING_STOP completes with
DEV_INDEX (Table 17.4, R902). -/
def Dev.settleStops (d : Dev) : Nat → Dev
  | 0 => d
  | n + 1 =>
    match d.eng.stops.find? fun p =>
        (d.eng.flights.all fun x => x.ring ≠ p.1 || (x.tag = p.2.tag && p.2.ring = p.1)) &&
          (d.ring p.1).owed = 0 && (d.ring p.1).late.isEmpty && (d.eng.owedDone.all fun o => o.cmd.ring ≠ p.1) &&
          (d.eng.behind.all fun b => match b with | .completion o => o.cmd.ring ≠ p.1 | .record r _ => r ≠ p.1) with
    | none => d
    | some p =>
      let d := ({ d with eng := { d.eng with stops := d.eng.stops.erase p } } : Dev)
      let d := (d.discardHeld p.1).ringState p.1 .stopped
      Dev.settleStops (d.finish ⟨p.2, 0, (d.ring p.1).devIndex, false, none⟩) n

/-- What follows from a completed command: waiting FENCEs and RING_STOPs. -/
def Dev.settle (d : Dev) : Dev :=
  (d.settleFences (2 * d.eng.fences.length)).settleStops d.eng.stops.length |>.settleFences (2 * d.eng.fences.length)

/-- A command completes with a status and no result. -/
def Dev.done (d : Dev) (c : CmdRef) (status : Nat) : Dev := (d.finish ⟨c, status, 0, false, none⟩).settle

/-- A command completes with OK and a result. -/
def Dev.doneWith (d : Dev) (c : CmdRef) (result : Nat) (detail : Bool := false) : Dev :=
  (d.finish ⟨c, 0, result, detail, none⟩).settle

/-- Completion status codes (Table 18.4). -/
def stOK : Nat := 0x0000
def stBadOpcode : Nat := 0x0010
def stBadTenant : Nat := 0x0011
def stBadArg : Nat := 0x0012
def stNotReady : Nat := 0x0020
def stBusy : Nat := 0x0021
def stSealed : Nat := 0x0030
def stAuthFail : Nat := 0x0031
def stExhausted : Nat := 0x0032
def stNoBuffer : Nat := 0x0040
def stDmaFault : Nat := 0x0041
def stMismatch : Nat := 0x0050
def stEpochStale : Nat := 0x0051
def stMedia : Nat := 0x0060
def stAborted : Nat := 0x0070
def stInternal : Nat := 0x00FF

/-! ### Errors (chapter 23) -/

/-- An ERROR record's body from a closed report (Table 19.14). -/
def ErrRec.body (e : ErrRec) (queued : Bool) : RecBody :=
  { ty := 0x70, seq := e.seq, time := e.time,
    pay := [⟨0, 2, e.err.code⟩, ⟨2, 1, e.err.cls⟩, ⟨3, 1, b2n e.escalated + 2 * b2n queued⟩, ⟨4, 4, e.follow⟩,
        ⟨8, 2, e.followCode⟩, ⟨10, 1, e.err.region⟩, ⟨11, 1, e.err.account⟩, ⟨12, 4, e.regionCount⟩,
        ⟨16, 4, e.overflow⟩] ++ e.err.detail.map fun f => { f with off := 20 + f.off } }

/-- An ERR_SEQ enters the list of unacknowledged C2 and C3 records; beyond 16 the oldest leaves it and is counted in
UNACKED (R1110). -/
def ErrorUnit.listSeq (e : ErrorUnit) (seq : Nat) : ErrorUnit :=
  let l := e.unackList ++ [seq]
  if l.length > 16 then { e with unackList := l.drop 1, unacked := min 255 (e.unacked + 1) } else { e with unackList := l }

/-- The working ERRORS block changed by `f`. -/
def Dev.updErr (d : Dev) (f : ErrBlk → ErrBlk) : Dev := d.setWork { d.led.work with errors := f d.led.work.errors }

/-- A record of a region is posted: REPORTED holds the region's COUNT at its last posting (R601). -/
def Dev.reported (d : Dev) (region : Nat) : Dev :=
  if region < 16 then d.updErr fun b => { b with reported := b.reported.set region (b.count.get region 0) } else d

/-- Ring 2 can take an ERROR record now, a staging block included (R851, R1102). -/
def Dev.ring2Ready (d : Dev) : Bool :=
  (d.ring 2).state = .started && d.masters 0 && (d.ring 2).room ≥ 1 && d.errorBlock && !d.setWaits

/-- An ERROR record is written to ring 2; FAULT is set, and a C2 or C3 record joins the list (R1103, R1110). -/
def Dev.writeError (d : Dev) (e : ErrRec) (queued : Bool) : Dev :=
  let d := d.wake
  let g := d.ring 2
  let b := e.body queued
  let ph := g.phase g.devIndex
  let (d, x) := d.formRec 2 b .plain ph
  let d := (d.fill 2 (.record x)).updRing 2 fun g => { g with devIndex := wrap 32 (g.devIndex + 1) }
  let d := (d.occur 0 2).reported e.err.region
  if e.err.cls ≥ 2 then { d with err := d.err.listSeq e.seq } else d

/-- Queued ERROR records are posted oldest first, each with QUEUED (R1102). -/
def Dev.drainErrors (d : Dev) : Nat → Dev
  | 0 => d
  | n + 1 =>
    match d.err.queue with
    | [] => d
    | e :: t => if d.ring2Ready then Dev.drainErrors (({ d with err := { d.err with queue := t } } : Dev).writeError e true) n else d

/-- A closed ERROR record goes to ring 2, or waits in the queue of 64, or is discarded and counted in
QUEUE_OVERFLOW (R1102). With HOSTMODE low it goes into the tunnel (R1078). -/
def Dev.deliverError (d : Dev) (e : ErrRec) : Dev :=
  if !d.pwr.hostmode then
    let d := (d.tunnelRecord (e.body false) none).reported e.err.region
    if e.err.cls ≥ 2 then { d with err := d.err.listSeq e.seq } else d
  else if d.err.queue.isEmpty && d.ring2Ready then d.writeError e false
  else if d.err.queue.length < 64 then
    let d := { d with err := { d.err with
      queue := d.err.queue ++ [e], queuePeak := max d.err.queuePeak (d.err.queue.length + 1) } }
    d.occur 0 2
  else { d with err := { d.err with overflow := sat32 (d.err.overflow + 1) } }

/-- The open handling slot closes into one ERROR record, numbered as it is generated (R1101, R943). -/
def Dev.closeSlot (d : Dev) (escalated : Bool) : Dev :=
  match d.err.slot with
  | none => d
  | some s =>
    let d := { d with err := { d.err with slot := none } }
    let (d, b) := d.number { ty := 0x70 }
    d.deliverError ⟨s.err, s.time, s.follow, s.followCode, s.regionCount, escalated, d.err.overflow, b.seq⟩

/-- An error without a region, found while the error unit does not run or while slot 3 is open, is counted in
CLASS_COUNT with its FIRST_CODE (R1108, R1215). -/
def ErrBlk.countClass (b : ErrBlk) (e : Err) : ErrBlk :=
  { b with
    firstCode := if b.classCount.get e.cls 0 = 0 then b.firstCode.set e.cls e.code else b.firstCode
    classCount := b.classCount.upd e.cls 0 fun n => sat32 (n + 1) }

/-- A C3 error is written into the latch: a held one not acknowledged only counts it in FATAL_FOLLOW (R1107). -/
def ErrBlk.latch (b : ErrBlk) (e : Err) (cause : Nat) (t : DevTime) : ErrBlk :=
  if b.fatalCode ≠ 0 && !b.fatalAcked then { b with fatalFollow := sat32 (b.fatalFollow + 1) }
  else { b with fatalCode := e.code, fatalCause := cause, fatalAcked := false, fatalTime := t, fatalFollow := 0,
                fatalDetail := e.detail }

/-- The handling window of a class (Table 23.2). -/
def errWindow (cls : Nat) : Nat := match cls with | 0 => ms 1 | 1 => ms 10 | _ => ms 100

/-- An open slot whose window has run closes before a further error is taken (R1101, R1124). -/
def Dev.closeExpired (d : Dev) : Dev :=
  match d.err.slot with
  | some s => if d.since s.since (errWindow s.err.cls) then d.closeSlot false else d
  | none => d

/-- An error is handled: counted in its region, handled in a slot of its class, folded or escalated (R1094,
R1098–R1101, R1215), or counted for later where the error unit does not run (R50, R1108). -/
def Dev.handleError (d : Dev) (e : Err) : Dev :=
  let d := if e.region < 16 then
    d.updErr fun b => { b with count := b.count.upd e.region 0 fun n => sat32 (n + 1) } else d
  let d := { d with err := { d.err with totals := d.err.totals.upd e.cls 0 fun n => sat32 (n + 1) } }
  let rc := if e.region < 16 then d.led.work.errors.count.get e.region 0 else 0
  if d.errRuns && !d.err.fatalOpen then
    let d := d.wake.closeExpired
    match d.err.slot with
    | none => { d with err := { d.err with slot := some { err := e, time := d.now, since := d.up, regionCount := rc } } }
    | some s =>
      if s.err.cls ≥ e.cls then
        { d with err := { d.err with slot := some { s with
          follow := sat32 (s.follow + 1), followCode := if s.follow = 0 then e.code else s.followCode } } }
      else
        let d := d.closeSlot true
        { d with err := { d.err with slot := some { err := e, time := d.now, since := d.up, regionCount := rc } } }
  else if e.region < 16 then d
  else d.updErr fun b => b.countClass e

/-- An error is raised: handled at once, or with the others of the clock at hand. -/
def Dev.raise (d : Dev) (e : Err) : Dev :=
  match d.err.found with
  | some l => { d with err := { d.err with found := some (l ++ [e]) } }
  | none => d.handleError e

/-- An error takes its place among those of one clock: by class, highest first, then by ascending code (R1100). -/
def placeError (e : Err) : List Err → List Err
  | [] => [e]
  | x :: t => if x.cls < e.cls || (x.cls = e.cls && e.code < x.code) then e :: x :: t else x :: placeError e t

/-- What `f` finds is found in one clock: its errors are handled together, in the order of R1100. -/
def Dev.oneClock (d : Dev) (f : Dev → Dev) : Dev :=
  let d := f { d with err := { d.err with found := some [] } }
  match d.err.found with
  | none => d
  | some l => ({ d with err := { d.err with found := none } } : Dev).each (l.foldl (fun l e => placeError e l) []) Dev.handleError

/-- A device-fatal error: slot 3 opens, the latch takes it, and Backstop with its cause is due within 1 ms (R1107, R1215,
R51). A lower slot stays open, and is discarded with Backstop. -/
def Dev.latchFatal (d : Dev) (e : Err) (cause : Nat) : Dev :=
  let d := d.updErr fun b => b.latch e cause d.now
  let d := { d with err := { d.err with totals := d.err.totals.upd 3 0 fun n => sat32 (n + 1) } }
  { d with err := { d.err with fatalOpen := d.err.fatalOpen || !d.pwr.backstop, fatalDue := some cause } }

/-- A device-fatal error found while the fast domain runs: a lower slot closes with ESCALATED first (R1099, R1126). -/
def Dev.raiseFatal (d : Dev) (e : Err) (cause : Nat) : Dev :=
  (if d.errRuns && !d.err.fatalOpen then d.closeSlot true else d).latchFatal e cause

/-- A ring enters ERROR: held records are dropped, a RING_STOP that waits for it completes with ABORTED (DEDUCED, assumption
60), RING_FAULT is raised, and for a fixed ring the PF FAULT cause is set (R831, R849, R1104). -/
def Dev.ringFault (d : Dev) (r err : Nat) : Dev :=
  let d := d.discardHeld r
  let d := (d.updRing r fun g => { g with err := err }).ringState r .error
  let ended := d.eng.stops.filter fun p => p.1 = r
  let d := { d with eng := { d.eng with stops := d.eng.stops.filter fun p => p.1 ≠ r } }
  let d := d.each ended fun d p => d.done p.2 stAborted
  let d := d.raise { code := 0x0601, cls := 1, detail := [⟨0, 2, r⟩, ⟨2, 1, err⟩, ⟨3, 1, d.ringOwner r⟩] }
  if err = 5 then d.occur 0 2 else d

/-! ### What waits is posted (R433, R801–R803, R840, R848, R879, R1102) -/

/-- The rings something waits for that mastering allows to post: late follow-ups, completions, held records. -/
def Dev.ringsThatWait (d : Dev) : List Nat :=
  (d.eng.rings.cells.filter fun p =>
    (!p.2.late.isEmpty || !p.2.held.isEmpty || d.eng.owedDone.any fun o => d.completionRing o.cmd = p.1) &&
      d.masters (fnOfOwner (d.ringOwner p.1))).map Prod.fst

/-- Completions that waited for completion ring `c` are posted while it takes them (R879). -/
def Dev.drainOwed (d : Dev) (c : Nat) : Nat → Dev
  | 0 => d
  | n + 1 =>
    match d.eng.owedDone.find? fun o => d.completionRing o.cmd = c with
    | none => d
    | some o =>
      if d.takesDone c o then
        let d := { d with eng := { d.eng with owedDone := d.eng.owedDone.erase o } }
        Dev.drainOwed (((d.writeCompletion c o).land o.cmd).settle) c n
      else d

/-- Follow-ups that waited while mastering was stopped go first, each counted in PREVIEW_LATE (R803, R435). -/
def Dev.drainLate (d : Dev) (r : Nat) : Nat → Dev
  | 0 => d
  | n + 1 =>
    let g := d.ring r
    match g.late with
    | [] => d
    | b :: t =>
      if d.masters (fnOfOwner (d.ringOwner r)) && !d.setWaits then
        let d := (d.setRing r { g with late := t, owed := g.owed - 1 }).writeRec r b
        Dev.drainLate { d with trk := { d.trk with previewLate := sat32 (d.trk.previewLate + 1) } } r n
      else d

/-- Everything that waits for ring `r` is posted as far as it has room, in order: late follow-ups, completions and
held records; for ring 2 the error queue (R803, R840, R848, R879, R1102). -/
def Dev.serveFilled (d : Dev) (r : Nat) : Dev :=
  let d := d.drainLate r (d.ring r).late.length
  let d := d.drainOwed r d.eng.owedDone.length
  let d := d.drainHeld r (d.ring r).held.length
  if r = 2 then d.drainErrors d.err.queue.length else d

/-- The rings and the error queue post what waits for them, as far as they can. -/
def Dev.serveAll (d : Dev) : Dev :=
  let d := d.each d.ringsThatWait fun d r => d.serveFilled r
  d.drainErrors d.err.queue.length

/-- MSI-X messages that waited, of functions that may send them now (R780, R801). -/
def Dev.sendPending (d : Dev) : Dev :=
  d.each d.host.fns.cells fun d p => d.each (List.range 4) fun d v => if ((d.fn p.1).win.get v {}).pending then d.sendMsix p.1 v else d

/-- Mastering of some function has changed: where it is allowed, what waits is posted (R803). -/
def Dev.masteringChanged (d : Dev) : Dev :=
  let d := d.sendPending
  if !d.serving then d else d.serveAll

/-- The preview set at hand is posted, or none comes: what waits behind it follows, in order (R433). -/
def Dev.afterSet (d : Dev) : Dev :=
  if d.eng.setOpen.isNone || d.setWaits then d
  else
    let l := d.eng.behind
    let d := { d with eng := { d.eng with setOpen := none, behind := [] } }
    let d := d.each l fun d b => match b with | .record r b => d.postNow r b | .completion o => d.finishNow o
    let d := d.settle
    if d.serving then d.serveAll else d

/-! ### Commands: the check order (R891, Table 18.3) -/

/-- The STATE_MISMATCH record of a stale expected epoch (R341, Table 19.14). -/
def Dev.mismatchRec (d : Dev) (x : Desc) (opcode entry state : Nat) : Dev × RecBody :=
  d.number
    { ty := 0x71, tenant := d.issuer x.ref, epoch := d.epoch entry, time := d.now,
      pay := [⟨0, 1, entry⟩, ⟨1, 1, d.epoch entry⟩, ⟨2, 1, x.expEpoch⟩, ⟨3, 1, state⟩, ⟨4, 2, opcode⟩, ⟨8, 4, x.tag⟩] }

/-- A command completes with STATE_MISMATCH for its expected epoch, its record before its completion (R341, R842). -/
def Dev.doneMismatch (d : Dev) (x : Desc) (opcode entry state : Nat) : Dev :=
  let (d, b) := d.mismatchRec x opcode entry state
  (d.finish ⟨x.ref, stMismatch, 0, false, some b⟩).settle

/-- What an opcode's row of Table 18.5 says for the common checks: who may issue it, its feature, whether TENANT names
an account, the entry whose epoch is judged. -/
structure OpRow where
  opcode : Nat
  tenantMay : Bool := false
  feature : Option Nat := none
  /-- TENANT names an account (R887); otherwise it must be 0xFF. -/
  account : Bool := false
  /-- TENANT may name a tenant though the opcode addresses no account (BUF_REASSIGN, R903). -/
  anyTenant : Bool := false
  /-- The state book entry judged, as Table 18.5 names it; for an account opcode it is the account's. -/
  entry : Option Nat := none
  /-- Excluded with HOSTMODE low (R896). -/
  hostOnly : Bool := false
  deriving DecidableEq, Repr

/-- The account a TENANT byte names: 0–63, or the feeder for 0xFF (R887). -/
def accountOf (tenant : Nat) : Nat := if tenant = 0xFF then 64 else tenant

/-- The state book entry that a descriptor names in Table 18.5, by its opcode, TENANT and bytes 24–31. -/
def entryOf (opcode tenant args : Nat) : Option Nat :=
  let b := fun i => args / 256 ^ i % 256
  match opcode with
  | 0x0010 | 0x0011 | 0x0012 | 0x0013 | 0x0015 => some 0x47
  | 0x0030 | 0x0031 | 0x0032 | 0x0033 | 0x0050 | 0x0051 | 0x0062 | 0x0063 => some (accountOf tenant)
  | 0x0060 | 0x0061 => some 0x43
  | 0x0070 | 0x0071 | 0x0072 => some 0x46
  | 0x0081 => if b 0 = 0x08 then some 0x47 else if b 0 = 0x09 then some 0x44 else none
  | 0x0090 | 0x0091 => some 0x42
  | 0x00B0 | 0x00B1 | 0x00B2 => some 0x44
  | 0x00E0 => if b 0 = 1 || b 0 = 2 then some (b 2) else none
  | 0x00E1 => if b 0 = 0x10 || b 0 = 0x11 then some 0x41 else none
  | 0x00F0 => some 0x45
  | _ => none

/-- The opcodes that write the config store (R585). -/
def storeOpcodes : List Nat := [0x0030, 0x0040, 0x0060, 0x0070, 0x0081, 0x0090, 0x00F0]

/-- A descriptor as it is taken in flight from ring `r`. -/
def RawDesc.flight (x : RawDesc) (no r : Nat) : Flight :=
  { no := no, ring := r, tag := x.tag, opcode := x.opcode, entry := entryOf x.opcode x.tenant x.args
    store := storeOpcodes.contains x.opcode, begun := !opcodes.contains x.opcode }

/-- The flight of a command that has not begun; a command that has none is taken as fetched last. -/
def Dev.flightOf (d : Dev) (x : Desc) : Option Flight :=
  d.eng.flights.find? fun f => f.ring = x.ref.ring && f.tag = x.tag && !f.begun

/-- The place of a command in the order of fetching. -/
def Dev.fetchPlace (d : Dev) (x : Desc) : Nat := match d.flightOf x with | some f => f.no | none => d.eng.fetchNo

/-- Two descriptors name one entry of Table 18.5, or both write the config store (R899). -/
def Flight.conflicts (f g : Flight) : Bool := (f.entry.isSome && f.entry = g.entry) || (f.store && g.store)

/-- A command's turn has come: the commands of its ring fetched before it have begun, and of other rings those that name its entry or
write the config store as it does; no FENCE of its ring fetched before it waits (R899, R900, R917). -/
def Dev.inTurn (d : Dev) (x : Desc) : Bool :=
  let no := d.fetchPlace x
  (d.eng.flights.all fun y => no ≤ y.no || y.begun || (y.ring ≠ x.ref.ring && !((d.flightOf x).any fun f => f.conflicts y))) &&
    d.eng.fences.all fun f => f.ring ≠ x.ref.ring || no ≤ f.no

/-- The command is being executed at all: records and completions are served, its turn has come (R899), it is not held back by an
earlier command of its ring where it carries FLAGS.FENCE (R900), and not abandoned by Backstop (R53, R910). Through the tunnel it
is the oldest complete command, none other runs, and the tunnel's queue holds fewer than 124 messages (R1078, R1092); in the boot image,
the oldest not yet completed (R864). -/
def Dev.executes (d : Dev) (x : Desc) : Bool :=
  d.serving &&
    (match x.src with
      | .tunnel tid => d.lnet.tunRunning.isNone && d.lnet.tunQueue.length < 124 &&
          (match d.lnet.tunReady with | j :: _ => j.tid = tid | [] => false)
      | .boot => (match d.eng.flights.find? fun f => f.ring = 0 with | some f => f.tag = x.tag | none => true)
      | _ => true) &&
    d.inTurn x && (!x.fence || d.eng.flights.all fun y => y.ring ≠ x.ref.ring || d.fetchPlace x ≤ y.no)

/-- A command of the tunnel begins: it leaves the complete messages and runs (R1078). -/
def Dev.tunBegin (d : Dev) (x : Desc) : Dev :=
  match x.src with
  | .tunnel tid => { d with lnet := { d.lnet with tunRunning := some tid, tunReady := d.lnet.tunReady.drop 1 } }
  | _ => d

/-- A command has begun execution (R899). -/
def Dev.markBegun (d : Dev) (x : Desc) : Dev :=
  { d with eng := { d.eng with flights := beginFlight x.ref.ring x.tag d.eng.flights } }

/-- The device as a command that executes finds it: the fast domain is awake, and the command has begun. -/
def Dev.begun (d : Dev) (x : Desc) : Dev := (d.wake.tunBegin x).markBegun x

/-- Check 1: the opcode may be issued on the command's ring, with its feature accepted and HOSTMODE as it needs. -/
def Dev.opcodeOk (d : Dev) (x : Desc) (row : OpRow) : Bool :=
  (d.issuer x.ref = 0xFF || row.tenantMay) && row.feature.all d.has && (d.pwr.hostmode || !row.hostOnly)

/-- Check 2: TENANT is legal. On a tenant's ring it names that tenant for every opcode (R345); elsewhere R887 holds. -/
def Dev.tenantOk (d : Dev) (x : Desc) (row : OpRow) : Bool :=
  if d.issuer x.ref ≠ 0xFF then x.tenant = d.issuer x.ref
  else if row.account || row.anyTenant then x.tenant < 64 || x.tenant = 0xFF
  else x.tenant = 0xFF

/-- The state book entry whose epoch a command is judged against, if any (Table 18.5). -/
def OpRow.judged (row : OpRow) (x : Desc) : Option Nat := if row.account then some (accountOf x.tenant) else row.entry

/-- Check 3: the expected epoch is 0 or the entry's epoch (R341). -/
def Dev.epochOk (d : Dev) (x : Desc) (entry : Nat) : Bool := x.expEpoch = 0 || x.expEpoch = d.epoch entry

/-- A command executes and passes checks 1 to 3 of Table 18.3. -/
def Dev.accepts (d : Dev) (x : Desc) (row : OpRow) : Bool :=
  d.executes x && (d.begun x).opcodeOk x row && (d.begun x).tenantOk x row && (row.judged x).all ((d.begun x).epochOk x)

/-- Checks 1 to 3 of Table 18.3, then the opcode's own part `k` for the account addressed. A command that may not
execute leaves the state as it is. -/
def Dev.command (d : Dev) (x : Desc) (row : OpRow) (code : Dev → Nat → Nat) (k : Dev → Nat → Dev) : Dev :=
  if !d.executes x then d
  else
    let d := d.begun x
    if !d.opcodeOk x row then d.done x.ref stBadOpcode
    else if !d.tenantOk x row then d.done x.ref stBadTenant
    else match (row.judged x).filter fun n => !d.epochOk x n with
      | some n => d.doneMismatch x row.opcode n (code d n)
      | none => k d (accountOf x.tenant)

/-- The input of a command as read from host memory: `k` on its bytes, or DMA_FAULT (check 5, R894, R921). A command that finds no
staging block for its data executes when it has waited 10 ms for one, and completes with NO_BUFFER (Table 18.4; DESIGN CHOICE,
assumption 146). -/
def Dev.withInput (d : Dev) (x : Desc) (k : List Byte → Dev) : Dev :=
  if d.poolFree = 0 then d.done x.ref stNoBuffer
  else match x.input with
  | .ok bs => k bs
  | .failed => d.done x.ref stDmaFault

/-- A command's output: bytes at ADDR, no more than LEN (R890, R911); through the tunnel, a KIND 1 message. -/
def Dev.output (d : Dev) (x : Desc) (bytes : List Byte) : Dev :=
  match x.src with
  | .tunnel tid => d.tunnelPush 1 (some tid) bytes
  | _ => d.emit (.hostWrite x.addr bytes)

end Sys2Proof.Machine
end

