-- ==== Sys2Proof/Machine/Store.lean ====
section
/-!
DEFINITION. Machine/Store.lean: the shared operations of the config store (slots, rings of sectors, group writes) and
of tamper recording (chapters 12 and 15).
-/
namespace Sys2Proof.Machine

/-! ### Groups (Table 12.9) -/

/-- Bytes of a group's slot; a KEYS record takes 64. -/
def slotSize (g : Nat) : Nat :=
  match g with
  | 0x01 => 4096 | 0x03 => 8192 | 0x04 => 4096 | 0x05 => 64 | 0x0A => 16384 | 0x0B => 64 | _ => 256

/-- The sectors Table 12.9 allocates to a group. -/
def tableSectors (g : Nat) : List Nat :=
  match g with
  | 0x01 => [0, 1] | 0x02 => [2, 3] | 0x03 => span 4 6 | 0x04 => span 10 4 | 0x05 => [14, 15] | 0x06 => [16, 17]
  | 0x07 => [18, 19] | 0x08 => [20, 21] | 0x09 => [22, 23] | 0x0A => span 24 12 | 0x0B => span 36 8 | _ => []

/-- The sectors of a group's ring now, in ring order (R578, R597). -/
def Dev.ringSectors (d : Dev) (g : Nat) : List Nat := d.store.rings.get g (tableSectors g)

/-- Slots in one sector, and sectors in one slot. -/
def perSector (g : Nat) : Nat := max 1 (4096 / slotSize g)
def sectorsPerSlot (g : Nat) : Nat := max 1 (slotSize g / 4096)

/-- Slots of a group, newest first. -/
def Dev.slotsOf (d : Dev) (g : Nat) : List Slot := d.store.slots.get g []

/-- A slot meets R579. -/
def Slot.valid (s : Slot) : Bool := s.done && !s.bad && !s.hdrBad

/-- The newest valid slot of a group. -/
def Dev.newestSlot (d : Dev) (g : Nat) : Option Slot := (d.slotsOf g).find? Slot.valid

/-- SSEQ and PCRC of the slot in use of a group; 0 and 0 for a group at its defaults (R592). -/
def Dev.slotMark (d : Dev) (g : Nat) : Nat × Nat :=
  match d.newestSlot g with
  | some s => (s.sseq, crc32 s.payload)
  | none => (0, 0)

/-- The size of one keyed block of a group's payload, and where block `key` lies. -/
def keySpan (g key : Nat) : Nat × Nat :=
  match g with
  | 0x02 => if key = 0 then (0, 32) else (32 + 40 * (key - 1), 40)
  | 0x03 => (32 * key, 32)
  | 0x04 => (32 * key, 32)
  | 0x06 => (16 * key, 16)
  | _ => (0, slotSize g - 32)

/-- A group's contents in effect as its payload. -/
def Dev.groupNow (d : Dev) (g : Nat) : List Byte :=
  match g with
  | 0x01 => Config.factoryBlock
  | 0x02 => d.cal.cabinet ++ d.voltBlk 0 ++ d.voltBlk 1
  | 0x03 => (List.range 196).flatMap fun c => d.chanBlk c
  | 0x04 => accounts.flatMap fun a => (layout 32 [⟨0, 1, a⟩]).take 1 ++ (d.acct a).block.drop 1
  | 0x05 => d.pq.group
  | 0x06 => (List.range 8).flatMap fun o => (layout 16 [⟨0, 1, o⟩]).take 1 ++ (d.pulse o).block.drop 1
  | 0x07 => d.aux.seq.getD []
  | 0x08 => d.host.groupBytes
  | 0x09 => d.lphy.params
  | 0x0A => d.store.package.getD []
  | _ => []

/-- What a write stores over a payload: one block of it, or the whole payload for a group of one block. -/
def overlay (g : Nat) (payload : List Byte) (w : GroupWrite) : List Byte :=
  if g = 0x02 || g = 0x03 || g = 0x04 || g = 0x06 then pasteAt payload (keySpan g w.key).1 w.block else w.block

/-- The PULSES payload holds stored assignments only: the newest slot's, not those in effect without STORE. -/
def Dev.payloadBase (d : Dev) (g : Nat) : List Byte :=
  if g = 0x06 then
    match d.newestSlot g with
    | some s => s.payload
    | none => (List.range 8).flatMap fun o => layout 16 [⟨0, 1, o⟩, ⟨1, 1, 0xFF⟩]
  else d.groupNow g

/-- The payload a group write forms when it begins to execute (R581). -/
def Dev.formPayload (d : Dev) (w : GroupWrite) : List Byte :=
  overlay w.group ((d.store.due.filter fun v => v.group = w.group).foldl (overlay w.group) (d.payloadBase w.group)) w

/-! ### Group writes (R581–R588) -/

/-- The commands' changes accepted and not yet in effect, oldest first: due, being written, waiting. -/
def Dev.changes (d : Dev) : List GroupWrite :=
  d.store.due ++ ((d.store.executing.filter fun x => !x.refresh).map Writing.w).toList ++ d.store.queue

/-- Changes of a block that are accepted, being written or due: at most one is (R334, R523, R533). -/
def Dev.groupPending (d : Dev) (g key : Nat) : Bool := d.changes.any fun w => w.group = g && w.key = key

/-- The next group write begins: a refresh before a command's (R585); none in Backstop or outside RUN and DOZE
(R588). -/
def Dev.startWrite (d : Dev) : Dev :=
  if d.store.executing.isSome || d.pwr.backstop || !d.awake || !d.pwr.metClock then d
  else match d.store.refresh, d.store.queue with
    | g :: t, _ =>
      let payload := match (d.slotsOf (g % 256)).find? fun s => s.done with
        | some s => s.payload
        | none => d.groupNow (g % 256)
      { d with store := { d.store with
        refresh := t
        executing := some { w := ⟨g % 256, g / 256, [], none, 0, false, false, 0⟩, payload := payload, refresh := true } } }
    | [], w :: t => { d with store := { d.store with queue := t, executing := some { w := w, payload := d.formPayload w } } }
    | [], [] => d

/-- Group writes from commands held now, the one executing included (R585). -/
def Dev.writesHeld (d : Dev) : Nat :=
  d.store.queue.length + (match d.store.executing with | some x => b2n (!x.refresh) | none => 0)

/-- A command's group write is queued, or the command completes with BUSY as the ninth (R585). -/
def Dev.queueGroup (d : Dev) (c : CmdRef) (w : GroupWrite) : Dev :=
  if d.writesHeld ≥ 8 then d.done c stBusy
  else ({ d with store := { d.store with queue := d.store.queue ++ [w] } } : Dev).startWrite

/-- A group write of one block, with no result. -/
def Dev.queueWrite (d : Dev) (c : CmdRef) (g key : Nat) (block : List Byte) : Dev :=
  d.queueGroup c { group := g, key := key, block := block, cmd := some c }

/-- A refresh of a group is queued, at most one per group (R585, R596). -/
def Dev.queueRefresh (d : Dev) (g : Nat) : Dev :=
  if d.store.refresh.any fun x => x % 256 = g % 256 then d
  else ({ d with store := { d.store with refresh := d.store.refresh ++ [g] } } : Dev).startWrite

/-- The element after `x` of a ring of sectors; the first where `x` is not in it. -/
def nextIn (x : Nat) : List Nat → Nat
  | [] => 0
  | l => l.getD ((l.idxOf x + 1) % l.length) 0

/-- The sectors of the slot after the one that begins in sector `s`. -/
def slotSectors (ring : List Nat) (g s : Nat) : List Nat :=
  (List.range (sectorsPerSlot g)).map fun i => ring.getD ((ring.idxOf s + i) % ring.length) 0

/-- The first sector of the slot `n` slots' sectors after sector `s`. -/
def slotAfter (ring : List Nat) (g s : Nat) : Nat :=
  ring.getD ((ring.idxOf s + sectorsPerSlot g) % ring.length) 0

/-- A place of a sector that reads fully erased (R581). -/
def Dev.placeFree (d : Dev) (g s p : Nat) : Bool :=
  !d.store.dirty.contains s && (d.slotsOf g).all fun x => x.sector ≠ s || x.place ≠ p

/-- A sector that reads fully erased. -/
def Dev.readsErased (d : Dev) (g s : Nat) : Bool :=
  !d.store.dirty.contains s && (d.slotsOf g).all fun x => !(slotSectors (d.ringSectors g) g x.sector).contains s

/-- Where a group's next slot goes: the next erased place after the newest valid slot in its sector, else the next
sectors of the ring (R581). -/
def Dev.nextPlace (d : Dev) (g : Nat) : Nat × Nat :=
  let ring := d.ringSectors g
  match d.newestSlot g with
  | none =>
    let s := ring.getD 0 0
    match (List.range (perSector g)).find? fun p => d.placeFree g s p with
    | some p => (s, p)
    | none => (slotAfter ring g s, 0)
  | some x =>
    match (span (x.place + 1) (perSector g - 1 - x.place)).find? fun p => d.placeFree g x.sector p with
    | some p => (x.sector, p)
    | none => (slotAfter ring g x.sector, 0)

/-- These sectors are erased: what stood in them is gone, and they read erased. -/
def Dev.dropSectors (d : Dev) (g : Nat) (ss : List Nat) : Dev :=
  { d with store := { d.store with
    slots := d.store.slots.set g ((d.slotsOf g).filter fun x =>
      !((slotSectors (d.ringSectors g) g x.sector).any fun s => ss.contains s))
    dirty := d.store.dirty.filter fun s => !ss.contains s } }

/-- A sector due for erase whose weak count has reached 3 is retired: the lowest spare takes its place in the ring, or
the ring goes on without it and CONFIG_SPARES_EXHAUSTED is posted once (R597). -/
def Dev.retireSector (d : Dev) (g s : Nat) : Dev :=
  if d.led.work.device.weak.get s 0 < 3 || d.store.retired.contains s then d
  else
    let ring := d.ringSectors g
    if d.store.sparesUsed < 20 then
      { d with store := { d.store with
        retired := d.store.retired ++ [s], sparesUsed := d.store.sparesUsed + 1
        rings := d.store.rings.set g (ring.map fun x => if x = s then 44 + d.store.sparesUsed else x) } }
    else
      let d := { d with store := { d.store with
        retired := d.store.retired ++ [s], rings := d.store.rings.set g (ring.filter fun x => x ≠ s) } }
      if d.store.sparesPosted then d
      else ({ d with store := { d.store with sparesPosted := true } } : Dev).raise
        { code := 0x0205, cls := 1, region := groupRegion g, detail := [⟨0, 1, g⟩, ⟨1, 1, s⟩] }

/-- An erase of sectors begins. Their contents are undefined, and the sectors do not read erased, until it completes; a
sector that reads erased already needs none (R582, R588). -/
def Dev.beginErase (d : Dev) (g : Nat) (ss : List Nat) : Dev :=
  let ss := ss.filter fun s => !d.readsErased g s
  let ss := ss.filter fun s => !d.store.erasing.contains s
  let d := { d with store := { d.store with dirty := d.store.dirty ++ ss, erasing := d.store.erasing ++ ss } }
  d.each ss fun d s => d.retireSector g s

/-- The write itself erases the sectors of its slot that do not read erased; one due for retirement leaves the ring there
(R581, R597). -/
def Dev.makeRoom (d : Dev) (g : Nat) : Dev :=
  let (s, p) := d.nextPlace g
  if p ≠ 0 then d
  else
    let d := d.each ((slotSectors (d.ringSectors g) g s).filter fun x => !d.readsErased g x) fun d x => d.retireSector g x
    d.dropSectors g (slotSectors (d.ringSectors g) g (d.nextPlace g).1)

/-- A slot is programmed at the group's next place. When it fills its sector, the erase of the sectors of the next slot begins
(R581, R582), but for Backstop, in which no erase begins (R44, R588). -/
def Dev.programSlot (d : Dev) (g : Nat) (payload : List Byte) (done : Bool) : Dev :=
  let d := d.makeRoom g
  let (s, p) := d.nextPlace g
  let ring := d.ringSectors g
  let sseq := ((d.slotsOf g).filter fun x => x.done && !x.hdrBad).foldl (fun m x => max m x.sseq) 0 + 1
  let d := { d with store := { d.store with
    slots := d.store.slots.set g (⟨s, p, sseq, payload, done, false, false⟩ :: d.slotsOf g) } }
  if done && p + 1 ≥ perSector g && ring.length > sectorsPerSlot g && !d.pwr.backstop then
    d.beginErase g (slotSectors ring g (slotAfter ring g s))
  else d

/-! ### The KEYS log (R580, R583) -/

/-- The highest SSEQ of the KEYS log. -/
def Dev.keysTop (d : Dev) : Nat := d.store.keys.foldl (fun m k => max m k.sseq) 0

/-- The place after the newest record of the log. -/
def Dev.keysNext (d : Dev) : Nat × Nat :=
  let ring := d.ringSectors 0x0B
  match d.store.keys.find? fun k => k.sseq = d.keysTop with
  | none => (ring.getD 0 0, 0)
  | some k => if k.place < 63 then (k.sector, k.place + 1) else (nextIn k.sector ring, 0)

/-- One record is written at the log's current position; a sector that does not read erased is erased first (R581). -/
def Dev.putKey (d : Dev) (owner slot gen : Nat) (key : List Byte) : Dev :=
  let (s, p) := d.keysNext
  let kept := if p = 0 then d.store.keys.filter fun k => k.sector ≠ s else d.store.keys
  { d with store := { d.store with
    keys := kept ++ [⟨owner, slot, s, p, d.keysTop + 1, gen, key, true, false⟩]
    dirty := if p = 0 then d.store.dirty.filter fun x => x ≠ s else d.store.dirty } }

/-- A record is in force. -/
def Dev.inForce (d : Dev) (k : KeyRec) : Bool :=
  match d.keyRec k.owner k.slot with | some x => x.sseq = k.sseq | none => false

/-- A KEYS record is written; when it fills a sector, the records in force of the oldest sector are copied forward and
the erase of that sector begins (R583), but for Backstop, in which no erase begins (R44, R588). -/
def Dev.writeKey (d : Dev) (owner slot gen : Nat) (key : List Byte) : Dev :=
  let (s, p) := d.keysNext
  let d := d.putKey owner slot gen key
  if p ≠ 63 then d
  else
    let ring := d.ringSectors 0x0B
    let oldest := (List.range ring.length).map (fun i => ring.getD ((ring.idxOf s + 1 + i) % ring.length) 0) |>.find?
      fun x => d.store.keys.any fun k => k.sector = x
    match oldest with
    | some o =>
      if o = s then d
      else
        let keep := d.store.keys.filter fun k => k.sector = o && d.inForce k
        let d := d.each keep fun d k => d.putKey k.owner k.slot k.gen k.key
        if d.pwr.backstop then d
        else
          let d := d.retireSector 0x0B o
          { d with store := { d.store with
            keys := d.store.keys.filter fun k => k.sector ≠ o
            dirty := d.store.dirty ++ [o], erasing := d.store.erasing ++ [o] } }
    | none => d

/-! ### Tamper recording (R740–R745) -/

/-- The slot of a tamper kind and index (Table 12.7); REVERSE_CURRENT takes 3·account + phase as its index. -/
def tamperSlot (kind index : Nat) : Nat :=
  match kind with
  | 0x01 => index | 0x02 => 4 + index | 0x03 => 8 + index | 0x04 => 12 + index | 0x05 => 16 + index
  | 0x06 => 24 + index | 0x07 => 26 + index | 0x08 => 221 + index | 0x09 => 225 + index | 0x0A => 227 + index
  | 0x0B => 247 | 0x0C => 248 | 0x0D => 249 + index | _ => 252 + index

/-- Every tamper kind and index, in the order of their slots (Table 12.7). -/
def tamperKinds : List (Nat × Nat) :=
  [(0x01, 4), (0x02, 4), (0x03, 4), (0x04, 4), (0x05, 8), (0x06, 2), (0x07, 195), (0x08, 4), (0x09, 2), (0x0A, 20),
    (0x0B, 1), (0x0C, 1), (0x0D, 3), (0x0E, 4)].flatMap fun p => (List.range p.2).map fun i => (p.1, i)

/-- The fields of a TAMPER START or CATCH_UP (Table 19.11). -/
def tamperFields (event kind index detect : Nat) (t : TSlot) : List Fld :=
  let rev := kind = 0x07
  [⟨0, 1, event⟩, ⟨1, 1, kind⟩, ⟨2, 1, if rev then index % 3 else index⟩, ⟨3, 1, detect⟩,
    ⟨4, 1, if rev then index / 3 else 0xFF⟩, ⟨8, 4, t.count⟩, ⟨12, 8, t.first⟩, ⟨20, 8, t.last⟩]

/-- TENANT and EPOCH of a TAMPER record (R744, Table 19.5). -/
def Dev.tamperWho (d : Dev) (kind index : Nat) : Nat × Nat :=
  if kind = 0x07 && index / 3 < 64 then (index / 3, d.epoch (index / 3)) else (0xFF, 0)

/-- The working slot takes `n` starts, first and last as given (R740). -/
def TSlot.take (t : TSlot) (n : Nat) (first last : DevTime) : TSlot :=
  { t with count := sat32 (t.count + n), first := if t.count = 0 then first else t.first, last := last }

def Dev.setTamper (d : Dev) (k : Nat) (t : TSlot) : Dev := d.setWork { d.led.work with tamper := d.led.work.tamper.set k t }

/-- A START record of a slot, posted once the commit that writes it has completed; it announces the slot's COUNT
(R745, R946). -/
def Dev.announce (d : Dev) (kind index detect : Nat) (start : DevTime) : Dev :=
  if !d.serving then d
  else
    let k := tamperSlot kind index
    let t := d.led.work.tamper.get k {}
    let (who, ep) := d.tamperWho kind index
    let d := { d with tam := { d.tam with announced := d.tam.announced.set k t.count } }
    d.postAfterCommit { ty := 0x30, tenant := who, epoch := ep, time := start, pay := tamperFields 1 kind index detect t }

/-- A start of a kind from a unit of Table 15.5 (R741). -/
def Dev.tamper (d : Dev) (kind index : Nat) (start : DevTime) : Dev :=
  let k := tamperSlot kind index
  (d.setTamper k ((d.led.work.tamper.get k {}).take 1 start start)).announce kind index 0 start

/-- A start found by the always-on domain is written into its log entry (R737); its START record waits for the commit
that takes the entry in. -/
def Dev.logStart (d : Dev) (kind index detect : Nat) (start : DevTime) : Dev :=
  let hit := fun (e : TamEntry) => e.kind = kind && e.index = index && !e.taken
  let l := d.tam.log
  let l := if l.any hit then
      l.map fun e => if hit e then { e with
        count := min 65535 (e.count + 1), first := if e.count = 0 then start else e.first, last := start } else e
    else l ++ [⟨kind, index, 1, false, 0, start, start⟩]
  { d with tam := { d.tam with log := l, starts := d.tam.starts ++ [(kind, index, detect, start)] } }

end Sys2Proof.Machine
end

