-- ==== Sys2Proof/Machine/Clock.lean ====
section
/-!
DEFINITION. Machine/Clock.lean: the passing of time (chapter 2).
-/
namespace Sys2Proof.Machine

/-! ### Time passes (R28, R89–R92, R95, R101, R133, R595, R698) -/

/-- What one RTC tick of a slew absorbs: 500 ppm of 2^15 units, with its fraction carried in thousandths (R95). -/
def Power.slewStep (p : Power) : Int :=
  let n : Int := 16 + ((p.slewFrac + 384) / 1000 : Nat)
  if 0 ≤ p.slew then min n p.slew else -(min n (-p.slew))

/-- One RTC tick: device time and the model's time base advance by 2^15 units, device time by what a slew adds too. The first
tick after the metrology clock has stopped brings device time to a whole tick, upwards, so that it never decreases (R91, R92). -/
def Dev.rtcTick (d : Dev) : Dev :=
  let p := d.pwr
  let a := p.slewStep
  let rtc := ((p.rtc : Int) + 32768 + a).toNat
  let stops := !d.metRuns
  let rtc := if stops && !p.coarse then (rtc + 32767) / 32768 * 32768 else rtc
  let onRc := stops && p.rtcSource ≠ .crystal
  let rc := if onRc then p.rcTicks + 1 else 0
  { d with pwr := { p with
    rtc := rtc % 2 ^ 64, up := p.up + 32768, mcount := 0, late := false, coarse := stops
    slew := p.slew - a, slewFrac := if p.slew = a then 0 else (p.slewFrac + 384) % 1000
    rcTicks := rc, rcLong := p.rcLong || 327680 < rc
    runTicks := if p.pstate = .run then p.runTicks + 1 else p.runTicks
    lostTicks := if !p.metClock && d.awake then p.lostTicks + 1 else p.lostTicks } }

/-- An RTC tick is due at the metrology clock that comes: the 750th since the last one on the fallback, and on the crystal,
which runs by itself, the 749th, the 750th or the 751st, up to which the count holds at 749 (R77, R90; assumption 113). -/
def Dev.rtcDue (d : Dev) : Dev × Bool :=
  let p := d.pwr
  if p.mcount < 748 then (d, false)
  else if p.rtcSource ≠ .crystal then (d, p.mcount ≥ 749)
  else if p.late then (d, true)
  else
    let (d, n) := d.draw
    (d, n % 3 = p.mcount - 748)

/-- The block's time advances while no command is at hand: by one metrology clock while the metrology domain runs, and by one RTC
tick otherwise; in OFF nothing runs. -/
def Dev.tick (d : Dev) : Dev :=
  if d.pwr.pstate = .off then d
  else if !d.metRuns then d.rtcTick
  else
    let (d, due) := d.rtcDue
    let d := { d with pwr := { d.pwr with smpClocks := d.pwr.smpClocks + 1 } }
    if due then d.rtcTick
    else if d.pwr.mcount < 749 then { d with pwr := { d.pwr with mcount := d.pwr.mcount + 1 } }
    else { d with pwr := { d.pwr with late := true } }

end Sys2Proof.Machine
end

