-- ==== Sys2Proof/Machine/Pulses.lean ====
section
/-!
DEFINITION. Machine/Pulses.lean: the eight pulse outputs: accumulation, shape, saturation, shorts and assignment
(chapter 11).
-/
namespace Sys2Proof.Machine

/-- Output `o` changed by `f`. -/
def Dev.updPulse (d : Dev) (o : Nat) (f : Pulse → Pulse) : Dev := { d with pulses := d.pulses.set o (f (d.pulse o)) }

/-- ACC and the pending count of output `o`, as working values of the PULSE block (R539). -/
def Dev.pulseAcc (d : Dev) (o : Nat) : Int := d.led.work.pulse.acc.get o 0
def Dev.pulsePending (d : Dev) (o : Nat) : Nat := d.led.work.pulse.pending.get o 0

def Dev.setPulseBlk (d : Dev) (f : PulseBlk → PulseBlk) : Dev := d.setWork { d.led.work with pulse := f d.led.work.pulse }

def Dev.setPending (d : Dev) (o n : Nat) : Dev := d.setPulseBlk fun p => { p with pending := p.pending.set o n }

/-- An EVENT_PQ record of the pulse stage (Tables 11.9, 19.8). -/
def Dev.postPulse (d : Dev) (event : Nat) (fs : List Fld) (len : Nat := 48) : Dev :=
  d.post { ty := 0x10, epoch := d.epoch 0x45, time := d.now, len := len, pay := ⟨0, 1, event⟩ :: fs }

/-- One due pulse has to wait: it joins the pending count, or PULSE_OVERFLOW beyond its top (R542), and the output is
saturated from the first time (R543). -/
def Dev.pulseWait (d : Dev) (o : Nat) : Dev :=
  let n := d.pulsePending o
  let d := if n ≥ 2 ^ 32 - 1 then d.updPulse o fun p => { p with overflow := sat32 (p.overflow + 1) }
    else d.setPending o (n + 1)
  let d := d.updPulse o fun p => { p with zeroSince := none }
  let p := d.pulse o
  if p.saturated || p.shorted then d
  else
    let d := d.updPulse o fun p => { p with saturated := true, satSince := d.up, satEmitted := 0 }
    d.postPulse 0x70 [⟨2, 1, o⟩, ⟨3, 1, plsAccount p.block⟩, ⟨4, 1, plsQuantity p.block⟩, ⟨5, 1, b2n (plsCal p.block)⟩,
      ⟨8, 4, plsConst p.block⟩]

/-- The least distance between edges in calibration mode, 12.5 µs (R541). -/
def calGap : Nat := 2 ^ 30 * 125 / 10000000

/-- The pulse in progress has ended its width by `t`: the active or inactive W, or the least edge distance (R540,
R541, R553). -/
def Pulse.ended (p : Pulse) (t : Nat) : Bool :=
  if p.calPulse then p.since + calGap ≤ t else p.since + ms p.width ≤ t

/-- The leading edge of a pulse at time `t`, counted as emitted (R542). -/
def Dev.pulseStart (d : Dev) (o t : Nat) : Dev :=
  let p := d.pulse o
  (d.updPulse o fun p => { p with
    phase := .active, level := true, since := t, width := plsWidth p.block, calPulse := plsCal p.block
    emitted := wrap 32 (p.emitted + 1), satEmitted := p.satEmitted + 1 }).emit (.pulse o true (plsLow p.block))

/-- The trailing edge at time `t`. -/
def Dev.pulseStop (d : Dev) (o t : Nat) : Dev :=
  let p := d.pulse o
  (d.updPulse o fun p => { p with phase := .rest, level := false, since := t }).emit (.pulse o false (plsLow p.block))

/-- A pulse, or in calibration mode a half-pulse, falls due at time `t` (R540, R541, R544). In calibration mode a rising edge comes at
a whole pulse: the half of a pulse whose rising edge was never shown has no edge to show. -/
def Dev.pulseDue (d : Dev) (o t : Nat) (whole : Bool) : Dev :=
  let p := d.pulse o
  if p.shorted || d.pulsePending o > 0 then d.pulseWait o
  else if plsCal p.block then
    if !whole && !p.level then d
    else if p.phase = .idle || p.ended t then (if p.level then d.pulseStop o t else d.pulseStart o t) else d.pulseWait o
  else if p.phase = .idle || (p.phase = .rest && p.ended t) then d.pulseStart o t
  else d.pulseWait o

/-- `n` due pulses, or half-pulses, spread evenly over the 62.5 µs that follow the sample (R538); the `i`-th falls where ACC, rising
from `a` by `g` in all, reaches its threshold. `whole` says of each whether it ends a whole pulse. -/
def Dev.pulseSpread (d : Dev) (o : Nat) (a g p : Int) (whole : Nat → Bool) : Nat → Nat → Dev
  | 0, _ => d
  | n + 1, i =>
    Dev.pulseSpread (d.pulseDue o (d.up + ((i * p - a) * 67109 / (if g = 0 then 1 else g)).toNat) (whole i)) o a g p whole n (i + 1)

/-- P = 10^6 × 2^32 (R536). -/
def pulseP : Int := 10 ^ 6 * 2 ^ 32

/-- A sample energy of `e` steps routed to the register output `o` is assigned to (R536, R537). -/
def Dev.pulseAdd (d : Dev) (o e : Nat) : Dev :=
  let b := (d.pulse o).block
  let a := d.pulseAcc o
  let g : Int := plsConst b * e
  let sum := a + g
  let d := d.setPulseBlk fun p => { p with acc := p.acc.set o (sum % pulseP) }
  if plsCal b then
    let half := pulseP / 2
    let done := a / half
    d.pulseSpread o (a - done * half) g half (fun i => (done + i) % 2 = 0) (sum / half - done).toNat 1
  else d.pulseSpread o a g pulseP (fun _ => true) (sum / pulseP).toNat 1

/-- Every output assigned to register `r` of account `a` receives what the register receives (R537). -/
def Dev.feedPulses (d : Dev) (a r e : Nat) : Dev :=
  d.each d.pulses.keys fun d o =>
    let b := (d.pulse o).block
    if plsAccount b = a && plsQuantity b = r then d.pulseAdd o e else d

/-- PULSE_WIDTH_END: a pulse's active or inactive width ends; a pending pulse or half starts when one is due
(R540, R541, R553). -/
def execPulseWidthEnd (o : Fin 8) (s : State) : Host.Outcome State Fault Refusal :=
  let d := s.dev
  let p := d.pulse o
  let n := d.pulsePending o
  if !d.metRuns || p.shorted || p.phase = .idle || !p.ended d.up then s.ok d
  else if plsCal p.block && p.calPulse then
    if n = 0 then
      s.ok (d.updPulse o fun p => { p with phase := if p.level then .active else .idle })
    else
      let d := d.setPending o (n - 1)
      let d := if n = 1 then d.updPulse o fun p => { p with zeroSince := some d.up } else d
      s.ok (if p.level then d.pulseStop o d.up else d.pulseStart o d.up)
  else match p.phase with
    | .active => s.ok (d.pulseStop o d.up)
    | _ =>
      if n = 0 then s.ok (d.updPulse o fun p => { p with phase := .idle })
      else
        let d := d.setPending o (n - 1)
        let d := if n = 1 then d.updPulse o fun p => { p with zeroSince := some d.up } else d
        s.ok (d.pulseStart o d.up)

/-- PULSE_SATURATED_END: the pending count has stayed at 0 for 1 s (R543). -/
def execPulseSaturatedEnd (o : Fin 8) (s : State) : Host.Outcome State Fault Refusal :=
  let d := s.dev
  let p := d.pulse o
  match p.zeroSince with
  | some t =>
    if d.metRuns && p.saturated && d.pulsePending o = 0 && t + second ≤ d.up then
      let d := d.updPulse o fun p => { p with saturated := false, zeroSince := none }
      s.ok (d.postPulse 0x71 [⟨2, 1, o⟩, ⟨4, 4, (d.up - p.satSince) * 1000 / 2 ^ 30⟩, ⟨8, 4, p.satEmitted⟩])
    else s.ok d
  | none => s.ok d

/-- PULSE_SHORT: the ball differs from the driven level, for so many 0.1 µs; after more than 50 µs the output goes to high impedance
(R544). Any difference found in a re-drive ends it. -/
def execPulseShort (o : Fin 8) (tenths : Nat) (s : State) : Host.Outcome State Fault Refusal :=
  let d := s.dev
  let p := d.pulse o
  if !d.metRuns || tenths = 0 then s.ok d
  else if p.shorted then
    s.ok (if p.redriving then (d.updPulse o fun p => { p with redriving := false }).emit (.pulseHighZ o) else d)
  else if tenths ≤ 500 then s.ok d
  else
    let d := d.updPulse o fun p => { p with shorted := true, redriving := false, shortAt := d.up, phase := .idle, level := false }
    s.ok ((d.emit (.pulseHighZ o)).postPulse 0x72 [⟨2, 1, o⟩])

/-- PULSE_SHORT_RETRY: every 100 ms a shorted output is re-driven for 1 ms (R544). -/
def execPulseShortRetry (o : Fin 8) (s : State) : Host.Outcome State Fault Refusal :=
  let d := s.dev
  let p := d.pulse o
  if d.metRuns && p.shorted && !p.redriving && p.shortAt + ms 100 ≤ d.up then
    s.ok ((d.updPulse o fun p => { p with redriving := true, shortAt := d.up }).emit (.pulse o false (plsLow p.block)))
  else s.ok d

/-- PULSE_SHORT_CLEAR: the re-drive found no difference in its 1 ms, and the output returns to service with its
pending pulses (R544). -/
def execPulseShortClear (o : Fin 8) (s : State) : Host.Outcome State Fault Refusal :=
  let d := s.dev
  let p := d.pulse o
  if d.metRuns && p.shorted && p.redriving && p.shortAt + ms 1 ≤ d.up then
    let d := d.updPulse o fun p => { p with shorted := false, redriving := false, phase := .rest, since := 0, width := 0, calPulse := false }
    s.ok (d.postPulse 0x73 [⟨2, 1, o⟩, ⟨4, 4, d.pulsePending o⟩])
  else s.ok d

/-- An assignment takes effect at a commit tick (R534): a change of account, quantity or constant clears ACC and the
pending count, whose whole pulses are counted in PULSE_DISCARDED. An output at rest takes
a new inactive level at once; a pulse in progress ends in it (R535, R553). -/
def Dev.applyPulse (d : Dev) (o : Nat) (b : List Byte) : Dev :=
  let p := d.pulse o
  let old := p.block
  let fresh := plsAccount old ≠ plsAccount b || plsQuantity old ≠ plsQuantity b || plsConst old ≠ plsConst b
  let whole := if plsCal old then d.pulsePending o / 2 else d.pulsePending o
  let d := d.updPulse o fun p => { p with block := b, pend := none }
  let d := if plsLow old ≠ plsLow b && p.phase ≠ .active && !p.shorted && !p.level then d.emit (.pulse o false (plsLow b)) else d
  let d := if fresh then
      let zero := if d.pulsePending o = 0 then p.zeroSince else some d.up
      let d := d.updPulse o fun p => { p with discarded := sat32 (p.discarded + whole), zeroSince := zero }
      d.setPulseBlk fun q => { q with acc := q.acc.set o 0, pending := q.pending.set o 0 }
    else d
  d.bump 0x45

/-- A pulse assignment block as kept: its defined fields (R532). -/
def pulseKept (bs : List Byte) (cal : Bool) : List Byte :=
  layout 16 [⟨0, 1, fieldAt bs 0 1⟩, ⟨1, 1, plsAccount bs⟩, ⟨2, 1, plsQuantity bs⟩,
    ⟨3, 1, (if cal then fieldAt bs 3 1 % 8 else fieldAt bs 3 1 % 8 / 2 * 2)⟩, ⟨4, 4, plsConst bs⟩, ⟨8, 2, plsWidth bs⟩]

/-- PULSE_ASSIGN (0x00F0) (R532–R534): content, seal, pending change; with STORE the PULSES group is written first. -/
def execPulseAssign (x : Desc) (s : State) : Host.Outcome State Fault Refusal :=
  s.ok (s.dev.command x { opcode := 0x00F0, entry := some 0x45 } (fun _ _ => 0) fun d _ =>
    if x.len < 16 then d.done x.ref stBadArg
    else d.withInput x fun bs =>
      let o := fieldAt bs 0 1
      let a := plsAccount bs
      if o > 7 || (a > 64 && a ≠ 0xFF) || plsQuantity bs > 15 || plsConst bs < 1 || plsConst bs > 16000000 ||
          plsWidth bs < 2 || plsWidth bs > 250 then d.done x.ref stBadArg
      else if plsCal bs && d.cal.sealed then d.done x.ref stSealed
      else if (d.pulse o).pend.isSome || d.groupPending 0x06 o then d.done x.ref stBusy
      else
        let b := pulseKept bs true
        if bitOf (fieldAt bs 3 1) 2 then d.queueWrite x.ref 0x06 o b
        else (d.updPulse o fun p => { p with pend := some b }).done x.ref stOK)

/-- PULSE_SUMMARY: every 15 minutes in RUN (Tables 11.9, 19.15). -/
def execPulseSummary (s : State) : Host.Outcome State Fault Refusal :=
  let d := s.dev
  let row (o : Nat) : List Fld :=
    let p := d.pulse o
    let a := plsAccount p.block
    ⟨4 + 20 * o, 1, a⟩ :: if a = 0xFF then [] else
      [⟨8 + 20 * o, 4, p.emitted⟩, ⟨12 + 20 * o, 4, d.pulsePending o⟩, ⟨16 + 20 * o, 4, p.discarded⟩,
        ⟨20 + 20 * o, 4, p.overflow⟩]
  if d.pwr.pstate = .run && d.serving && d.quarterDue 0x1075 then
    s.ok ((d.quarter 0x1075).postPulse 0x75 ((List.range 8).flatMap row) 164)
  else s.ok d

end Sys2Proof.Machine
end

