-- ==== Sys2Proof/Machine/Energy.lean ====
section
/-!
DEFINITION. Machine/Energy.lean: the metrology core's arithmetic: powers, the no-load gate, routing, registers and
residues, rate registers, credit, and in-filter energy (chapters 8 and 13).
-/
namespace Sys2Proof.Machine

/-! ### Powers (Table 8.1, R364–R368) -/

/-- A power numerator over `pDen` is a power in mW, mvar or mVA: code space scaled by 2^60, gains by 2^30, K by 2^46,
VFULL and IFULL in mV and mA. -/
def pDen : Int := 1000 * 2 ^ 136

/-- K × 2^46 in mW units: VFULL × IFULL of the pair's channel (R364). -/
def Dev.pairK (d : Dev) (ch : Nat) : Int := d.vfull * d.ifull ch

/-- P (q = 0), Q (q = 1) or P1 (q = 2) of a pair on channel `ch` from a product scaled by 2^60, before the offset. -/
def Dev.gained (d : Dev) (ch q : Nat) (x : Int) : Int :=
  x * (fieldAt (d.chanBlk ch) (if q = 1 then 20 else 16) 4 : Nat) * d.pairK ch

/-- Stage 6 of Table 8.1: gain and offset. -/
def Dev.powerOf (d : Dev) (ch q : Nat) (x : Int) : Int :=
  d.gained ch q x + sfieldAt (d.chanBlk ch) (if q = 1 then 26 else 24) 2 * pDen

/-- Irms² in counts², scaled by 2^60, clamped at 0 (stage 6). -/
def Dev.irms2 (d : Dev) (ch : Nat) (x : Int) : Int := max 0 (x - (fieldAt (d.chanBlk ch) 28 4 : Nat) * 2 ^ 60)

/-- The apparent power numerator of a pair from v² and Irms², each scaled by 2^60 (R365). -/
def Dev.apparent (d : Dev) (ch : Nat) (v2 i2 : Int) : Int :=
  (sqrtRound (v2.toNat * i2.toNat) 1 : Int) * 2 ^ 30 * d.pairK ch

/-- One sample's energy of a power numerator in steps of 2^−32 unit, ties to even (R368, R374). -/
def eStep (num : Int) : Nat := (roundEven (num * 625 * 2 ^ 32) (pDen * 36 * 10 ^ 9)).toNat

/-- P_REV of a channel as a numerator: 20 × U_NOM × I_START, I_START = 403 counts (R380, R384). -/
def Dev.pRev (d : Dev) (ch : Nat) : Int := 20 * 403 * d.unom * d.ifull ch * 10 * 2 ^ 113

/-! ### Routing (Table 8.4) -/

/-- The legal registers one sample's powers go to, each with the magnitude it receives; `ps` holds phase, Pk and P1,k
of each contributing pair (R369, R370). -/
def routing (absolute : Bool) (pt qt st p1t : Int) (ps : List (Nat × Int × Int)) : List (Nat × Int) :=
  if absolute then
    [(0, sumOnI ps fun x => |x.2.1|), (if qt ≥ 0 then 2 else 5, |qt|), (6, st), (8, sumOnI ps fun x => |x.2.2|)] ++
      ps.map fun x => (10 + x.1, |x.2.1|)
  else
    [(if pt ≥ 0 then 0 else 1, |pt|),
      (if qt ≥ 0 then (if pt ≥ 0 then 2 else 3) else (if pt < 0 then 4 else 5), |qt|),
      (if pt ≥ 0 then 6 else 7, st), (if p1t ≥ 0 then 8 else 9, |p1t|)] ++
      ps.map fun x => (if x.2.1 ≥ 0 then 10 + x.1 else 13 + x.1, |x.2.1|)

/-- A register and its residue after `e` steps: whole units carry, and the register holds at 2^64 − 1 (R374, R375). -/
def carry (reg res e : Nat) : Nat × Nat := (min (2 ^ 64 - 1) (reg + (res + e) / 2 ^ 32), (res + e) % 2 ^ 32)

/-- Legal register `r` of account `a` advances by `e` steps. -/
def Dev.addLegal (d : Dev) (a r e : Nat) : Dev :=
  d.updLegal a fun l =>
    let c := carry (l.reg.get r 0) (l.res.get r 0) e
    { l with reg := l.reg.set r c.1, res := l.res.set r c.2 }

/-- CREDIT and CREDIT_RES after a charge of `c` in 1/(2^32 × 10^6) of 1/10,000 currency unit (R634, R635). -/
def charge (credit : Int) (res : Nat) (c : Int) : Int × Nat :=
  let m : Int := 2 ^ 32 * 10 ^ 6
  let t := res + c
  (clampI (-(2 ^ 63)) (2 ^ 63 - 1) (credit - t.fdiv m), (t.fmod m).toNat)

/-- A sample energy filed into RATE[r] A+ (`dir` 0) or A− (1) under the rate in effect, with its charge, the demand
accumulator and the second's import (R616, R629, R634, R641). -/
def Dev.fileRate (d : Dev) (a dir e : Nat) : Dev :=
  let o := d.openBlk a
  let r := o.tst.rate
  let k := 2 * r + dir
  let c := carry (o.rate.get k 0) (o.rateRes.get k 0) e
  let whole := (o.rateRes.get k 0 + e) / 2 ^ 32
  let b := (d.acct a).block
  let price : Int := match d.tariffBytes with
    | none => 0
    | some t =>
      let p := tarProfileOf t (blkProfile b)
      if dir = 0 then prPrice t p r
      else if bitOf (prFlags t p) 1 && blkDir b = 1 then -(prExport t p : Int) else 0
  let (credit, res) := if blkPrepay b = 1 && a < 64 then charge o.credit o.tst.creditRes (e * price)
    else (o.credit, o.tst.creditRes)
  let d := d.updOpen a fun o => { o with
    rate := o.rate.set k c.1, rateRes := o.rateRes.set k c.2, credit := credit
    tst := { o.tst with creditRes := res, demandE := if dir = 0 then o.tst.demandE.upd r 0 fun n => wrap 32 (n + whole) else o.tst.demandE } }
  if dir = 0 then { d with accts := d.accts.set a { d.acct a with secImport := (d.acct a).secImport + e } } else d

/-- One routed energy goes to its register, the pulse outputs and the tariff engine, in the same steps (R377). -/
def Dev.fileEnergy (d : Dev) (a r e : Nat) : Dev :=
  let d := (d.addLegal a r e).feedPulses a r e
  if r < 2 then d.fileRate a r e else d

/-- All energies of one routing. -/
def Dev.fileAll (d : Dev) (a : Nat) (l : List (Nat × Nat)) : Dev := d.each l fun d x => d.fileEnergy a x.1 x.2

/-! ### Which accounts advance (Table 7.6) -/

/-- The SUSPENDED condition (R1213). -/
def Dev.suspended (d : Dev) (a : Nat) : Bool := (d.openBlk a).suspended

/-- The account stands in a state reached through TARGET = 2: METERING, SUSPENDED, FAULT-HOLD or SENSOR-LOST. -/
def Dev.inService (d : Dev) (a : Nat) : Bool := 2 ≤ (d.acct a).shown

/-- The account has the effects of SUSPENDED: that state, or FAULT-HOLD while the condition holds, as the held state shows it
(R329). -/
def Dev.paused (d : Dev) (a : Nat) : Bool := (d.acct a).shown = 3 || ((d.acct a).shown = 4 && (d.acct a).susp)

/-- The registers of account `a` advance: METERING, SENSOR-LOST, and FAULT-HOLD unless SUSPENDED holds. -/
def Dev.advances (d : Dev) (a : Nat) : Bool := d.inService a && !d.paused a

/-- The tariff engine evaluates the account (Table 7.6). -/
def Dev.evaluated (d : Dev) (a : Nat) : Bool := d.advances a

/-! ### Pairs -/

/-- Pair `k` of account `a`. -/
def Dev.pair (d : Dev) (a k : Nat) : PairRun := (d.acct a).pairs.get k {}

def Dev.updPair (d : Dev) (a k : Nat) (f : PairRun → PairRun) : Dev :=
  { d with accts := d.accts.set a { d.acct a with pairs := (d.acct a).pairs.set k (f (d.pair a k)) } }

/-- The channel of pair `k`, and its phase. -/
def Dev.pairCh (d : Dev) (a k : Nat) : Nat := blkCh (d.acct a).block k
def Dev.pairPh (d : Dev) (a k : Nat) : Nat := blkPh (d.acct a).block k

/-- DIRMODE of the account is ABSOLUTE (Table 7.3). -/
def Dev.absolute (d : Dev) (a : Nat) : Bool := blkDir (d.acct a).block = 2

/-! ### In-filter energy (R378, R379, R569) -/

/-- A pair's in-filter energy for q = 0 P, 1 Q, 2 P1 as a power numerator of one sample; 0 while its gate is closed, and while its
account does not advance. -/
def Dev.inFilter (d : Dev) (a k q : Nat) : Int :=
  let p := d.pair a k
  if p.gate && d.advances a then d.gained (d.pairCh a k) q (p.infl.get q 0) else 0

/-- In-filter energies given as power numerators are filed as one further sample energy, routed under their own
signs. -/
def Dev.fileRelease (d : Dev) (a ph : Nat) (p q p1 : Int) : Dev :=
  d.fileAll a ((routing (d.absolute a) p q 0 p1 [(ph, p, p1)]).map fun x => (x.1, eStep x.2))

/-- The in-filter energy of a pair is released, and its filter and in-filter energy start from 0 (R378). While its
account does not advance there is none to release. -/
def Dev.release (d : Dev) (a k : Nat) : Dev :=
  let d := if d.advances a && (d.pair a k).gate then
      d.fileRelease a (d.pairPh a k) (d.inFilter a k 0) (d.inFilter a k 1) (d.inFilter a k 2)
    else d
  d.updPair a k fun p => { p with flt := {}, out := {}, infl := {} }

/-- Every pair's in-filter energy of account `a` is released. -/
def Dev.releaseAll (d : Dev) (a : Nat) : Dev := d.each (d.pairsOf a) fun d k => d.release a k

/-- The INFILTER field of the LEGAL block: in 2^−16 unit, rounded to nearest and held at the field's limits (R569). -/
def Dev.inFilterField (d : Dev) (a k q : Nat) : Int :=
  clampI (-(2 ^ 31)) (2 ^ 31 - 1) (roundEven (d.inFilter a k q * 625 * 2 ^ 16) (pDen * 36 * 10 ^ 9))

/-! ### One sample of one pair -/

/-- What one sample brings a pair, all of one instant: v, v90, resonated v; i, resonated i; scaled by 2^30 and free of DC. -/
structure PairIn where
  v : Int
  v90 : Int
  v1 : Int
  i : Int
  i1 : Int
  deriving DecidableEq, Repr

/-- The products of stage 4 in the order of the filters: P, Q, P1, v², i². -/
def PairIn.products (x : PairIn) : List Int := [x.v * x.i, x.v90 * x.i, x.v1 * x.i1, x.v * x.v, x.i * x.i]

/-- A second-order low-pass section by the bilinear transform, of denominator 1 + a1 z⁻¹ + a2 z⁻² in 2^−64 and numerator
(1 + a1 + a2)/4 × (1 + z⁻¹)², whose gain at DC is exactly 1: the new output from the new and the two last inputs and the two last
outputs. -/
def lowpass2 (a1 a2 x x1 x2 y1 y2 : Int) : Int :=
  freeDiv 1 ((2 ^ 64 + a1 + a2) * (x + 2 * x1 + x2) - 4 * (a1 * y1 + a2 * y2)) (2 ^ 66)

/-- Stage 5: the fourth-order Butterworth low-pass at 2.0 Hz, prewarped with K = tan(π × 2 / 16,000), in two sections of
Q = 1 / (2 cos(π/8)) and 1 / (2 cos(3π/8)): a1 = 2 (K² − 1) / (1 + K/Q + K²), a2 = (1 − K/Q + K²) / (1 + K/Q + K²) (R363). The state
holds the last two inputs, outputs of the first section and outputs. -/
def powerFilter (st : List Int) (x : Int) : List Int × Int :=
  let g := fun n => st.getD n 0
  let y := lowpass2 (-36866725785174697530) 18419993082093039126 x (g 0) (g 1) (g 2) (g 3)
  let z := lowpass2 (-36882391439972645819) 18435658741722670393 y (g 2) (g 3) (g 4) (g 5)
  ([x, g 0, y, g 2, z, g 4], z)

/-- Stage 5 on each product; the in-filter energy is what went in less what came out (R363, R378). -/
def PairRun.filtered (p : PairRun) (x : PairIn) : PairRun :=
  (List.range 5).foldl (fun p q =>
    let raw := x.products.getD q 0
    let r := powerFilter (p.flt.get q []) raw
    { p with flt := p.flt.set q r.1, out := p.out.set q r.2
             infl := if q < 3 then p.infl.set q (p.infl.get q 0 + raw - r.2) else p.infl }) p

/-- The no-load gate opens at 242 counts and closes below 202 (R379). -/
def gateNext (open_ : Bool) (irms2 : Int) : Bool :=
  if irms2 ≥ 242 * 242 * 2 ^ 60 then true else if irms2 < 202 * 202 * 2 ^ 60 then false else open_

/-- Pair `k` of account `a` takes one sample: filters, gate, reversal run, and the second's sums, powers only while the account
advances (R327, R365–R386, R496). -/
def Dev.pairSample (d : Dev) (a k : Nat) (x : PairIn) : Dev :=
  let ch := d.pairCh a k
  let adv := d.advances a
  d.updPair a k fun p =>
    let p := p.filtered x
    let i2 := d.irms2 ch (p.out.get 4 0)
    let pk := d.powerOf ch 0 (p.out.get 0 0)
    let qk := d.powerOf ch 1 (p.out.get 1 0)
    let gate := gateNext p.gate i2
    { p with
      gate := gate
      revRun := if gate && pk < -(d.pRev ch) then p.revRun else 0
      backRun := if gate && pk ≥ 0 then p.backRun else 0
      sec := { all := p.sec.all + pk, p := p.sec.p + (if adv then pk else 0), q := p.sec.q + (if adv then qk else 0)
               s := p.sec.s + (if adv then (d.apparent ch (p.out.get 3 0) i2).toNat else 0)
               i2 := p.sec.i2 + x.i * x.i, v2 := p.sec.v2 + x.v * x.v, n := p.sec.n + 1 } }

/-- The energy of one sample of account `a` over the pairs `ks` that delivered it and whose gate is open (R369,
R370). -/
def Dev.accountSample (d : Dev) (a : Nat) (ks : List Nat) : Dev :=
  let ks := ks.filter fun k => (d.pair a k).gate
  if ks.isEmpty then d
  else
    let pw := fun (q k : Nat) => d.powerOf (d.pairCh a k) q ((d.pair a k).out.get q 0)
    let sk := fun (k : Nat) =>
      d.apparent (d.pairCh a k) ((d.pair a k).out.get 3 0) (d.irms2 (d.pairCh a k) ((d.pair a k).out.get 4 0))
    let p1 := fun (k : Nat) => d.gained (d.pairCh a k) 0 ((d.pair a k).out.get 2 0) +
      sfieldAt (d.chanBlk (d.pairCh a k)) 24 2 * pDen
    d.fileAll a ((routing (d.absolute a) (sumOnI ks (pw 0)) (sumOnI ks (pw 1)) (sumOnI ks sk) (sumOnI ks p1)
      (ks.map fun k => (d.pairPh a k, pw 0 k, p1 k))).map fun x => (x.1, eStep x.2))

end Sys2Proof.Machine
end

