-- ==== Sys2Proof/Machine/Tenants.lean ====
section
/-!
DEFINITION. Machine/Tenants.lean: accounts: their configuration blocks, conditions and states, unmetered time, and the
TENANT commands (chapter 7).
-/
namespace Sys2Proof.Machine

/-! ### Which channels deliver (R167, R202–R205, R218) -/

/-- Link `n`, channel `c`, direct input `x`. -/
def Dev.link (d : Dev) (n : Nat) : Link := d.links.get n {}
def Dev.chan (d : Dev) (c : Nat) : Chan := d.intake.chans.get c {}
def Dev.dm (d : Dev) (x : Nat) : DirectIn := d.intake.dms.get x {}

def Dev.setLink (d : Dev) (n : Nat) (l : Link) : Dev := { d with links := d.links.set n l }
def Dev.updChan (d : Dev) (c : Nat) (f : Chan → Chan) : Dev :=
  { d with intake := { d.intake with chans := d.intake.chans.set c (f (d.chan c)) } }
def Dev.updDm (d : Dev) (x : Nat) (f : DirectIn → DirectIn) : Dev :=
  { d with intake := { d.intake with dms := d.intake.dms.set x (f (d.dm x)) } }

/-- The link delivers slots: it is UP, or in SHORT before the third superframe after the fault (R196). -/
def Link.live (l : Link) : Bool := l.state = .up || (l.state = .short && l.shortUp)

/-- A direct input is locked; a CLOCKED one from the moment it is configured (R203, R205). -/
def Dev.dmLocked (d : Dev) (x : Nat) : Bool := d.dmMode x = 1 || (d.dmMode x = 2 && (d.dm x).locked)

/-- The intake watches channel `c` for flatline: its link is UP, or its direct input is locked (R205, R217). -/
def Dev.watched (d : Dev) (c : Nat) : Bool :=
  if c < 192 then (d.link (c / 12)).state = .up else d.dmLocked (c - 192)

/-- Channel `c` delivers samples. -/
def Dev.delivers (d : Dev) (c : Nat) : Bool :=
  !(d.chan c).flat && (if c < 192 then (d.link (c / 12)).live && (d.link (c / 12)).released else d.dmLocked (c - 192))

/-- LOST_PAIRS: the account's pairs whose channels deliver no samples (Table 7.8). -/
def Dev.lostPairs (d : Dev) (a : Nat) : List Nat := (d.pairsOf a).filter fun k => !d.delivers (d.pairCh a k)

/-! ### States (Tables 7.4, 7.5, R323, R329) -/

/-- The state R323 gives an account, in the codes of Table 7.8: 0 UNUSED, 1 CONFIGURED, 2 METERING, 3 SUSPENDED,
4 FAULT-HOLD, 5 SENSOR-LOST. -/
def Dev.stateOf (d : Dev) (a : Nat) : Nat :=
  let t := blkTarget (d.acct a).block
  if t = 0 then 0 else if t = 1 then 1
  else if d.faultHold a then 4
  else if d.suspended a then 3
  else if (d.lostPairs a).isEmpty then 2 else 5

/-- How far back the epochs of an account are looked up: past the oldest value that a record can still report, a harmonic window of
0.25 s and a path delay. -/
def epochSpan : Nat := 2 * second

/-- The account's epoch increments (R338); what it was and the instant of the change are kept for R342. -/
def Dev.touch (d : Dev) (a : Nat) : Dev :=
  let e := d.epoch a
  let d := d.bumpAccount a
  let c := d.acct a
  { d with accts := d.accts.set a { c with touches := (d.up, e) :: c.touches.filter fun p => d.up ≤ p.1 + epochSpan } }

/-- When the account's epoch last changed; 0 where not since power-up. -/
def Dev.touchedAt (d : Dev) (a : Nat) : Nat := ((d.acct a).touches.head?.map Prod.fst).getD 0

/-- The account's epoch changed after one instant and up to another. -/
def Dev.touchedIn (d : Dev) (a since until_ : Nat) : Bool :=
  (d.acct a).touches.any fun p => since < p.1 && p.1 ≤ until_

/-- The epoch of an account at an instant of the model's time base, a change at that instant not counted: what the earliest change
from it on found (R342). -/
def Dev.epochAt (d : Dev) (a t : Nat) : Nat :=
  (((d.acct a).touches.filter fun p => t ≤ p.1).getLast?.map Prod.snd).getD (d.epoch a)

/-- The account takes the state its conditions give, unless no converter gives valid voltages (R329); an entry into SUSPENDED counts
(R328). The answer says whether the state changed. -/
def Dev.takeState (d : Dev) (a : Nat) : Dev × Bool :=
  let st := d.stateOf a
  if d.volt.serving = 2 then (d, false)
  else
    let d := { d with accts := d.accts.set a { d.acct a with susp := d.suspended a } }
    if st = (d.acct a).shown then (d, false)
    else
      let d := { d with accts := d.accts.set a { d.acct a with shown := st, changed := some d.now } }
      (if st = 3 then d.updOpen a fun o => { o with suspendCount := sat32 (o.suspendCount + 1) } else d, true)

/-- A transition of Table 7.5 outside a commit tick: state and epoch. -/
def Dev.rejudge (d : Dev) (a : Nat) : Dev :=
  let (d, ch) := d.takeState a
  if ch then d.touch a else d

/-! ### Unmetered time (R57, R168, R169, R328) -/

/-- Superframes in a span of the model's time base (62.5 µs each). -/
def superframes (u : Nat) : Nat := (u * 16000 + 2 ^ 29) / 2 ^ 30

/-- Superframes are added to an account's unmetered-seconds register through its residue (R169). -/
def Dev.addUnmetered (d : Dev) (a n : Nat) : Dev :=
  d.updOpen a fun o => { o with
    unmetered := min (2 ^ 64 - 1) (o.unmetered + (o.unmetRes + n) / 16000), unmetRes := (o.unmetRes + n) % 16000 }

/-- The pairs of account `a` on the listed channels. -/
def Dev.pairsOn (d : Dev) (a : Nat) (cs : List Nat) : List Nat :=
  if blkTarget (d.acct a).block ≠ 2 then [] else (d.pairsOf a).filter fun k => cs.contains (d.pairCh a k)

/-- What the unmetered interval in progress has added since it was last counted goes into the register (R168, R169). -/
def Dev.countUnmetered (d : Dev) (a : Nat) : Dev :=
  match (d.acct a).unmet with
  | none => d
  | some (t, n) =>
    let m := superframes (d.up - t)
    let d := d.addUnmetered a (m - n)
    { d with accts := d.accts.set a { d.acct a with unmet := some (t, max m n) } }

/-- The unmetered interval of account `a` begins with the earliest pair whose time counts, and ends with the last: time in which
several pairs are lost counts once (R169, R231; DEDUCED, assumption 120). -/
def Dev.judgeUnmetered (d : Dev) (a : Nat) : Dev :=
  match (List.range 3).filterMap fun k => (d.pair a k).lostSince with
  | [] =>
    let d := d.countUnmetered a
    { d with accts := d.accts.set a { d.acct a with unmet := none } }
  | t :: ts =>
    if (d.acct a).unmet.isSome then d
    else { d with accts := d.accts.set a { d.acct a with unmet := some (ts.foldl min t, 0) } }

/-- The time of pairs no longer counts. -/
def Dev.closeLost (d : Dev) (a : Nat) (ks : List Nat) : Dev :=
  (d.each ks fun d k => d.updPair a k fun p => { p with lostSince := none }).judgeUnmetered a

/-- Channels stop delivering samples, from `since` on: in-filter energy is released at the loss instant, filters and
the reversal run restart, unmetered time counts, and the accounts take their states (R164, R218, R324, R378, R386).
The caller has made the channels stop. -/
def Dev.channelsLost (d : Dev) (cs : List Nat) (since : Nat) : Dev :=
  d.each d.accts.keys fun d a =>
    let ks := d.pairsOn a cs
    if ks.isEmpty then d
    else
      let d := d.each ks fun d k =>
        let d := if (d.pair a k).lostSince.isNone then d.release a k else d
        d.updPair a k fun p => { p with
          revRun := 0, backRun := 0, secBad := true, winBad := true
          lostSince := if p.lostSince.isNone && d.pwr.accum && !d.suspended a then some since else p.lostSince }
      (d.judgeUnmetered a).rejudge a

/-- Channels deliver samples again: filters start from 0, the unmetered interval is counted, and the accounts take
their states (R167, R169, R219, R324). -/
def Dev.channelsBack (d : Dev) (cs : List Nat) : Dev :=
  d.each d.accts.keys fun d a =>
    let ks := (d.pairsOn a cs).filter fun k => d.delivers (d.pairCh a k)
    if ks.isEmpty then d
    else
      let d := d.closeLost a ks
      (d.each ks fun d k => d.updPair a k fun p => { p with flt := {}, out := {}, infl := {} }).rejudge a

/-- Some channel of the list is mapped to a tenant that stands in METERING (R186). -/
def Dev.inMetering (d : Dev) (cs : List Nat) : Bool :=
  d.accts.keys.any fun a => a < 64 && (d.acct a).shown = 2 && !(d.pairsOn a cs).isEmpty

/-- Some channel of the list is mapped to an account set to METERING; to a tenant only, where asked. -/
def Dev.metered (d : Dev) (cs : List Nat) (tenantsOnly : Bool) : Bool :=
  d.accts.keys.any fun a => (!tenantsOnly || a < 64) && !(d.pairsOn a cs).isEmpty

/-! ### A configuration takes effect (R333, R335, R352–R354, R378) -/

/-- The registers CLEAR_LEGAL sets to 0 (R335). -/
def Dev.clearAccount (d : Dev) (a : Nat) : Dev :=
  let d := d.updLegal a fun l => { l with reg := {}, res := {} }
  d.updOpen a fun o => { o with rate := {}, rateRes := {}, demand := {}, credit := 0, unmetered := 0, unmetRes := 0
                                tst := { o.tst with creditRes := 0 } }

/-- The sealed fields of a block as the LEGAL block's CFG holds them (Table 12.5). -/
def cfgOf (b : List Byte) : AcctCfg :=
  { conn := blkConn b, dirmode := blkDir b, target := blkTarget b
    ch := Tbl.ofFn [0, 1, 2] (blkCh b), ph := Tbl.ofFn [0, 1, 2] (blkPh b) }

/-- The sealed fields of two blocks agree (bytes 1–12 of Table 7.1). -/
def sameSealed (x y : List Byte) : Bool := (x.drop 1).take 12 = (y.drop 1).take 12

/-- A configuration block takes effect at a commit tick. Pairs that leave the account, or change channel or phase, and
every pair of an account that goes to CONFIGURED, release their in-filter energy first under the mode still in effect. -/
def Dev.applyTenant (d : Dev) (a : Nat) (b : List Byte) (clear : Bool) : Dev :=
  let old := (d.acct a).block
  let moved := (List.range 3).filter fun k =>
    blkCh old k ≠ blkCh b k || blkPh old k ≠ blkPh b k || (blkTarget old = 2) != (blkTarget b = 2) ||
      (k < blkPairs old) != (k < blkPairs b)
  let d := d.each (moved.filter fun k => k < blkPairs old) fun d k => (d.release a k).closeLost a [k]
  let d := { d with accts := d.accts.set a { d.acct a with block := b } }
  let d := d.each moved fun d k => d.updPair a k fun _ =>
    { lostSince := if blkTarget b = 2 && k < blkPairs b && !d.delivers (blkCh b k) && d.pwr.accum && !d.suspended a
        then some d.up else none, secBad := true, winBad := true }
  let d := d.judgeUnmetered a
  let d := d.updLegal a fun l => { l with cfg := cfgOf b }
  let d := if clear then d.clearAccount a else d
  let d := if blkTarget b = 0 then d.updOpen a fun o => { o with suspended := false } else d
  if blkPrepay b = 0 then d.updOpen a fun o => { o with
      credit := 0, tst := { o.tst with openReasons := o.tst.openReasons / 2 * 2, tflags := o.tst.tflags / 16 * 16 } }
  else d

/-- TENANT_SUSPEND takes effect: in-filter energy is released, and the time of lost pairs stops counting (R328, R378, R1213). -/
def Dev.applySuspend (d : Dev) (a : Nat) : Dev :=
  let d := (d.releaseAll a).closeLost a (d.pairsOf a)
  let d := d.each (d.pairsOf a) fun d k => d.updPair a k fun p => { p with revRun := 0, backRun := 0 }
  d.updOpen a fun o => { o with suspended := true }

/-- TENANT_RESUME takes effect: filters start from 0, and pairs still lost count from here (R354). -/
def Dev.applyResume (d : Dev) (a : Nat) : Dev :=
  let d := d.updOpen a fun o => { o with suspended := false }
  let d := d.each (d.pairsOf a) fun d k => d.updPair a k fun p => { p with flt := {}, out := {}, infl := {} }
  (d.each (d.lostPairs a) fun d k => d.updPair a k fun p =>
    { p with lostSince := if d.pwr.accum && blkTarget (d.acct a).block = 2 then some d.up else none }).judgeUnmetered a

/-! ### TENANT_SET (R315–R319, R325, R330–R335) -/

/-- The block of account `a` as it will stand at the next commit tick, counting every pending change (R319). -/
def Dev.nextBlock (d : Dev) (a : Nat) : List Byte :=
  match (d.changes).filter
      (fun w => w.group = 0x04 && w.key = a) |>.getLast? with
  | some w => w.block
  | none => (d.acct a).block

/-- A channel belongs to another account in the configuration to come; only TARGET 1 and 2 hold channels (R319). -/
def Dev.channelTaken (d : Dev) (a c : Nat) : Bool :=
  accounts.any fun b => b ≠ a &&
    (let n := d.nextBlock b
     blkTarget n ≠ 0 && (List.range (blkPairs n)).any fun k => blkCh n k = c)

/-- Codes of Table 7.1 and the rules of Table 7.2 and R317. -/
def blockShape (b : List Byte) : Bool :=
  let bare := (List.range 3).all fun k => blkCh b k = 0xFFFF && blkPh b k = 0xFF
  let n := blkPairs b
  let phases := (List.range n).map (blkPh b)
  blkConn b ≤ 2 && blkDir b ≤ 2 && blkTarget b ≤ 2 && blkProfile b ≤ 7 && blkPrepay b ≤ 1 &&
    (blkLink b ≤ 15 || blkLink b = 0xFF) && (blkLink b = 0xFF || blkRelay b ≤ 11) &&
    ((blkTarget b = 0 && bare) ||
      ((span n (3 - n)).all (fun k => blkCh b k = 0xFFFF && blkPh b k = 0xFF) &&
        (phases.all fun p => p ≤ 2) && phases.Nodup &&
        ((List.range n).all fun k => blkCh b k ≠ 0xFFFF) && ((List.range n).map (blkCh b)).Nodup))

/-- The content checks of TENANT_SET for account `a`. -/
def Dev.blockOk (d : Dev) (a : Nat) (b : List Byte) : Bool :=
  let bare := blkCh b 0 = 0xFFFF
  let ks := if bare then [] else List.range (blkPairs b)
  blockShape b &&
    (ks.all fun k =>
      d.vinUsed (blkPh b k) && !d.channelTaken a (blkCh b k) &&
        (if a < 64 then blkCh b k < 192 else blkCh b k = 192 + blkPh b k)) &&
    (a < 64 || (blkPrepay b = 0 && blkLink b = 0xFF)) &&
    (!bitOf (fieldAt b 13 1) 0 || ((d.acct a).shown = 0 && blkTarget b = 1))

/-- A block as kept: FLAGS and reserved bytes 0. -/
def blockKept (a : Nat) (b : List Byte) : List Byte :=
  layout 32 [⟨0, 1, a⟩, ⟨1, 12, fieldAt b 1 12⟩, ⟨16, 4, fieldAt b 16 4⟩, ⟨24, 8, fieldAt b 24 8⟩]

/-- A change is pending for the account (R334). -/
def Dev.tenantPending (d : Dev) (a : Nat) : Bool := (d.acct a).pend.isSome || d.groupPending 0x04 a

/-- TENANT_SET (0x0030), with its own checks in the order of R316; sealed fields that equal those in effect or pending need no
open seal (R331). -/
def execTenantSet (x : Desc) (s : State) : Host.Outcome State Fault Refusal :=
  s.ok (s.dev.command x { opcode := 0x0030, account := true } (fun d a => (d.acct a).shown) fun d a =>
    if x.len < 32 then d.done x.ref stBadArg
    else d.withInput x fun bs =>
      let old := (d.acct a).block
      let clear := bitOf (fieldAt bs 13 1) 0
      let sealedCh := !(sameSealed old bs || sameSealed (d.nextBlock a) bs) || clear
      if fieldAt bs 0 1 ≠ a then d.done x.ref stBadTenant
      else if !d.blockOk a bs then d.done x.ref stBadArg
      else if sealedCh && d.cal.sealed then d.done x.ref stSealed
      else if d.tenantPending a then d.done x.ref stBusy
      else if blkTarget bs = 0 && (d.acct a).shown ≠ 1 then d.done x.ref stMismatch
      else d.queueGroup x.ref
        { group := 0x04, key := a, block := blockKept a bs, cmd := some x.ref, sealChange := sealedCh, clear := clear })

/-- TENANT_GET (0x0031): the block in effect and the status of Table 7.8 (R343). -/
def execTenantGet (x : Desc) (s : State) : Host.Outcome State Fault Refusal :=
  s.ok (s.dev.command x { opcode := 0x0031, tenantMay := true, account := true } (fun d a => (d.acct a).shown) fun d a =>
    if x.len < 64 then d.done x.ref stBadArg
    else
      let c := d.acct a
      let o := d.openBlk a
      let lost := if blkTarget c.block = 2 then sumOn (d.lostPairs a) fun k => 2 ^ k else 0
      let cond := b2n (lost ≠ 0) + 2 * b2n o.suspended + 4 * b2n (d.faultHold a) + 8 * b2n (d.volt.serving = 2) +
        16 * b2n (d.tenantPending a)
      let out := (layout 32 [⟨0, 1, a⟩]).take 1 ++ c.block.drop 1 ++ layout 32 [⟨0, 1, c.shown⟩, ⟨1, 1, o.epoch⟩, ⟨2, 1, cond⟩,
        ⟨3, 1, lost⟩, ⟨4, 4, o.suspendCount⟩, ⟨8, 8, o.unmetered⟩, ⟨16, 8, c.changed.getD d.pwr.loadedAt⟩]
      (d.output x out).doneWith x.ref (c.shown + 256 * o.epoch))

/-- TENANT_SUSPEND and TENANT_RESUME share their checks (R326, R334). -/
def Dev.tenantPend (d : Dev) (x : Desc) (a : Nat) (may : Bool) (p : AcctPend) : Dev :=
  if a = 64 then d.done x.ref stBadArg
  else if d.tenantPending a then d.done x.ref stBusy
  else if !may then d.done x.ref stMismatch
  else ({ d with accts := d.accts.set a { d.acct a with pend := some p } } : Dev).done x.ref stOK

/-- TENANT_SUSPEND (0x0032). -/
def execTenantSuspend (x : Desc) (s : State) : Host.Outcome State Fault Refusal :=
  s.ok (s.dev.command x { opcode := 0x0032, account := true } (fun d a => (d.acct a).shown) fun d a =>
    let st := (d.acct a).shown
    d.tenantPend x a (st = 2 || st = 5 || (st = 4 && !d.suspended a)) .suspend)

/-- TENANT_RESUME (0x0033). -/
def execTenantResume (x : Desc) (s : State) : Host.Outcome State Fault Refusal :=
  s.ok (s.dev.command x { opcode := 0x0033, account := true } (fun d a => (d.acct a).shown) fun d a =>
    let st := (d.acct a).shown
    d.tenantPend x a (st = 3 || ((st = 4 || st = 1) && d.suspended a)) .resume)

end Sys2Proof.Machine
end

