-- ==== Sys2Proof/Machine/Streams.lean ====
section
/-!
DEFINITION. Machine/Streams.lean: the bitstream of a current channel and its decimation to 16 kS/s, the watch for flatline and
overload, and the POD records of channels (chapter 4).
-/
namespace Sys2Proof.Machine

/-- A POD record (Table 19.11). -/
def Dev.postPod (d : Dev) (event link channel : Nat) (fs : List Fld) (len : Nat := 48) : Dev :=
  d.post { ty := 0x31, time := d.now, len := len, pay := [⟨0, 1, event⟩, ⟨1, 1, link⟩, ⟨2, 2, channel⟩] ++ fs }

/-- `n` MCLK periods T of 1 / 6.144 MHz in the model's time base (chapter 3). -/
def tUnits (n : Nat) : Nat := n * 2 ^ 30 / 6144000

/-- One superframe, 384 T (R140). -/
def sfUnits : Nat := tUnits 384

/-- The stages of Table 4.3 in T/2: transport, sinc3, FIR and alignment. -/
def delayHalves : List Nat := [6, 189, 13056, 829]

/-- The path delay of a current at PHASE_CORR = 0, and of every voltage: 7,040 T (R210, R213, R245). -/
def pathDelay : Nat := delayHalves.sum * 2 ^ 30 / (2 * 6144000)

/-- The channels of link `n` (R199). -/
def linkChannels (n : Nat) : List Nat := span (12 * n) 12

/-- The LINK byte of a channel's POD records: 0–15, or 16 + x for DMx (R223). -/
def linkByte (c : Nat) : Nat := if c < 192 then c / 12 else 16 + (c - 192)

/-- A POD record for a channel, posted while the channel is mapped to an account whose TARGET is METERING (R222, R223). The state
METERING itself is not asked: CH_FLATLINE_END is posted while the account is in SENSOR-LOST (DEDUCED, assumption 118). -/
def Dev.postChan (d : Dev) (event c : Nat) (fs : List Fld) : Dev :=
  if d.metered [c] false then d.postPod event (linkByte c) c fs else d

/-- A counter of channel `c` changed: the next COUNTERS shows its link or direct input. -/
def Dev.markCounter (d : Dev) (c : Nat) : Dev :=
  if c < 192 then d.setLink (c / 12) { d.link (c / 12) with changed := true }
  else d.updDm (c - 192) fun m => { m with changed := true }

/-! ### Decimation (R207–R211, R216, Table 4.2) -/

/-- C(i − s + 2, 2): a term of the sinc3 response. -/
def tri (i s : Nat) : Int := if i < s then 0 else ((i - s + 1) * (i - s + 2) / 2 : Nat)

/-- Tap `i` of the sinc3 filter, 0–189: the third power of the sum over 64 bits. Its gain at DC is 2^18. -/
def sincTap (i : Nat) : Int := tri i 0 - 3 * tri i 64 + 3 * tri i 128

/-- The sinc3 output over the last 190 bits, newest first: a bit of 1 enters as +1 and a bit of 0 as −1 (R207). -/
def sinc3 (bits : List Bool) : Int := sumOnI ((bits.take 190).mapIdx fun i b => if b then sincTap i else -sincTap i) id

/-- Tap `i` of the FIR filter, 0–204, in 2^−30: linear phase, and gain 1 at DC. -/
def firTap (i : Nat) : Int :=
  if i = 102 then 2 ^ 30 - 2 * sumOnI (List.range 102) Config.firHalf else Config.firHalf (min i (204 - i))

/-- The FIR output over the last 205 sinc3 outputs, newest first; full scale is 2^48. -/
def firOut (sinc : List Int) : Int := sumOnI ((sinc.take 205).mapIdx fun i x => firTap i * x) id

/-- Tap `i` of the interpolator at phase `p` of 1,024, in 2^−30: gain 1 at DC (R216). -/
def interpTap (p i : Nat) : Int := if i = 0 then 2 ^ 30 - sumOnI (span 1 15) (Config.interp p) else Config.interp p i

/-- The current sample at a phase correction of `v` steps, a signed 24-bit code: the alignment stage releases the FIR output of the
superframe before last at v = 0, and the interpolator takes it from there, the next FIR output ahead where v is negative (R209, R211,
R214, R216). -/
def Stream.value (s : Stream) (v : Int) : Int :=
  let base := if 0 ≤ v then 1 else 0
  let p := (v % 1024).toNat
  clampI (-(2 ^ 23)) (2 ^ 23 - 1)
    (freeDiv 0 (sumOnI (List.range 16) fun i => interpTap p i * s.fir.getD (base + i) 0) (2 ^ 55))

/-- The watch for 64 equal bits over new bits, the oldest first, the last of which ends at `now` (R217). -/
def Stream.watch (s : Stream) (now : Nat) (new : List Bool) : Stream :=
  (new.foldl (fun (p : Stream × Option Bool × Nat) b =>
    let s := p.1
    let s := if p.2.1 = some b then { s with run := s.run + 1 } else { s with run := 1, runStart := now - tUnits p.2.2 }
    let s := if s.run < 64 then s else { s with runEnd := now - tUnits (p.2.2 - 1) }
    (if s.run = 64 then { s with seen := some (b, s.runStart) } else s, some b, p.2.2 - 1))
    (s, s.bits.head?, new.length)).1

/-- The places in a superframe of the bits that end a sinc3 output, newest first. The newest of them, bit 350, lies 417.5 T before the
release of its FIR output: 3 T of transport and 414.5 T of alignment (Table 4.3). -/
def sincEnds : List Nat := [350, 286, 222, 158, 94, 30]

/-- A superframe of bits, the oldest first, enters a channel's chain. -/
def Stream.push (s : Stream) (now : Nat) (new : List Bool) : Stream :=
  let all := new.reverse ++ s.bits
  let sinc := (sincEnds.map fun n => sinc3 (all.drop (new.length - 1 - n))) ++ s.sinc
  { s.watch now new with bits := all.take 189, sinc := sinc.take 204, fir := (firOut sinc :: s.fir).take 17 }

/-- A sinc3 output of the newest superframe exceeds 0.88 of full scale in magnitude (R220). -/
def Stream.hot (s : Stream) : Bool := (s.sinc.take 6).any fun x => decide (88 * 2 ^ 18 < |x| * 100)

/-! ### Overload and flatline (R217–R222, R225, R232) -/

def Dev.stream (d : Dev) (c : Nat) : Stream := d.intake.streams.get c {}

def Dev.setStream (d : Dev) (c : Nat) (s : Stream) : Dev :=
  { d with intake := { d.intake with streams := d.intake.streams.set c s } }

/-- The current code of a channel at its PHASE_CORR in effect (Table 8.1, stage 1). -/
def Dev.curCode (d : Dev) (c : Nat) : Int := (d.stream c).value (sfieldAt (d.chanBlk c) 2 2)

/-- An overload ends (R220, Table 4.4): its duration in whole seconds, rounded up, the second without an overloaded output included, is
posted and counted in OVERLOAD_SECONDS (DESIGN CHOICE, assumption 119). -/
def Dev.endOverload (d : Dev) (c : Nat) : Dev :=
  let x := d.chan c
  let secs := (d.up - x.overSince + second - 1) / second
  let d := d.updChan c fun x => { x with ovl := false, overSecs := sat32 (x.overSecs + secs) }
  (d.markCounter c).postChan 0x11 c [⟨4, 4, secs⟩]

/-- A sinc3 output on channel `c` exceeds 0.88 of full scale (R220); a flatline governs (R232). -/
def Dev.overload (d : Dev) (c : Nat) : Dev :=
  let x := d.chan c
  if x.flat || (d.stream c).seen.isSome then d
  else
    let d := match d.ownerOf c with
      | some (a, k) => d.updPair a k fun p => { p with secBad := true }
      | none => d
    if x.ovl then d.updChan c fun x => { x with lastOver := d.up }
    else (d.updChan c fun x => { x with ovl := true, overSince := d.up, lastOver := d.up }).postChan 0x10 c []

/-- A superframe of bits of a channel that is watched enters its chain, and overload is judged (R207, R220, R222). -/
def Dev.feed (d : Dev) (c : Nat) (new : List Bool) : Dev :=
  let s := (d.stream c).push d.up new
  let d := d.setStream c s
  if s.hot then d.overload c else d

/-- A flatline begins on channel `c`, from `since` (R217, R218, R225, R232). -/
def Dev.startFlat (d : Dev) (c bit since : Nat) : Dev :=
  let removed := 192 ≤ c && c ≤ 194 && (d.acct 64).shown = 2
  let d := if (d.chan c).ovl then d.endOverload c else d
  let d := d.updChan c fun x =>
    { x with flat := true, backAt := 0, flatSince := since, flatCount := sat32 (x.flatCount + 1) }
  let d := (d.setStream c { d.stream c with seen := none }).markCounter c
  let d := (d.channelsLost [c] since).postChan 0x12 c [⟨4, 1, bit⟩]
  if removed then d.tamper 0x0A (16 + (c - 192)) d.now else d

end Sys2Proof.Machine
end

