-- ==== Sys2Proof/Machine/Link.lean ====
section
/-!
DEFINITION. Machine/Link.lean: the sixteen Oaser links: superframes, link states, polarity, status, relays in the
downstream frames, and downstream faults (chapter 3).
-/
namespace Sys2Proof.Machine

/-! ### Decoding an upstream superframe (R148–R159) -/

/-- The nibble of a 5-bit code, leftmost code bit most significant (Table 3.3). -/
def nibbleOf (c : Nat) : Option Nat :=
  [0b11110, 0b01001, 0b10100, 0b10101, 0b01010, 0b01011, 0b01110, 0b01111,
    0b10010, 0b10011, 0b10110, 0b10111, 0b11010, 0b11011, 0b11100, 0b11101].idxOf? c

def syncCode : Nat := 0b11000
def invSync : Nat := 0b00111

/-- Code `k` of a received slot of 20 code bits, code 0 first, under the receiver's polarity. -/
def codeOf (inv : Bool) (slot k : Nat) : Nat :=
  let c := slot / 2 ^ (15 - 5 * k) % 32
  if inv then 31 - c else c

/-- A slot as judged: bad or not (R155), and its 16 bits as received; a code that is no data code gives bits that the
manual does not state. -/
structure SlotRx where
  bad : Bool
  bits : Nat
  deriving DecidableEq, Repr

/-- The XOR of bits 0, 2, …, 12 (`o` = 0) or 1, 3, …, 13 (`o` = 1) of a slot (Table 3.4). -/
def parityOf (o bits : Nat) : Bool := (List.range 7).foldl (fun p i => p != bitOf bits (2 * i + o)) false

/-- Slot `n` judged (R149–R151, R155). -/
def slotRx (inv : Bool) (n slot : Nat) : SlotRx :=
  let nib := fun k => nibbleOf (codeOf inv slot k)
  let val := fun k => (nib k).getD (Config.badNibble (codeOf inv slot k) % 16)
  let low := val 0 + 16 * val 1 + 256 * val 2
  if n = 0 then ⟨(nib 0).isNone || (nib 1).isNone || (nib 2).isNone || codeOf inv slot 3 ≠ syncCode, low⟩
  else
    let bits := low + 4096 * val 3
    ⟨(List.range 4).any (fun k => (nib k).isNone) || parityOf 0 bits != bitOf bits 14 || parityOf 1 bits != bitOf bits 15, bits⟩

/-- The slots of a superframe; an inverted sync in slot 0 inverts the receiver from the next slot on (R171). -/
def slotsRx (inv : Bool) (slots : List Nat) : List SlotRx :=
  let inv1 := inv != (codeOf inv (slots.headD 0) 3 = invSync)
  slots.mapIdx fun n w => slotRx (if n = 0 then inv else inv1) n w

/-- CRC-16 over the slots as received (R158). -/
def crc16 (l : List SlotRx) : Nat :=
  (crcBits 0x1021#16 0xFFFF#16 ((l.mapIdx fun n x =>
    (List.range 12).map (bitOf x.bits) ++ if 1 ≤ n && n ≤ 367 then [bitOf x.bits 12] else []).flatten)).toNat

/-- The serial status bit of slot `n` (Table 3.5). -/
def serOf (l : List SlotRx) (n : Nat) : Bool := bitOf (l.getD n ⟨true, 0⟩).bits 12

/-- CRC16 as received in slots 368–383, bit 15 first. The bits of a bad slot among them are compared as received, as R158 takes those
of the covered slots; R156 discards a bad slot's SER bit, but says nothing of these (DEDUCED, assumption 121). -/
def crc16Sent (l : List SlotRx) : Nat := sumOn (List.range 16) fun i => if serOf l (368 + i) then 2 ^ (15 - i) else 0

/-- A superframe is valid (R159). -/
def sfValid (sync : Bool) (l : List SlotRx) : Bool :=
  sync && crc16 l = crc16Sent l && (l.filter SlotRx.bad).length ≤ 8

/-- `w` status bits from slot `n` on, least significant first; the bit of a bad slot keeps its last value (R156). -/
def serField (l : List SlotRx) (n w old : Nat) : Nat :=
  sumOn (List.range w) fun i =>
    if (if (l.getD (n + i) ⟨true, 0⟩).bad then bitOf old i else serOf l (n + i)) then 2 ^ i else 0

/-- MOD bits of a slot as delivered, after those of the slot before it: a bad slot gives their complement (R156). -/
def modsAfter (old : Nat) (x : SlotRx) : Nat := if x.bad then 4095 - old % 4096 else x.bits % 4096

/-- MOD bits of each slot of a superframe as delivered, after those of the slot before it. -/
def modsOf (old : Nat) (l : List SlotRx) : List Nat :=
  (l.foldl (fun (p : Nat × List Nat) x => (modsAfter p.1 x, modsAfter p.1 x :: p.2)) (old, [])).2.reverse

/-! ### The downstream frames (R143–R146, R157, R172) -/

/-- `w` bits of `x`, least significant first. -/
def bitsLsb (w x : Nat) : List Bool := (List.range w).map (bitOf x)

/-- What the frames of the link's superframe say. -/
def Link.word (l : Link) (sfc : Nat) : DnWord := ⟨sfc, l.relay, l.relayValid, l.test, l.locate⟩

/-- Bit times 4–55 of frame `f` (Table 3.1). -/
def frameBody (w : DnWord) (f : Nat) : List Bool :=
  bitsLsb 3 f ++ bitsLsb 5 w.sfc ++ bitsLsb 12 w.relay ++ bitsLsb 12 w.relayValid ++ bitsLsb 4 w.test ++ [w.locate] ++
    List.replicate 15 false

/-- Bit times 4–63 of frame `f`: its fields and CRC8, bit 7 first (R143, R157). -/
def frameData (w : DnWord) (f : Nat) : List Bool :=
  frameBody w f ++ bitsMsb (crcBits 0x07#8 0xFF#8 (frameBody w f))

/-- Bit times 0–63 of frame `f` as the bits sent; bit times 0 and 2 by their first half-bit (R172). -/
def frameBits (w : DnWord) (f : Nat) : List Bool := [true, true, false, true] ++ frameData w f

/-- The half-bits of frame `f`, true where OLx_DN_P lies above OLx_DN_N: SYNC, and a 1 as high then low, a 0 as low then high (R144,
R145). -/
def frameHalves (w : DnWord) (f : Nat) : List Bool :=
  [true, true, true, false, false, false, true, false] ++ (frameData w f).flatMap fun b => [b, !b]

/-- The 384 bits sent in a superframe. -/
def sentBits (w : DnWord) : List Bool := (List.range 6).flatMap (frameBits w)

/-- The 768 half-bits of a superframe on the pair, inverted where the driver is. -/
def sentHalves (w : DnWord) (inv : Bool) : List Bool := ((List.range 6).flatMap (frameHalves w)).map fun h => h != inv

/-- The echo bits of slots 1–383 against the bits sent from the bit of slot 0 on: how many good slots' bits match, and how many do not;
the ECHO bit of a bad slot is discarded and counts as neither (R156). -/
def echoScore (l : List SlotRx) (sent : List Bool) : Nat × Nat :=
  ((l.zip sent).drop 1).foldl (fun n p =>
    if p.1.bad then n else if bitOf p.1.bits 13 = p.2 then (n.1 + 1, n.2) else (n.1, n.2 + 1)) (0, 0)

/-- Results of R172. -/
inductive Echo
  | normal | inverted | undecided
  deriving DecidableEq, Repr

/-- The echo comparison at each of the 384 offsets between slot and bit time, over the bits sent in this superframe and the one
before (R172). 23 or fewer matches of 383 are taken as 360 or more differences: with every ECHO bit present the two are the same, and a
superframe of discarded ECHO bits is undecided (DEDUCED, assumption 122). -/
def echoResult (l : List SlotRx) (sent : List Bool) : Echo :=
  let ms := (List.range 384).map fun k => echoScore l (sent.drop (384 - k))
  let high := ms.any fun m => m.1 ≥ 360
  let low := ms.any fun m => m.2 ≥ 360
  if high && !low then .normal else if low && !high then .inverted else .undecided

/-! ### Loss and acquisition (Table 3.7, R164–R169, R186, R231) -/

/-- Link loss: the channels stop, from the start of the first of the three superframes; flatlines of the link are closed without an
event, and the link's unmetered time goes on from them (R231); the state is the caller's. POD_REMOVED asks for a tenant that stands in
METERING (R186). -/
def Dev.loseLink (d : Dev) (n : Nat) (st : LinkState) : Dev :=
  let cs := linkChannels n
  let flats := cs.filter fun c => (d.chan c).flat
  let since := d.up - 3 * sfUnits
  let tamper := d.inMetering cs
  let l := d.link n
  let from_ := flats.foldl (fun t c => min t (d.chan c).flatSince) since
  let d := d.setLink n { l with
    state := st, found := 0, released := false, shortUp := false, bad := 0, lossCount := sat32 (l.lossCount + 1), changed := true
    lostSince := if d.pwr.accum then some (l.lostSince.getD from_) else l.lostSince }
  let d := d.each flats fun d c => d.updChan c fun x => { x with flat := false, backAt := 0 }
  let d := d.channelsLost cs since
  let d := d.postPod 0x02 n 0xFFFF []
  if tamper then d.tamper 0x0A n d.now else d

/-- A link enters UP (R161): its channels' chains start afresh. -/
def Dev.linkUp' (d : Dev) (n : Nat) : Dev :=
  let d := d.setLink n { d.link n with
    state := .up, upSince := d.up, released := false, bad := 0, unassignedRun := 0, unassignedPosted := false, absentPosted := false }
  (d.each (linkChannels n) fun d c => d.setStream c {}).postPod 0x01 n 0xFFFF []

/-- STREAM_COUNT of a status word (R154). -/
def streamCount (st : Nat) : Nat := let n := st / 4096 % 16; if n = 0 || n > 12 then 12 else n

/-- RELAY_COUNT of a status word (R154). -/
def relayCount (st : Nat) : Nat := min 12 (st / 256 % 16)

/-- RELAY_COUNT of a link; before its first valid superframe no relay is known to be absent (DESIGN CHOICE, assumption 123). -/
def Link.relays (l : Link) : Nat := match l.status with | some st => relayCount st | none => 12

/-- A command to a relay that the pod does not have is reported (R180). -/
def Dev.relayAbsent (d : Dev) (n r : Nat) : Dev :=
  if (d.link n).relays ≤ r then d.postPod 0x0A n 0xFFFF [⟨4, 1, r⟩] else d

/-- The first valid superframe says which relays there are: those already under command that the pod lacks are reported then (R180). -/
def Dev.firstStatus (d : Dev) (n : Nat) (was : Option Nat) : Dev :=
  let l := d.link n
  if was.isSome || l.status.isNone then d
  else d.each ((List.range 12).filter fun r => bitOf l.cmdValid r) fun d r => d.relayAbsent n r

/-- A superframe under a link test, once the pod reports it active in this superframe and the one before: the ones of each stream over
the slots, and for WALK the streams that differ from the pattern of Table 3.2 in a good slot (Table 18.8; DEDUCED, assumption 147). -/
def Dev.watchTest (d : Dev) (n : Nat) (rx : List SlotRx) (mods : List Nat) (was : Option Nat) : Dev :=
  match d.test with
  | none => d
  | some t =>
    let active := (was.any fun w => bitOf w 3) && (d.link n).status.any fun w => bitOf w 3
    if !((t.test = 1 || t.test = 2) && t.target = n && active) then d
    else
      let ones := (List.range 12).foldl (fun (z : Tbl Nat) s => z.upd s 0 fun k => k + (mods.filter fun m => bitOf m s).length) t.ones
      let wrong := (List.range 12).filter fun s =>
        (rx.zipIdx).any fun x => !x.1.bad && bitOf x.1.bits s != decide (x.2 % 16 = s)
      { d with test := some { t with
        slots := t.slots + mods.length, ones := ones
        wrong := if t.test = 2 then wrong.foldl (fun z s => z ||| 2 ^ s) t.wrong else t.wrong } }

/-- A valid superframe while UP: UNASSIGNED_PRESENT, once per UP period after 16 superframes and at each change of ADDR_ASSIGNED from 1
to 0 (R182); and STREAM_ABSENT, once per UP period, naming the lowest of several channels (R183; DESIGN CHOICE, assumption 124). `was` is
the status before it. -/
def Dev.upChecks (d : Dev) (n : Nat) (was : Option Nat) : Dev :=
  let l := d.link n
  let st := l.status.getD 0
  let assigned := bitOf st 7
  let fell := was.any fun w => bitOf w 7 && !assigned
  let run := if assigned then 0 else l.unassignedRun + 1
  let due := run ≥ 16 && !l.unassignedPosted
  let d := d.setLink n { l with unassignedRun := run, unassignedPosted := l.unassignedPosted || due }
  let d := if fell then d.postPod 0x0B n 0xFFFF [] else d
  let d := if due then d.postPod 0x0B n 0xFFFF [] else d
  let gone := (linkChannels n).filter fun c =>
    streamCount st ≤ c % 12 && match d.ownerOf c with | some p => p.1 < 64 | none => false
  match gone with
  | c :: _ =>
    if l.absentPosted then d
    else (d.setLink n { d.link n with absentPosted := true }).postPod 0x0C n c [⟨4, 1, streamCount st⟩]
  | [] => d

/-- Polarity of the downstream driver from the echo of a superframe (R172–R174): two inverted results in a row, or 16 undecided ones
without DN_LOCK, make the driver invert at the next frame 0, and it goes on inverting every 16 superframes until a valid superframe
reports DN_LOCK. The first of those inversions comes with ECHO_UNDECIDED, and before any valid superframe DN_LOCK counts as 0 (DESIGN
CHOICE, assumption 125). -/
def Dev.echoChecks (d : Dev) (n : Nat) (e : Echo) : Dev :=
  let l := d.link n
  let locked := l.status.any fun st => bitOf st 0
  let l := { l with invRun := if e = .inverted then l.invRun + 1 else 0
                    undecRun := if e = .undecided && !locked then l.undecRun + 1 else 0
                    toggleAge := l.toggleAge + 1, toggling := l.toggling && !locked }
  if l.invRun ≥ 2 then
    (d.setLink n { l with dnFlip := true, invRun := 0 }).postPod 0x04 n 0xFFFF []
  else if l.undecRun ≥ 16 && !l.toggling then
    (d.setLink n { l with toggling := true, undecRun := 0, toggleAge := 0, dnFlip := true }).postPod 0x05 n 0xFFFF []
  else if l.toggling && l.toggleAge ≥ 16 then d.setLink n { l with dnFlip := true, toggleAge := 0 }
  else d.setLink n l

/-- The window of R162 for the first code bit of slot 0, in hundredths of T after the mid-bit instant of superframe bit time 0. -/
def inWindow (arrival : Nat) : Bool := 100 ≤ arrival && arrival ≤ 225

/-- The MOD bits of a superframe enter the chains of the link's channels (R163, R166). -/
def Dev.feedLink (d : Dev) (n : Nat) (mods : List Nat) : Dev :=
  d.each (List.range 12) fun d i => d.feed (12 * n + i) (mods.map fun m => bitOf m i)

/-- A superframe of an aligned link, in ALIGNING or UP: what it counts and reports, the echo, and the state that follows (R160–R174,
R184). ALIGN_ERROR is posted at the 16th superframe in a row outside the window, once per run (DESIGN CHOICE, assumption 126). -/
def Dev.aligned (d : Dev) (n : Nat) (rx : List SlotRx) (sync : Bool) (arrival : Nat) : Dev :=
  let l := d.link n
  let st := l.state
  let valid := sfValid sync rx
  let bads := (rx.filter SlotRx.bad).length
  let crcBad := crc16 rx ≠ crc16Sent rx
  let was := l.status
  let mods := modsOf l.mods rx
  let e := echoResult rx (sentBits l.before ++ sentBits (l.word d.intake.sfc))
  let l := { l with
    mods := mods.getLastD l.mods
    badSlot := sat32 (l.badSlot + bads), crcFail := sat32 (l.crcFail + b2n crcBad), syncMiss := sat32 (l.syncMiss + b2n (!sync))
    changed := l.changed || bads ≠ 0 || crcBad || !sync
    status := if valid then some (serField rx 1 16 (l.status.getD 0)) else l.status
    relayState := if valid then serField rx 17 12 l.relayState else l.relayState }
  if st = .aligning then
    let l := { l with
      noSync := if sync then 0 else l.noSync + 1
      aligned := if valid && inWindow arrival then l.aligned + 1 else 0
      outside := if sync && !inWindow arrival then l.outside + 1 else 0 }
    if l.noSync ≥ 3 then d.setLink n { l with state := .down, found := 0 }
    else
      let d := ((d.setLink n l).firstStatus n was).echoChecks n e
      let d := if l.outside = 16 then d.postPod 0x06 n 0xFFFF [] else d
      if l.aligned ≥ 3 then d.linkUp' n else d
  else if valid then
    let d := ((d.setLink n { l with bad := 0 }).firstStatus n was).echoChecks n e
    ((d.upChecks n was).watchTest n rx mods was).feedLink n mods
  else
    let d := (d.setLink n { l with bad := l.bad + 1, unassignedRun := 0 }).echoChecks n e
    if l.bad + 1 ≥ 3 then d.loseLink n .down else d.feedLink n mods

/-- What 384 received slots do to a link (R161–R186): in DOWN they are those from a sync symbol on, and the second one 7,680 code bits
after the first aligns the link with its own superframe; in SHORT the third after a fault in UP is the loss (R196). The driver is off in
SHORT, and what comes in it is not looked at. -/
def Dev.superframe (d : Dev) (n : Fin 16) (slots : List Nat) (arrival : Nat) : Dev :=
  let l := d.link n
  if !d.metRuns || l.heard then d
  else
    let rx := slotsRx l.rxInv slots
    let code := codeOf l.rxInv (slots.headD 0) 3
    let sync := code = syncCode
    let flip := code = invSync
    let d := d.setLink n { l with heard := true }
    let d := if flip && l.state ≠ .short then
        (d.setLink n { d.link n with rxInv := !l.rxInv }).postPod 0x03 n 0xFFFF []
      else d
    let l := d.link n
    match l.state with
    | .down =>
      if !(sync || flip) then d.setLink n { l with found := 0 }
      else if l.found = 0 then d.setLink n { l with found := 1 }
      else
        (d.setLink n { l with
          state := .aligning, found := 0, aligned := 0, noSync := 0, outside := 0, invRun := 0, undecRun := 0
          toggling := false }).aligned n rx sync arrival
    | .short =>
      if !l.shortUp then d
      else if l.bad + 1 ≥ 3 then d.loseLink n .short
      else (d.setLink n { l with bad := l.bad + 1 }).feedLink n (modsOf l.mods rx)
    | _ => d.aligned n rx sync arrival

/-- SUPERFRAME_RECEIVED: the 384 slots that arrived on a link, 20 code bits each, and when slot 0 began, in hundredths of T after the
mid-bit instant of superframe bit time 0 (R162). Between two sample instants a link receives one. -/
def execSuperframeReceived (n : Fin 16) (slots : List Nat) (arrival : Nat) (s : State) : Host.Outcome State Fault Refusal :=
  s.ok (s.dev.superframe n slots arrival)

/-- SAMPLE_RELEASE: 2.0 ms after the link entered UP its samples are released and the unmetered interval is counted
(R167–R169). -/
def execSampleRelease (n : Fin 16) (s : State) : Host.Outcome State Fault Refusal :=
  let d := s.dev
  let l := d.link n
  if d.metRuns && l.state = .up && !l.released && l.upSince + ms 2 ≤ d.up then
    let add := match l.lostSince with | some t => superframes (d.up - t) | none => 0
    let d := d.setLink n { l with
      released := true, lostSince := none, unmetered := sat32 (l.unmetered + add), changed := l.changed || add ≠ 0 }
    s.ok (d.channelsBack (linkChannels n))
  else s.ok d

/-! ### Relays (R146, R179–R181) -/

/-- The frames of one link for the next superframe: a driver due to invert inverts; no relay at or above RELAY_COUNT is put under
command, and no TEST is sent on a link that meters; the half-bits leave while the driver is on (R144–R147, R173, R179, R180). -/
def Dev.nextFrame (d : Dev) (old n : Nat) : Dev :=
  let l := d.link n
  let valid := if d.tariff.relaysOn then l.cmdValid % 2 ^ l.relays else 0
  let relay := l.cmdRelay &&& valid
  let fresh := (List.range 12).filter fun r =>
    bitOf valid r && (bitOf l.relay r != bitOf relay r || !bitOf l.relayValid r)
  let m := { l with
    before := l.word old, heard := false, dnInv := l.dnInv != l.dnFlip, dnFlip := false
    relay := relay, relayValid := valid, test := if d.metered (linkChannels n) false then 0 else l.cmdTest, locate := l.cmdLocate
    sentAt := fresh.foldl (fun t r => t.set r d.up) l.sentAt
    compared := l.compared.filter fun r => !fresh.contains r }
  let d := d.setLink n m
  if m.state = .short && !m.retrying then d else d.emit (.downstream n (sentHalves (m.word d.intake.sfc) m.dnInv))

/-- The downstream frames of the next superframe on all sixteen links: the superframe count, and the relay, TEST and LOCATE values asked
for, which change only here (R141, R146). -/
def Dev.nextFrames (d : Dev) : Dev :=
  let old := d.intake.sfc
  let d := { d with intake := { d.intake with sfc := (old + 1) % 32 } }
  d.each (List.range 16) fun d n => d.nextFrame old n

/-- RELAY_MISMATCH: 500 ms after a command was first sent or the link entered UP, RELAY_STATE is compared with RELAY, and
a difference is posted once per command (R181). -/
def execRelayMismatch (n : Fin 16) (r : Fin 12) (s : State) : Host.Outcome State Fault Refusal :=
  let d := s.dev
  let l := d.link n
  let from_ := max (l.sentAt.get r 0) l.upSince
  if d.metRuns && l.state = .up && bitOf l.relayValid r && !l.compared.contains r.val && from_ + ms 500 ≤ d.up then
    let want := bitOf l.relay r
    let have_ := bitOf l.relayState r
    if want != have_ then
      s.ok ((d.setLink n { l with compared := r.val :: l.compared }).postPod 0x09 n 0xFFFF
        [⟨4, 1, r⟩, ⟨5, 1, b2n want⟩, ⟨6, 1, b2n have_⟩])
    else s.ok d
  else s.ok d

/-! ### Downstream faults (R176, R177, R196) -/

/-- A downstream fault (R176): for more than 5 µs, given in tenths, the driver's common-mode voltage in mV lies outside 0.9 V to 1.6 V,
or an output is at its current limit. -/
def dnFault (common : Nat) (limit : Bool) (tenths : Nat) : Bool := 50 < tenths && (limit || common < 900 || 1600 < common)

/-- DN_SHORT: a driver's outputs have stood at a common-mode voltage, or at the current limit, for so long. A fault disables the driver;
in a retry, the retry is counted. A link that was UP keeps its channels until the third superframe after the fault (R196). -/
def execDnShort (n : Fin 16) (common : Nat) (limit : Bool) (tenths : Nat) (s : State) : Host.Outcome State Fault Refusal :=
  let d := s.dev
  let l := d.link n
  if !d.metRuns || !dnFault common limit tenths then s.ok d
  else if l.state = .short then
    if l.retrying then s.ok (d.setLink n { l with retrying := false, shortRetry := sat32 (l.shortRetry + 1), changed := true })
    else s.ok d
  else
    s.ok ((d.setLink n { l with
      state := .short, shortUp := l.state = .up, retrying := false, switchedAt := d.up, bad := 0, found := 0 }).postPod 0x07 n 0xFFFF [])

/-- DN_SHORT_RETRY: every 100 ms in SHORT the driver is re-enabled for 1 ms: the first time 100 ms after it was disabled, then 100 ms
after the retry before began (R177; DESIGN CHOICE, assumption 127). -/
def execDnShortRetry (n : Fin 16) (s : State) : Host.Outcome State Fault Refusal :=
  let d := s.dev
  let l := d.link n
  if d.metRuns && l.state = .short && !l.retrying && l.switchedAt + ms 100 ≤ d.up then
    s.ok (d.setLink n { l with retrying := true, switchedAt := d.up })
  else s.ok d

/-- DN_SHORT_CLEAR: the retry's 1 ms ends without the fault, and the link goes to DOWN. A link whose loss was not yet
declared takes it with the move (R196). -/
def execDnShortClear (n : Fin 16) (s : State) : Host.Outcome State Fault Refusal :=
  let d := s.dev
  let l := d.link n
  if d.metRuns && l.state = .short && l.retrying && l.switchedAt + ms 1 ≤ d.up then
    let d := if l.shortUp then d.loseLink n .down else d
    s.ok ((d.setLink n { d.link n with state := .down, found := 0, retrying := false }).postPod 0x08 n 0xFFFF [])
  else s.ok d

/-! ### COUNTERS (Table 3.8, Table 19.15, R198, R224) -/

/-- COUNTERS: every 15 minutes in RUN, one long POD record for each link and direct input whose counters changed. Where no record is
posted the changes stay for the next (R236). -/
def execCounters (s : State) : Host.Outcome State Fault Refusal :=
  let d := s.dev
  if d.pwr.pstate ≠ .run || !d.serving || !d.quarterDue 0x31 then s.ok d
  else
    let d := d.quarter 0x31
    let d := d.each (d.links.keys.filter fun n => (d.link n).changed) fun d n =>
      let l := d.link n
      let d := d.setLink n { l with changed := false }
      d.postPod 0x0D n 0xFFFF
        ([⟨4, 4, l.badSlot⟩, ⟨8, 4, l.crcFail⟩, ⟨12, 4, l.syncMiss⟩, ⟨16, 4, l.lossCount⟩, ⟨20, 4, l.shortRetry⟩,
          ⟨24, 4, l.unmetered⟩, ⟨28, 2, l.status.getD 0⟩] ++
          (List.range 12).flatMap fun i =>
            [⟨32 + 8 * i, 4, (d.chan (12 * n + i)).overSecs⟩, ⟨36 + 8 * i, 4, (d.chan (12 * n + i)).flatCount⟩]) 128
    s.ok (d.each (d.intake.dms.keys.filter fun x => (d.dm x).changed) fun d x =>
      let m := d.dm x
      let d := d.updDm x fun m => { m with changed := false }
      d.postPod 0x0D (16 + x) (192 + x) [⟨4, 4, m.codeErr⟩, ⟨8, 4, m.lossCount⟩, ⟨12, 4, m.unmetered⟩,
        ⟨16, 4, (d.chan (192 + x)).overSecs⟩, ⟨20, 4, (d.chan (192 + x)).flatCount⟩])

end Sys2Proof.Machine
end

