-- ==== Sys2Proof/Machine/Intake.lean ====
section
/-!
DEFINITION. Machine/Intake.lean: flatline and overload of the current channels, and the direct inputs (chapter 4).
-/
namespace Sys2Proof.Machine

/-- CH_FLATLINE: a channel whose link is UP, or whose input is locked, has given 64 equal bits (R217). -/
def execChFlatline (c : Fin 196) (s : State) : Host.Outcome State Fault Refusal :=
  let d := s.dev
  match (d.stream c).seen with
  | some (bit, since) =>
    if d.metRuns && d.watched c && !(d.chan c).flat then s.ok (d.startFlat c (b2n bit) since) else s.ok d
  | none => s.ok d

/-- When a flatline of channel `c` ends, once its run of equal bits has: 2.0 ms after the end of the last run of 64, and after the input
locked again (R219, R234). -/
def Dev.flatUntil (d : Dev) (c : Nat) : Nat := max (d.stream c).runEnd (d.chan c).backAt + ms 2

/-- CH_FLATLINE_END: samples are released and the unmetered time is counted (R219). -/
def execChFlatlineEnd (c : Fin 196) (s : State) : Host.Outcome State Fault Refusal :=
  let d := s.dev
  let x := d.chan c
  if d.metRuns && x.flat && d.watched c && (d.stream c).run < 64 && d.flatUntil c ≤ d.up then
    let n := superframes (d.up - x.flatSince)
    let d := (d.updChan c fun x => { x with flat := false, backAt := 0 }).setStream c { d.stream c with seen := none }
    let d := if 192 ≤ c.val then d.updDm (c - 192) fun m => { m with unmetered := sat32 (m.unmetered + n) }
      else d.setLink (c / 12) { d.link (c / 12) with unmetered := sat32 ((d.link (c / 12)).unmetered + n) }
    s.ok (((d.markCounter c).channelsBack [c.val]).postChan 0x13 c [])
  else s.ok d

/-- CH_OVERLOAD_END: 1 s with no overloaded sinc3 output (R220). -/
def execChOverloadEnd (c : Fin 196) (s : State) : Host.Outcome State Fault Refusal :=
  let d := s.dev
  let x := d.chan c
  if d.metRuns && x.ovl && x.lastOver + second ≤ d.up then s.ok (d.endOverload c) else s.ok d

/-! ### Direct inputs (Table 4.1, R202–R206) -/

/-- The bit of a CLOCKED input: its level DM_SKEW × T/8 after the MCLK edge. -/
def DmBit.clocked (b : DmBit) (skew : Nat) : Bool := bitOf b.levels skew

/-- The bit of a MANCHESTER input whose mid-bit transition falls between 0.75 T and 2.5 T after the MCLK_OUT edge: a 1 falls. -/
def DmBit.manchester (b : DmBit) : Option Bool :=
  match b.edge with
  | some (at_, falls) => if 75 ≤ at_ && at_ ≤ 250 then some falls else none
  | none => none

/-- One bit time of a MANCHESTER input that begins at `at_`: the runs with and without a transition, and the bit, which without one is
the complement of the bit before, counted in CODE_ERR on a locked input until the 16th makes the loss (R203, R204). -/
def DirectIn.take (m : DirectIn) (b : DmBit) (last : Bool) (at_ : Nat) : DirectIn × Bool :=
  match b.manchester with
  | some v => ({ m with goodRun := m.goodRun + 1, badRun := 0 }, v)
  | none =>
    let err := m.locked && m.badRun < 16
    ({ m with goodRun := 0, badRun := m.badRun + 1, badFrom := if m.badRun = 0 then at_ else m.badFrom
              codeErr := sat32 (m.codeErr + b2n err), changed := m.changed || err }, !last)

/-- The bit times of one sample period on direct input `x`, as its mode takes them; those of a locked input enter its channel's chain. -/
def Dev.takeDm (d : Dev) (x : Nat) (bs : List DmBit) : Dev :=
  let c := 192 + x
  if bs.isEmpty then d
  else if d.dmMode x = 1 then d.feed c (bs.map fun b => b.clocked (d.dmCfg x / 8 % 8))
  else if d.dmMode x = 2 then
    let r := bs.foldl (fun (p : DirectIn × Bool × List Bool × Nat) b =>
      let q := p.1.take b p.2.1 (d.up - tUnits p.2.2.2)
      (q.1, q.2, q.2 :: p.2.2.1, p.2.2.2 - 1)) (d.dm x, (d.stream c).bits.headD false, [], bs.length)
    let d := d.updDm x fun _ => r.1
    if (d.dm x).locked then d.feed c r.2.2.1.reverse else d
  else d

/-- POD_REMOVED for a MANCHESTER loss of an input that is in flatline already (R225). -/
def Dev.lostInFlat (d : Dev) (c : Nat) : Dev :=
  if c ≤ 194 && (d.acct 64).shown = 2 then d.tamper 0x0A (16 + (c - 192)) d.now else d

/-- DM_LOCK: a MANCHESTER input has given 64 consecutive valid mid-bit transitions (R203); a flatline for its loss ends 2.0 ms later
(R219). -/
def execDmLock (x : Fin 4) (s : State) : Host.Outcome State Fault Refusal :=
  let d := s.dev
  let m := d.dm x
  if d.metRuns && d.dmMode x = 2 && !m.locked && 64 ≤ m.goodRun then
    let d := (d.updDm x fun m => { m with locked := true, alignPosted := none }).setStream (192 + x) {}
    let d := if (d.chan (192 + x)).flat then d.updChan (192 + x) fun c => { c with backAt := d.up } else d
    s.ok (d.postChan 0x14 (192 + x) [])
  else s.ok d

/-- DM_INPUT_LOST: 16 bit times without a transition; the loss is handled as a flatline from the first of them (R203, R204, R225). -/
def execDmInputLost (x : Fin 4) (s : State) : Host.Outcome State Fault Refusal :=
  let d := s.dev
  let m := d.dm x
  if d.metRuns && d.dmMode x = 2 && m.locked && 16 ≤ m.badRun then
    let d := if (d.chan (192 + x)).flat then d.lostInFlat (192 + x) else d.startFlat (192 + x) 0xFF m.badFrom
    s.ok (d.updDm x fun m =>
      { m with locked := false, unlockedSince := d.up, alignPosted := none, lossCount := sat32 (m.lossCount + 1), changed := true })
  else s.ok d

/-- DM_ALIGN_ERROR: a configured MANCHESTER input has not locked for 1 s; again every 60 s (Table 4.4). -/
def execDmAlignError (x : Fin 4) (s : State) : Host.Outcome State Fault Refusal :=
  let d := s.dev
  let m := d.dm x
  let due := match m.alignPosted with | some t => t + 60 * second ≤ d.up | none => m.unlockedSince + second ≤ d.up
  if d.metRuns && d.dmMode x = 2 && !m.locked && due then
    s.ok ((d.updDm x fun m => { m with alignPosted := some d.up }).postChan 0x15 (192 + x) [])
  else s.ok d

/-- A changed DM_CFG takes effect: the input is re-acquired, treated as in flatline until it is locked and 2.0 ms have passed (R234). -/
def Dev.reacquire (d : Dev) (x : Nat) : Dev :=
  let c := 192 + x
  let d := if (d.chan c).flat then d else
    (d.updChan c fun y => { y with flat := true, flatSince := d.up }).channelsLost [c] d.up
  let d := d.updDm x fun m =>
    { m with locked := false, goodRun := 0, badRun := 0, unlockedSince := d.up, alignPosted := none }
  (d.setStream c {}).updChan c fun y => { y with backAt := if d.dmMode x = 1 then d.up else 0 }

end Sys2Proof.Machine
end

