-- ==== Sys2Proof/Machine/AuxSeq.lean ====
section
/-!
DEFINITION. Machine/AuxSeq.lean: the aux sequencer: definitions, triggers, runs, windows and AUX_READ (chapter 6).
-/
namespace Sys2Proof.Machine

def Dev.setAux (d : Dev) (a : Aux) : Dev := { d with aux := a }

/-! ### The definition (Tables 6.1 to 6.3) -/

def seqCount (b : List Byte) : Nat := fieldAt b 0 1
def seqPolicy (b : List Byte) : Nat := fieldAt b 1 1
def seqTrig (b : List Byte) (i : Nat) : Bool := bitOf (fieldAt b 2 1) i
def seqZx (b : List Byte) : Nat := fieldAt b 3 1
def seqZxDiv (b : List Byte) : Nat := fieldAt b 4 2
def compInput (b : List Byte) (n : Nat) : Nat := fieldAt b (8 + 4 * n) 1
def compEdge (b : List Byte) (n : Nat) : Nat := fieldAt b (10 + 4 * n) 1 / 4 % 4
def entChannel (b : List Byte) (e : Nat) : Nat := fieldAt b (32 + 8 * e) 1
def entFormat (b : List Byte) (e : Nat) : Nat := fieldAt b (33 + 8 * e) 1 % 4
def entWin (b : List Byte) (e : Nat) : Bool := bitOf (fieldAt b (33 + 8 * e) 1) 4
def entPersist (b : List Byte) (e : Nat) : Nat := fieldAt b (33 + 8 * e) 1 / 32
def entLow (b : List Byte) (e : Nat) : Nat := fieldAt b (34 + 8 * e) 2
def entHigh (b : List Byte) (e : Nat) : Nat := fieldAt b (36 + 8 * e) 2

/-- A channel code converts differentially (Table 6.1). -/
def chanDiff (c : Nat) : Bool := c = 0x10 || c = 0x12 || c = 0x14 || c = 0x16

/-- A code of Table 6.1. -/
def chanOk (c : Nat) : Bool := c ≤ 7 || chanDiff c || (0x20 ≤ c && c ≤ 0x25)

/-- The comparison of a window is signed (R295). -/
def entSigned (b : List Byte) (e : Nat) : Bool :=
  entFormat b e = 2 || (entFormat b e = 1 && chanDiff (entChannel b e))

/-- A 16-bit slot value as the window compares it. -/
def winValue (b : List Byte) (e v : Nat) : Int := if entSigned b e then asSigned 16 v else (v : Int)

/-- R284, R288, R289 on a block whose descriptor has length `len`. -/
def seqOk (b : List Byte) (len : Nat) : Bool :=
  let n := seqCount b
  1 ≤ n && n ≤ 16 && 32 + 8 * n ≤ len && seqPolicy b ≤ 2 && seqZxDiv b ≠ 0 &&
    (List.range n).all (fun e =>
      chanOk (entChannel b e) && entFormat b e ≠ 3 && !(entFormat b e = 2 && !chanDiff (entChannel b e)) &&
        !(entFormat b e = 0 && chanDiff (entChannel b e)) &&
        winValue b e (entLow b e) ≤ winValue b e (entHigh b e)) &&
    (List.range 4).all fun i => compEdge b i ≠ 3 && !(seqTrig b (i + 1) && compInput b i = 0xFF)

/-- The negotiation in effect did not accept AUX_SEQ (R292). -/
def Dev.auxRefused (d : Dev) : Bool := d.host.acceptedMet ≠ 0#64 && !d.hasMet 11

/-- The sequencer is in STOPPED: no definition in effect, Converter B failed, or a negotiation that did not accept AUX_SEQ
(R291, R292, R308). -/
def Dev.auxStopped (d : Dev) : Bool := d.aux.seq.isNone || !d.volt.healthB.good || d.auxRefused

/-! ### AUX_READ's block (Table 6.6) -/

/-- The block as it stands. -/
def Dev.auxBlock (d : Dev) : List Byte :=
  let a := d.aux
  let b := a.seq.getD []
  let n := if a.seq.isSome then seqCount b else 0
  let st := if d.auxStopped then 3 else if a.queued.isSome then 2 else if a.run.isSome then 1 else 0
  layout 288 ((List.range 16).flatMap (fun e =>
      let s := a.slots.get e {}
      ([⟨16 * e, 2, s.value⟩, ⟨16 * e + 2, 1, b2n s.stale + 2 * b2n s.out + 4 * b2n s.clip⟩,
        ⟨16 * e + 3, 1, if e < n then entChannel b e else 0xFF⟩, ⟨16 * e + 4, 4, s.run⟩, ⟨16 * e + 8, 8, s.time⟩] : List Fld)) ++
    [⟨256, 4, a.runCount⟩, ⟨260, 4, a.overrun⟩, ⟨264, 4, a.restarts⟩, ⟨268, 4, a.noConv⟩, ⟨272, 1, st⟩,
      ⟨273, 1, a.compLevel⟩, ⟨276, 4, a.windowExits⟩] ++
    (List.range 4).map fun i => ⟨280 + 2 * i, 2, a.compCount.get i 0⟩)

/-- AUX_READs that waited for a run get the block and complete: OK at its end, ABORTED at its abort (R303, R304). -/
def Dev.auxAnswer (d : Dev) (xs : List Desc) (aborted : Bool) : Dev :=
  d.each xs fun d x =>
    let d := d.output x d.auxBlock
    if aborted then d.done x.ref stAborted else d.doneWith x.ref d.aux.runCount

/-! ### Runs (R298, R299, Table 6.4) -/

/-- A run starts, with the AUX_READs that wait for it; it samples from `ready` on. -/
def Dev.auxStart (d : Dev) (waiting : List Desc) (ready : Nat) : Dev :=
  let n := wrap 32 (d.aux.runCount + 1)
  d.setAux { d.aux with runCount := n, run := some { next := 0, number := n, waiting := waiting, ready := ready } }

/-- The running run is aborted: entries not yet sampled are stale; those sampled still write their slots. -/
def Dev.auxAbort (d : Dev) (count : Bool) : Dev :=
  match d.aux.run with
  | none => d
  | some r =>
    let b := d.aux.seq.getD []
    let slots := (span r.next (seqCount b - r.next)).foldl
      (fun t e => t.set e { t.get e {} with stale := true }) d.aux.slots
    let d := d.setAux { d.aux with
      run := none, slots := slots, restarts := if count then sat32 (d.aux.restarts + 1) else d.aux.restarts }
    d.auxAnswer r.waiting true

/-- The 2 T boundary of the metrology clock at which a trigger of now is registered: the next one (R298). -/
def Dev.auxBoundary (d : Dev) : Nat := d.up + clocks (8 - d.pwr.smpClocks % 8)

/-- A dropped trigger completes its AUX_READ with BUSY (R304). -/
def Dev.auxBusy (d : Dev) (x : Option Desc) : Dev := match x with | some y => d.done y.ref stBusy | none => d

/-- What became of a trigger already registered at the boundary that comes: those registered at one boundary count as one (R298). -/
def Dev.auxSame (d : Dev) : Option Nat :=
  match d.aux.trigAt with
  | some (t, what) => if d.up + 2 < t then some what else none
  | none => none

/-- A trigger, with the AUX_READ that issued it. -/
def Dev.auxTrigger (d : Dev) (x : Option Desc) : Dev :=
  let b := d.aux.seq.getD []
  let xs := x.toList
  let mark := fun what => d.setAux { d.aux with trigAt := some (d.auxBoundary, what) }
  let ready := d.auxBoundary + clocks 8
  if d.auxStopped then
    let d := if d.auxSame = some 3 then d
      else (mark 3).setAux { (mark 3).aux with noConv := sat32 (d.aux.noConv + 1) }
    match x with | some y => d.done y.ref stNotReady | none => d
  else match d.auxSame, d.aux.run, d.aux.queued with
    | some 0, some r, _ => d.setAux { d.aux with run := some { r with waiting := r.waiting ++ xs } }
    | some 1, _, some q => d.setAux { d.aux with queued := some (q ++ xs) }
    | some 2, _, _ => d.auxBusy x
    | _, none, _ => (mark 0).auxStart xs ready
    | _, some _, q =>
      if seqPolicy b = 1 then ((mark 0).auxAbort true).auxStart xs ready
      else if seqPolicy b = 0 && q.isNone then (mark 1).setAux { (mark 1).aux with queued := some xs }
      else ((mark 2).setAux { (mark 2).aux with overrun := sat32 (d.aux.overrun + 1) }).auxBusy x

/-- The cycle tracker confirms a crossing: every ZX_DIV-th counted one triggers (Table 6.2, R313). -/
def Dev.auxZero (d : Dev) (positive : Bool) : Dev :=
  match d.aux.seq with
  | none => d
  | some b =>
    if seqTrig b 0 && (positive || bitOf (seqZx b) 0) then
      let n := d.aux.zxCount + 1
      if n ≥ seqZxDiv b then (d.setAux { d.aux with zxCount := 0 }).auxTrigger none
      else d.setAux { d.aux with zxCount := n }
    else d

/-- Hysteresis of a comparator in nanovolts, and the time its filter asks for in 0.1 µs (Table 6.2). -/
def compHyst (b : List Byte) (n : Nat) : Nat :=
  match fieldAt b (10 + 4 * n) 1 % 4 with | 0 => 0 | 1 => 10000000 | 2 => 20000000 | _ => 40000000
def compFilter (b : List Byte) (n : Nat) : Nat :=
  match fieldAt b (10 + 4 * n) 1 / 16 % 4 with | 0 => 0 | 1 => 10 | 2 => 100 | _ => 1000

/-- A comparator's output for a ball at `nv` nanovolts that has stood there for `tenths` of a µs: THRESH × 4.6875 mV is where it falls,
and it rises above that by the hysteresis; within the filter's time it stays as it was (R286; assumption 131). -/
def compNext (b : List Byte) (n : Nat) (was : Bool) (nv tenths : Nat) : Bool :=
  let low := fieldAt b (9 + 4 * n) 1 * 4687500
  let raw := if was then decide (low ≤ nv) else decide (low + compHyst b n < nv)
  if compFilter b n ≤ tenths then raw else was

/-- COMP_CROSSING: a comparator's ball comes to a level and stays there: an edge of the filtered output counts and triggers as
configured (R286, R287); it triggers nothing while AUX_SEQ is not accepted (R292). -/
def execCompCrossing (n : Fin 4) (nv tenths : Nat) (s : State) : Host.Outcome State Fault Refusal :=
  let d := s.dev
  match d.aux.seq with
  | some b =>
    let was := bitOf d.aux.compLevel n
    let rising := compNext b n was nv tenths
    if d.awake && d.metRuns && compInput b n ≤ 7 && rising ≠ was then
      let bit := 2 ^ n.val
      let lv := if rising then d.aux.compLevel ||| bit else d.aux.compLevel &&& (15 - bit)
      let e := compEdge b n
      let d := d.setAux { d.aux with compLevel := lv }
      if e = 2 || (e = 0) = rising then
        let d := (d.captureTrig 3 n d.up)
        let d := d.setAux { d.aux with compCount := d.aux.compCount.upd n 0 fun k => satTo 16 (k + 1) }
        s.ok (if seqTrig b (n + 1) && !d.auxRefused then d.auxTrigger none else d)
      else s.ok d
    else s.ok d
  | none => s.ok d

/-! ### Results (R283, R285, R293–R297) -/

/-- The code of a conversion of so many nanovolts: ⌊V / 1.2 V × 16,384⌋ of a single-ended channel, ⌊V / 1.2 V × 8,192⌋ of a pair, held
within its range; and whether it stands at an end code (R283, R285). -/
def convCode (diff : Bool) (nv : Int) : Int × Bool :=
  let c := if diff then clampI (-8192) 8191 (nv * 8192 / 1200000000) else clampI 0 16383 (nv * 16384 / 1200000000)
  (c, if diff then c = -8192 || c = 8191 else c = 0 || c = 16383)

/-- The 16-bit slot value of a code in an entry's format (R293). -/
def slotValue (format : Nat) (code : Int) : Nat := if format = 1 then twos 16 (code * 4) else twos 16 code

/-- A conversion is written to its slot: window, and AUX_WINDOW as the window leaves its band. One sampled for a definition no longer in
effect writes its value and leaves STALE and the window as R290 set them (assumption 132). -/
def Dev.auxWrite (d : Dev) (x : AuxConv) : Dev :=
  let b := d.aux.seq.getD []
  let e := x.entry
  let s := d.aux.slots.get e {}
  let v := x.value
  let s := { s with value := v, clip := x.clip, run := x.number, time := x.time }
  if x.old then d.setAux { d.aux with slots := d.aux.slots.set e s }
  else
    let out := !(winValue b e (entLow b e) ≤ winValue b e v && winValue b e v ≤ winValue b e (entHigh b e))
    let persist := if out then min (s.persist + 1) (entPersist b e + 1) else 0
    let exits := entWin b e && out && !s.out && persist ≥ entPersist b e + 1
    let s := { s with
      stale := false, out := if entWin b e then (s.out && out) || exits else false
      persist := if entWin b e then persist else 0 }
    let d := d.setAux { d.aux with
      slots := d.aux.slots.set e s, windowExits := if exits then sat32 (d.aux.windowExits + 1) else d.aux.windowExits }
    if exits then
      d.post { ty := 0x10, epoch := d.epoch 0x42, time := x.time,
               pay := [⟨0, 1, 0x60⟩, ⟨2, 1, e⟩, ⟨3, 1, entChannel b e⟩, ⟨4, 2, v⟩, ⟨6, 2, entLow b e⟩, ⟨8, 2, entHigh b e⟩,
                 ⟨12, 4, x.number⟩] }
    else d

/-- Positions of Converter B's frame that the sequence has (Tables 5.2 and 6.5). -/
def Dev.auxPositions (d : Dev) : List Nat :=
  if d.volt.frameB = 0 then List.range 7
  else if d.volt.frameB = 1 then (if d.volt.healthA.good then [0, 4, 7] else [0, 4])
  else []

/-- This metrology clock begins an aux position that has not been used: positions are 2 T apart, and a frame of eight begins at every
sample boundary (R242, R299). -/
def Dev.auxFree (d : Dev) : Bool :=
  d.pwr.smpClocks % 8 = 0 && d.auxPositions.contains (d.pwr.smpClocks % 64 / 8) &&
    (match d.aux.lastAt with | some t => decide (t + 2 < d.up) | none => true)

/-- The next entry of the running run is sampled. -/
def Dev.auxSample (d : Dev) (r : AuxRun) (nv : Int) : Dev :=
  let b := d.aux.seq.getD []
  let (c, clip) := convCode (chanDiff (entChannel b r.next)) nv
  let x : AuxConv := ⟨r.next, r.number, slotValue (entFormat b r.next) c, clip, d.up, d.now, false⟩
  d.setAux { d.aux with
    run := some { r with next := r.next + 1 }, sampled := d.aux.sampled ++ [x], lastAt := some d.up }

/-- The oldest sampled conversion is written; the result of a run's last entry ends the run, and a pending run starts at the first aux
position at or after that (R299, Table 6.4). -/
def Dev.auxResult (d : Dev) (x : AuxConv) (rest : List AuxConv) : Dev :=
  let d := (d.setAux { d.aux with sampled := rest }).auxWrite x
  match d.aux.run with
  | some r =>
    if x.number = r.number && x.entry + 1 = seqCount (d.aux.seq.getD []) then
      let d := (d.setAux { d.aux with run := none }).auxAnswer r.waiting false
      match d.aux.queued with
      | some xs => (d.setAux { d.aux with queued := none }).auxStart xs d.up
      | none => d
    else d
  | none => d

/-- AUX_CONVERSION: Converter B samples the next entry at an aux position, or a conversion sampled 18 T ago gives its result (R242,
R299). -/
def execAuxConversion (c : AuxStep) (s : State) : Host.Outcome State Fault Refusal :=
  let d := s.dev
  if !d.metRuns then s.ok d
  else match c, d.aux.run, d.aux.sampled with
    | .sample nv, some r, _ =>
      if r.next < seqCount (d.aux.seq.getD []) && d.auxFree && r.ready ≤ d.up + 1 then s.ok ((d.auxSample r nv).emit (.testPulse 1)) else s.ok d
    | .result, _, x :: rest => if x.at_ + clocks 72 ≤ d.up + 1 then s.ok (d.auxResult x rest) else s.ok d
    | _, _, _ => s.ok d

/-! ### Changes (R290, R292, R308) -/

/-- A definition takes effect at a commit tick. -/
def Dev.applyAux (d : Dev) (b : List Byte) : Dev :=
  let q := d.aux.queued.getD []
  let d := d.auxAbort true
  let d := d.setAux { d.aux with
    seq := some b, queued := none, sampled := d.aux.sampled.map fun (x : AuxConv) => { x with old := true }
    slots := Tbl.ofFn (List.range 16) fun e => { d.aux.slots.get e {} with stale := true, out := false, persist := 0 } }
  (d.auxAnswer q true).bump 0x42

/-- The run is aborted and the pending trigger cleared without a count, as Converter B fails or AUX_SEQ is no longer
accepted; the sequencer is STOPPED (R292, R308). -/
def Dev.auxHalt (d : Dev) : Dev :=
  let d := d.auxAbort false
  let q := d.aux.queued.getD []
  (d.setAux { d.aux with queued := none }).auxAnswer q true

/-- A definition as kept: its defined bytes (R11). -/
def seqKept (b : List Byte) : List Byte :=
  let n := seqCount b
  layout (32 + 8 * n) ([⟨0, 1, n⟩, ⟨1, 1, seqPolicy b⟩, ⟨2, 1, fieldAt b 2 1 % 32⟩, ⟨3, 1, seqZx b % 4⟩, ⟨4, 2, seqZxDiv b⟩] ++
    (List.range 4).map (fun i => ⟨8 + 4 * i, 3, fieldAt b (8 + 4 * i) 3 % 2 ^ 22⟩) ++
    (List.range n).flatMap fun e => [⟨32 + 8 * e, 1, entChannel b e⟩,
      ⟨33 + 8 * e, 1, entFormat b e + fieldAt b (33 + 8 * e) 1 / 16 * 16⟩, ⟨34 + 8 * e, 4, fieldAt b (34 + 8 * e) 4⟩])

/-- AUX_SEQ_SET (0x0090) (R288–R290): with STORE the AUX group is written first; without, a
stored block is erased. Accepted definitions take effect in the order of their acceptance. -/
def execAuxSeqSet (x : Desc) (s : State) : Host.Outcome State Fault Refusal :=
  s.ok (s.dev.command x { opcode := 0x0090, feature := some 11, entry := some 0x42 } (fun _ _ => 0) fun d _ =>
    if x.len < 40 then d.done x.ref stBadArg
    else d.withInput x fun bs =>
      if !seqOk bs x.len then d.done x.ref stBadArg
      else if bitOf (seqZx bs) 1 then d.queueWrite x.ref 0x07 0 (seqKept bs)
      else
        let d := { d with store := { d.store with due := d.store.due ++ [({ group := 0x07, key := 0, block := seqKept bs, cmd := none } : GroupWrite)] } }
        let d := if (d.slotsOf 0x07).isEmpty then d else d.beginErase 0x07 (d.ringSectors 0x07)
        d.done x.ref stOK)

/-- AUX_READ (0x0091) (R303, R304). -/
def execAuxRead (x : Desc) (s : State) : Host.Outcome State Fault Refusal :=
  s.ok (s.dev.command x { opcode := 0x0091, feature := some 11, entry := some 0x42 } (fun _ _ => 0) fun d _ =>
    if x.len < 288 then d.done x.ref stBadArg
    else if bitOf (x.arg 24 1) 0 then d.auxTrigger (some x)
    else (d.output x d.auxBlock).doneWith x.ref d.aux.runCount)

end Sys2Proof.Machine
end

