-- ==== Sys2Proof/Machine/Blocks.lean ====
section
/-!
DEFINITION. Machine/Blocks.lean: the ledger's blocks and the config store's slots as bytes, and the read windows the
mover sees (chapter 12).
-/
namespace Sys2Proof.Machine

/-! ### Ledger blocks (Tables 12.1 to 12.7, 12.12a, 13.6, 23.5; R669, R670) -/

/-- A ledger block: its header, its fields and its CRC (R559). -/
def blockOf (id size flags seq : Nat) (fs : List Fld) : List Byte :=
  let b := layout size ([⟨0, 2, id⟩, ⟨2, 2, size⟩, ⟨4, 2, flags⟩, ⟨8, 8, seq⟩] ++ fs)
  pasteAt b (size - 4) (leBytes 4 (crc32 (b.take (size - 4))))

/-- Fields for the indices below `n`, each of `sz` bytes at `off + step·i`. -/
def fieldsOf (n off step sz : Nat) (f : Nat → Nat) : List Fld := (List.range n).map fun i => ⟨off + step * i, sz, f i⟩

/-- CFG of Table 12.5 at offset 208. -/
def AcctCfg.fields (c : AcctCfg) : List Fld :=
  [⟨208, 1, c.conn⟩, ⟨209, 1, c.dirmode⟩, ⟨210, 1, c.target⟩] ++ fieldsOf 3 211 2 2 (fun k => c.ch.get k 0xFFFF) ++
    fieldsOf 3 217 1 1 fun k => c.ph.get k 0xFF

/-- The LEGAL block of account `a` (Table 12.5). -/
def Legal.bytes (l : Legal) (a seq : Nat) : List Byte :=
  blockOf (0x0100 + a) 320 (2 * b2n l.fresh) seq
    (fieldsOf 16 16 8 8 (fun i => l.reg.get i 0) ++ fieldsOf 16 144 4 4 (fun i => l.res.get i 0) ++ l.cfg.fields ++
      (List.range 9).map (fun i => sfld (224 + 4 * i) 4 (l.infilter.get i 0)) ++ [⟨260, 8, l.freshSince⟩])

/-- TARIFF_STATE (Table 13.6) at offset 368. -/
def TariffState.fields (t : TariffState) : List Fld :=
  [⟨368, 1, t.rate⟩, ⟨369, 1, t.grid⟩, ⟨370, 1, t.openReasons⟩, ⟨371, 1, t.tflags⟩, ⟨372, 1, t.relayMode⟩,
    ⟨374, 2, t.llCount⟩, ⟨376, 2, t.recloseLeft⟩, ⟨378, 2, t.trips⟩, ⟨380, 4, t.voucher⟩, ⟨384, 8, t.creditRes⟩,
    ⟨392, 8, t.demandStart⟩] ++ fieldsOf 8 400 4 4 fun r => t.demandE.get r 0

/-- The OPEN block of account `a` (Table 12.6). -/
def OpenBlk.bytes (o : OpenBlk) (a seq : Nat) : List Byte :=
  blockOf (0x0200 + a) 512 0 seq
    (fieldsOf 16 16 8 8 (fun i => o.rate.get i 0) ++ fieldsOf 16 144 4 4 (fun i => o.rateRes.get i 0) ++
      fieldsOf 8 208 16 8 (fun r => (o.demand.get r (0, 0)).1) ++ fieldsOf 8 216 16 8 (fun r => (o.demand.get r (0, 0)).2) ++
      [sfld 336 8 o.credit, ⟨344, 8, o.unmetered⟩, ⟨352, 4, o.unmetRes⟩, ⟨356, 4, o.suspendCount⟩, ⟨360, 1, o.epoch⟩,
        ⟨361, 1, b2n o.relayClosed + 2 * b2n o.relayValid⟩, ⟨362, 2, b2n o.openLost + 2 * b2n o.suspended⟩] ++ o.tst.fields)

/-- The SEAL block (Table 12.4). -/
def SealBlk.bytes (s : SealBlk) (seq : Nat) : List Byte :=
  blockOf 0x0002 192 0 seq
    ([⟨16, 4, s.calEvents⟩, ⟨24, 8, s.pkgVersion⟩, ⟨32, 8, s.lastChange⟩, ⟨40, 8, s.lastOpen⟩] ++
      fieldsOf 3 48 8 4 (fun j => s.grpSseq.get j 0) ++ fieldsOf 3 52 8 4 fun j => s.grpPcrc.get j 0)

/-- The DEVICE block (Table 12.4a). -/
def DeviceBlk.bytes (v : DeviceBlk) (seq : Nat) : List Byte :=
  blockOf 0x0003 256 0 seq
    ([⟨16, 1, v.grid⟩, ⟨17, 1, v.gridSource⟩, ⟨18, 1, b2n v.gridHeld⟩, ⟨24, 8, v.arrival⟩] ++
      fieldsOf 9 32 4 4 (fun i => v.counts.get i 0) ++ fieldsOf 64 68 1 1 fun s => v.weak.get s 0)

/-- The PULSE block (R539). -/
def PulseBlk.bytes (p : PulseBlk) (seq : Nat) : List Byte :=
  blockOf 0x0004 256 0 seq
    ((List.range 8).map (fun o => (⟨16 + 16 * o, 12, twos 96 (p.acc.get o 0)⟩ : Fld)) ++
      fieldsOf 8 28 16 4 fun o => p.pending.get o 0)

/-- The ERRORS block (Tables 12.2 and 23.5). -/
def ErrBlk.bytes (e : ErrBlk) (seq : Nat) : List Byte :=
  blockOf 0x0005 256 0 seq
    (fieldsOf 16 16 8 4 (fun g => e.count.get g 0) ++ fieldsOf 16 20 8 4 (fun g => e.reported.get g 0) ++
      [⟨144, 2, e.fatalCode⟩, ⟨146, 1, e.fatalCause⟩, ⟨147, 1, b2n e.fatalAcked⟩, ⟨148, 8, e.fatalTime⟩,
        ⟨156, 4, e.fatalFollow⟩] ++ e.fatalDetail.map (fun f => { f with off := 160 + f.off }) ++ [⟨188, 4, e.queueLost⟩] ++
      fieldsOf 4 192 4 4 (fun c => e.classCount.get c 0) ++ fieldsOf 4 208 2 2 fun c => e.firstCode.get c 0)

/-- The COUNTERS block (R670). -/
def CounterBlk.bytes (c : CounterBlk) (seq : Nat) : List Byte :=
  blockOf 0x0006 1024 0 seq
    (fieldsOf 64 16 8 8 (fun t => c.tceil.get t 0) ++ [⟨528, 4, c.lceil⟩] ++ fieldsOf 65 536 4 4 fun a => c.snapSeq.get a 0)

/-- The KEYPTR block (R669). -/
def keyptrBytes (k : Tbl KeyPtr) (seq : Nat) : List Byte :=
  blockOf 0x0007 1024 0 seq
    ((List.range 66).flatMap fun o =>
      let e := k.get o {}
      ([⟨16 + 12 * o, 1, e.active⟩, ⟨20 + 12 * o, 4, e.gen⟩, ⟨24 + 12 * o, 4, e.commits⟩] : List Fld))

/-- The TAMPER block (R562). -/
def tamperBytes (t : Tbl TSlot) (seq : Nat) : List Byte :=
  blockOf 0x0008 6176 0 seq
    ((List.range 256).flatMap fun s =>
      let x := t.get s {}
      ([⟨16 + 24 * s, 4, x.count⟩, ⟨20 + 24 * s, 8, x.first⟩, ⟨28 + 24 * s, 8, x.last⟩, ⟨36 + 24 * s, 1, b2n x.lost⟩] : List Fld))

/-- A RECOVERY candidate (Table 12.12a); its IMAGE is the LEGAL image as held. -/
def Candidate.bytes (c : Candidate) (n seq : Nat) : List Byte :=
  let image := if c.account = 0xFF then [] else c.image.bytes c.account c.seq
  blockOf (0x0300 + n) 384 0 seq [⟨16, 1, c.account⟩, ⟨24, 8, c.found⟩, ⟨32, 320, leNat image⟩]

/-- The blocks of one copy with their offsets and sizes (Table 12.2). -/
def ledgerMap : List (Nat × Nat × Nat) :=
  [(0x0001, 0, 64), (0x0002, 0x40, 192), (0x0003, 0x100, 256), (0x0004, 0x200, 256), (0x0005, 0x300, 256),
    (0x0006, 0x400, 1024), (0x0007, 0x800, 1024)] ++ (List.range 65).map (fun a => (0x0100 + a, 0xC00 + 0x140 * a, 320)) ++
    (List.range 65).map (fun a => (0x0200 + a, 0x5D40 + 0x200 * a, 512)) ++ [(0x0008, 0xDF40, 6176)] ++
    (List.range 4).map fun n => (0x0300 + n, 0xF760 + 0x180 * n, 384)

/-- Every block but COMMIT, by BLOCK_ID. -/
def blockIds : List Nat := (ledgerMap.map Prod.fst).filter fun b => b ≠ 1

/-- A block of an image with its SEQ, COMMIT apart. -/
def Image.bytes (m : Image) (id seq : Nat) : List Byte :=
  if id = 0x0002 then m.sealBlk.bytes seq
  else if id = 0x0003 then m.device.bytes seq
  else if id = 0x0004 then m.pulse.bytes seq
  else if id = 0x0005 then m.errors.bytes seq
  else if id = 0x0006 then m.counters.bytes seq
  else if id = 0x0007 then keyptrBytes m.keyptr seq
  else if id = 0x0008 then tamperBytes m.tamper seq
  else if id < 0x0200 then (m.legal.get (id - 0x0100) {}).bytes (id - 0x0100) seq
  else if id < 0x0300 then (m.opens.get (id - 0x0200) {}).bytes (id - 0x0200) seq
  else (m.recovery.get (id - 0x0300) {}).bytes (id - 0x0300) seq

/-- A block as it stands in a copy. -/
def Copy.bytes (c : Copy) (id : Nat) : List Byte :=
  if id = 0x0001 then
    blockOf 0x0001 64 (b2n c.final) c.seq [⟨16, 8, c.time⟩, ⟨24, 1, c.reason⟩]
  else c.img.bytes id (c.seqs.get id 0)

/-- A byte of the ledger array at an offset from copy A's start (R558, R561, R576). A block that is not valid, and the area
not written, hold what the manual leaves open. -/
def Dev.ledgerByte (d : Dev) (off : Nat) : Byte :=
  let c := if off < 0x10000 then d.led.a else d.led.b
  let o := off % 0x10000
  match ledgerMap.find? fun m => m.2.1 ≤ o && o < m.2.1 + m.2.2 with
  | none => Config.deadByte (0x40000000 + off)
  | some m =>
    if c.hard.contains m.1 || c.crcBad.contains m.1 then Config.deadByte (0x40000000 + off)
    else (c.bytes m.1).getD (o - m.2.1) 0#8

/-! ### The config store (R577, R579, R580, Table 12.10a) -/

/-- A complete slot of a group: header and payload; bytes after them are erased. -/
def slotBytes (g : Nat) (s : Slot) : List Byte :=
  let b := layout 32 [⟨0, 1, g⟩, ⟨1, 1, 1⟩, ⟨2, 2, s.payload.length⟩, ⟨4, 4, s.sseq⟩, ⟨8, 4, crc32 s.payload⟩] ++ s.payload
  b ++ List.replicate (slotSize g - b.length) 0xFF#8

/-- The BODY of a KEYS record, under CCM with KD: the key enciphered, or the operator key's digest in clear (R667, Table 14.4). -/
def KeyRec.body (k : KeyRec) : List Byte :=
  let head := layout 12 [⟨0, 1, k.owner⟩, ⟨1, 1, k.slot⟩, ⟨4, 4, k.sseq⟩, ⟨8, 4, k.gen⟩]
  let nonce := layout 13 [⟨0, 1, 0x4B⟩, ⟨1, 1, k.owner⟩, ⟨2, 1, k.slot⟩, ⟨3, 4, k.gen⟩, ⟨7, 4, k.sseq⟩]
  if k.owner = 0x41 then k.key ++ (ccmSeal Config.deviceKey nonce (head ++ k.key) []).2
  else
    let x := ccmSeal Config.deviceKey nonce head k.key
    x.1 ++ x.2 ++ List.replicate 16 0#8

/-- A KEYS record (R580). -/
def KeyRec.bytes (k : KeyRec) : List Byte :=
  let b := layout 64 [⟨0, 1, k.owner⟩, ⟨1, 1, k.slot⟩, ⟨4, 4, k.sseq⟩, ⟨8, 4, k.gen⟩,
    ⟨12, 40, leNat k.body⟩]
  pasteAt b 52 (leBytes 4 (crc32 (b.take 52)))

/-- A byte of the config store at an offset from sector 0 (Table 17.10). -/
def Dev.configByte (d : Dev) (off : Nat) : Byte :=
  let s := off / 4096
  let o := off % 4096
  let dead := Config.deadByte (0x50000000 + off)
  if s < 2 then
    if 32 ≤ o then (Config.factoryBlock.getD (o - 32) 0xFF#8)
    else if o = 0 then 1#8 else if o = 1 then 1#8 else if 28 ≤ o then 0#8 else dead
  else if d.store.retired.contains s then
    if o = 0 then 0xFF#8 else if 28 ≤ o && o < 32 then 0#8 else if o < 32 then dead else 0xFF#8
  else if d.store.dirty.contains s then dead
  else match d.store.keys.find? fun k => k.sector = s && k.place = o / 64 with
    | some k => if !k.done || k.bad then dead else k.bytes.getD (o % 64) 0xFF#8
    | none =>
      match d.store.slots.cells.findSome? fun p => (p.2.find? fun (x : Slot) =>
          (x.sector = s && o / slotSize p.1 = x.place && slotSize p.1 ≤ 4096) ||
          (slotSize p.1 > 4096 && (List.range (sectorsPerSlot p.1)).any fun i =>
            (slotSectors (d.ringSectors p.1) p.1 x.sector).getD i 64 = s)).map fun x => (p.1, x) with
      | none => 0xFF#8
      | some (g, x) =>
        if !x.done then (if 28 ≤ o % slotSize g && o % slotSize g < 32 then 0xFF#8 else dead)
        else if x.bad || x.hdrBad then dead
        else
          let base := if slotSize g ≤ 4096 then o % slotSize g
            else o + 4096 * (slotSectors (d.ringSectors g) g x.sector).idxOf s
          (slotBytes g x).getD base 0xFF#8

/-- A byte of a window the mover reads (Table 17.10). -/
def Dev.windowByte (d : Dev) (a : Nat) : Byte :=
  if 0x50000000 ≤ a then d.configByte (a - 0x50000000) else d.ledgerByte (a - 0x40000000)

/-! ### The boot image area (Table 17.11) -/

/-- Bytes are written to the boot image area: they stand there once the command ends. -/
def Dev.storeBytes (d : Dev) (a : Nat) : List Byte → Dev
  | [] => d
  | b :: t => Dev.storeBytes { d with stores := d.stores ++ [(a, b)] } (a + 1) t

/-- `n` bytes of the boot image area. -/
def loadBytes (m : List Host.Cell) (a n : Nat) : List Byte := (List.range n).map fun i => getCell (a + i) m

/-- COUNT of the boot image becomes 0 (R864, R867). -/
def Dev.clearBootCount (d : Dev) : Dev := d.storeBytes 0x60000000 (List.replicate 4 0#8)

end Sys2Proof.Machine
end

