-- ==== Sys2Proof/Machine/Calib.lean ====
section
/-!
DEFINITION. Machine/Calib.lean: the seal, CAL_SET and CAL_GET, LEDGER_READ, CONFIG_READ and CONFIG_WRITE (chapters 11, 12
and 18).
-/
namespace Sys2Proof.Machine

/-! ### The seal (R525–R529) -/

/-- SEAL_OPEN: CAL_EN is found high, for so many µs on end; after 100 ms in RUN or DOZE, counted from no earlier than step 5 of
Table 2.5, SEALED goes to 0, the SEAL block takes the time, and CAL_ENABLE with index 0 is recorded (R525, R528). -/
def execSealOpen (micros : Nat) (s : State) : Host.Outcome State Fault Refusal :=
  let d := s.dev
  if !d.units then s.ok d
  else
    let d := { d with cal := { d.cal with calEn := true } }
    if d.cal.sealed && micros ≥ 100000 && d.since d.pwr.recallAt (ms 100) then
      let d := { d with cal := { d.cal with sealed := false } }
      let d := d.setWork { d.led.work with sealBlk := { d.led.work.sealBlk with lastOpen := d.now } }
      s.ok (d.tamper 0x06 0 d.now)
    else s.ok d

/-- SEAL_CLOSE: CAL_EN has gone low: SEALED is 1 again (R525). -/
def execSealClose (s : State) : Host.Outcome State Fault Refusal :=
  let d := s.dev
  if d.awake then s.ok { d with cal := { d.cal with calEn := false, sealed := true } } else s.ok d

/-! ### Calibration blocks (Tables 11.1 to 11.4) -/

/-- Bytes of the block of a kind and index; none outside Table 11.1 (R516). -/
def calSize (kind index : Nat) : Option Nat :=
  match kind with
  | 0 => if index = 0 then some 32 else none
  | 1 => if index ≤ 1 then some 40 else none
  | 2 => if index ≤ 195 then some 32 else none
  | 3 => if index = 0 then some 32 else none
  | 4 => if index = 0 then some 32 else none
  | _ => none

/-- A gain lies within 0.5 to 2.0 (R517). -/
def gainOk (g : Nat) : Bool := 0x20000000 ≤ g && g ≤ 0x80000000

/-- An offset lies within its range. -/
def offsetOk (o : Int) : Bool := -1048576 ≤ o && o ≤ 1048575

/-- Input `c` is named as a phase by an account's configuration in effect or pending (R518). -/
def Dev.phaseNamed (d : Dev) (c : Nat) : Bool :=
  accounts.any fun a => [(d.acct a).block, d.nextBlock a].any fun b => (List.range 3).any fun k => blkPh b k = c

/-- A CABINET block is within Table 11.2 (R518). -/
def Dev.cabinetOk (d : Dev) (b : List Byte) : Bool :=
  let vfull := fieldAt b 0 4
  let unom := fieldAt b 4 2
  let used := fieldAt b 7 1
  100000 ≤ vfull && vfull ≤ 2000000 && 10000 ≤ unom && unom ≤ 50000 && (fieldAt b 6 1 = 50 || fieldAt b 6 1 = 60) &&
    used % 8 ≠ 0 && ((List.range 4).all fun x => fieldAt b (8 + x) 1 % 4 ≠ 3) &&
    (List.range 3).all fun c => bitOf used c || !d.phaseNamed c

/-- A VOLTAGE block is within Table 11.3. -/
def voltBlkOk (index : Nat) (b : List Byte) : Bool :=
  fieldAt b 0 1 = index &&
    (List.range 4).all fun c => offsetOk (sfieldAt b (8 + 8 * c) 4) && gainOk (fieldAt b (12 + 8 * c) 4)

/-- A CHANNEL block is within Table 11.4. -/
def chanBlkOk (index : Nat) (b : List Byte) : Bool :=
  let corr := sfieldAt b 2 2
  let ifull := fieldAt b 4 4
  fieldAt b 0 2 = index && -1024 ≤ corr && corr ≤ 1023 && 100 ≤ ifull && ifull ≤ 4000000 && gainOk (fieldAt b 8 4) &&
    offsetOk (sfieldAt b 12 4) && gainOk (fieldAt b 16 4) && gainOk (fieldAt b 20 4)

/-- A block as kept: its reserved bytes and bits 0. -/
def calKept (kind : Nat) (b : List Byte) : List Byte :=
  match kind with
  | 0 => layout 32 ([⟨0, 7, fieldAt b 0 7⟩, ⟨7, 1, fieldAt b 7 1 % 16⟩, ⟨12, 1, fieldAt b 12 1 % 4⟩] ++
      (List.range 4).map fun x => ⟨8 + x, 1, fieldAt b (8 + x) 1 % 64⟩)
  | 1 => layout 40 [⟨0, 1, fieldAt b 0 1⟩, ⟨8, 32, fieldAt b 8 32⟩]
  | _ => b.take 32

/-- CAL_SET (0x0040): content, seal, pending change; then the group is written, and the change takes effect at the next
commit tick (R515–R518, R523, R530). -/
def execCalSet (x : Desc) (s : State) : Host.Outcome State Fault Refusal :=
  s.ok (s.dev.command x { opcode := 0x0040 } (fun _ _ => 0) fun d _ =>
    let kind := x.arg 24 1
    let index := x.arg 26 2
    match calSize kind index with
    | none => d.done x.ref stBadArg
    | some n =>
      if x.len < n || kind ≥ 3 then d.done x.ref stBadArg
      else d.withInput x fun bs =>
        let good := match kind with
          | 0 => d.cabinetOk bs
          | 1 => voltBlkOk index bs
          | _ => chanBlkOk index bs
        let group := if kind = 2 then 0x03 else 0x02
        let key := if kind = 1 then 1 + index else index
        if !good then d.done x.ref stBadArg
        else if d.cal.sealed then d.done x.ref stSealed
        else if d.groupPending group key then d.done x.ref stBusy
        else d.queueGroup x.ref
          { group := group, key := key, block := calKept kind bs, cmd := some x.ref, sealChange := true })

/-- A sealed change is accepted, being written or due. -/
def Dev.sealPending (d : Dev) : Bool := d.changes.any fun w => w.sealChange

/-- The STATUS block (Table 11.5). -/
def Dev.calStatus (d : Dev) : List Byte :=
  let b := d.led.work.sealBlk
  layout 32 [⟨0, 4, b.calEvents⟩, ⟨4, 1, b2n d.cal.sealed + 2 * b2n d.cal.calEn + 4 * b2n d.sealPending⟩, ⟨8, 8, b.lastChange⟩,
    ⟨16, 8, b.lastOpen⟩]

/-- The FACTORY block (R522); without a readable FACTORY group its first eight bytes hold nothing stored (Table 12.12). -/
def Dev.calFactory (d : Dev) : List Byte :=
  if d.store.factoryLost then List.replicate 32 0#8 else (Config.factoryBlock ++ List.replicate 32 0#8).take 32

/-- CAL_GET (0x0041): the block in effect (R515, R516, R521, R522). -/
def execCalGet (x : Desc) (s : State) : Host.Outcome State Fault Refusal :=
  s.ok (s.dev.command x { opcode := 0x0041 } (fun _ _ => 0) fun d _ =>
    let kind := x.arg 24 1
    let index := x.arg 26 2
    match calSize kind index with
    | none => d.done x.ref stBadArg
    | some n =>
      if x.len < n then d.done x.ref stBadArg
      else
        let out := match kind with
          | 0 => d.cal.cabinet
          | 1 => d.voltBlk index
          | 2 => d.chanBlk index
          | 3 => d.calStatus
          | _ => d.calFactory
        (d.output x out).done x.ref stOK)

/-! ### LEDGER_READ (R574, R346) -/

/-- LEDGER_READ (0x0050): the account's LEGAL and OPEN blocks as the last commit wrote them. -/
def execLedgerRead (x : Desc) (s : State) : Host.Outcome State Fault Refusal :=
  s.ok (s.dev.command x { opcode := 0x0050, tenantMay := true, account := true } (fun d a => (d.acct a).shown) fun d a =>
    if x.len < 832 then d.done x.ref stBadArg
    else
      let out := d.led.last.bytes (0x0100 + a) (d.led.lastSeqs.get (0x0100 + a) 0) ++
        d.led.last.bytes (0x0200 + a) (d.led.lastSeqs.get (0x0200 + a) 0)
      (d.output x out).doneWith x.ref d.led.lastSeq)

/-! ### CONFIG_READ and CONFIG_WRITE (R586, R904, R905) -/

/-- What CONFIG_READ writes of a group: header and payload of its newest valid slot, or the header of a group at its
defaults. The FACTORY group's header holds what production wrote. -/
def Dev.configOut (d : Dev) (g : Nat) : List Byte × Nat :=
  let none_ := (layout 32 [⟨0, 1, g⟩, ⟨1, 1, 1⟩, ⟨28, 4, 0xFFFFFFFF⟩], 0)
  if g = 0x01 then
    if d.store.factoryBad.length ≥ 2 then none_
    else
      let head := (List.range 32).map d.configByte
      (head ++ Config.factoryBlock, fieldAt head 4 4)
  else match d.newestSlot g with
    | none => none_
    | some w => ((slotBytes g w).take (32 + w.payload.length), w.sseq)

/-- CONFIG_READ (0x0080). -/
def execConfigRead (x : Desc) (s : State) : Host.Outcome State Fault Refusal :=
  s.ok (s.dev.command x { opcode := 0x0080 } (fun _ _ => 0) fun d _ =>
    let g := x.arg 24 1
    if g < 0x01 || 0x0A < g || x.len < slotSize g then d.done x.ref stBadArg
    else
      let r := d.configOut g
      (d.output x r.1).doneWith x.ref r.2)

/-- A field of a payload lies within its range. -/
def inRange (b : List Byte) (off sz lo hi : Nat) : Bool := lo ≤ fieldAt b off sz && fieldAt b off sz ≤ hi

/-- The PQ payload is within Table 10.1 and R457. -/
def pqOk (b : List Byte) : Bool :=
  inRange b 0 1 0 1 && inRange b 2 2 100 990 && inRange b 4 2 1010 2000 && inRange b 6 2 10 300 && inRange b 8 2 0 100 &&
    inRange b 10 2 10 2000 && inRange b 12 2 1 65535 && inRange b 14 2 10 900 && inRange b 18 2 0 2000 &&
    inRange b 20 2 1 3600 && fieldAt b 2 2 + 2 * fieldAt b 8 2 < fieldAt b 4 2 &&
    fieldAt b 6 2 + fieldAt b 8 2 ≤ fieldAt b 2 2

/-- The HOST payload is within Table 16.10 (R783): a stored acceptance includes RINGS and is a subset of the FEATURES value
with HOSTMODE low. -/
def hostOk (b : List Byte) : Bool :=
  ((List.range 8).all fun v => inRange b (4 * v) 2 0 1023 && inRange b (4 * v + 2) 2 1 1024) && inRange b 32 2 2 1000 &&
    inRange b 36 1 0 1 &&
    (fieldAt b 36 1 = 0 ||
      (let a := BitVec.ofNat 64 (fieldAt b 40 8)
       a.getLsbD 0 && a &&& ~~~0x8FE9#64 = 0#64))

/-- Line parameters are within Tables 21.2 and 22.5 and R1010. -/
def lineOk (b : List Byte) : Bool :=
  let gap := max (fieldAt b 2 2) (fieldAt b 4 2) - min (fieldAt b 2 2) (fieldAt b 4 2)
  inRange b 0 1 0 3 && inRange b 2 2 2000 9500 && inRange b 4 2 2000 9500 && inRange b 6 1 0 30 && inRange b 7 1 0 7 &&
    inRange b 8 2 0 5000 && inRange b 32 2 0 0xFFFE && inRange b 36 1 1 64 && inRange b 37 1 0 7 && inRange b 38 2 0 1440 &&
    1000 ≤ 10 * gap && 2 * (300 * 2 ^ fieldAt b 0 1) ≤ 10 * gap

/-- A payload as kept: its reserved bytes and bits 0. -/
def configKept (g : Nat) (b : List Byte) : List Byte :=
  if g = 0x05 then layout 32 [⟨0, 1, fieldAt b 0 1⟩, ⟨1, 1, fieldAt b 1 1 % 32⟩, ⟨2, 20, fieldAt b 2 20⟩]
  else if g = 0x08 then layout 64 [⟨0, 34, fieldAt b 0 34⟩, ⟨36, 1, fieldAt b 36 1⟩, ⟨40, 8, fieldAt b 40 8⟩]
  else layout 64 [⟨0, 1, fieldAt b 0 1⟩, ⟨1, 1, fieldAt b 1 1 % 4⟩, ⟨2, 8, fieldAt b 2 8⟩, ⟨32, 12, fieldAt b 32 12⟩,
    ⟨44, 1, fieldAt b 44 1 % 4⟩]

/-- CONFIG_WRITE (0x0081). -/
def execConfigWrite (x : Desc) (s : State) : Host.Outcome State Fault Refusal :=
  let g := x.arg 24 1
  let entry := if g = 0x08 then some 0x47 else if g = 0x09 then some 0x44 else none
  s.ok (s.dev.command x { opcode := 0x0081, entry := entry } (fun _ _ => 0) fun d _ =>
    let size := if g = 0x05 then 32 else 64
    if (g ≠ 0x05 && g ≠ 0x08 && g ≠ 0x09) || x.len ≠ size then d.done x.ref stBadArg
    else d.withInput x fun bs =>
      let good := if g = 0x05 then pqOk bs else if g = 0x08 then hostOk bs else lineOk bs
      if !good then d.done x.ref stBadArg else d.queueWrite x.ref g 0 (configKept g bs))

end Sys2Proof.Machine
end

