-- ==== Sys2Proof/Machine/Angles.lean ====
section
/-!
DEFINITION. Machine/Angles.lean: cosines and sines as integers in 2^−64, for what the manual gives by angles (chapters 8, 10 and 21).
-/
namespace Sys2Proof.Machine

/-- cos θ in 2^−64 of an angle θ below 0.03, itself in 2^−64: the series to its eighth power, beyond which nothing is left. -/
def cosSmall (t : Int) : Int :=
  let s := t * t / 2 ^ 64
  let f := fun (n : Int) (x : Int) => 2 ^ 64 - s * x / (n * 2 ^ 64)
  f 2 (f 12 (f 30 (f 56 (2 ^ 64))))

/-- A turn by two angles after one another, each as its cosine and sine in 2^−64. -/
def turn (a b : Int × Int) : Int × Int := ((a.1 * b.1 - a.2 * b.2) / 2 ^ 64, (a.1 * b.2 + a.2 * b.1) / 2 ^ 64)

/-- sin θ in 2^−64 of an angle θ below 0.03, itself in 2^−64. -/
def sinSmall (t : Int) : Int :=
  let s := t * t / 2 ^ 64
  let f := fun (n : Int) (x : Int) => 2 ^ 64 - s * x / (n * 2 ^ 64)
  t * f 6 (f 20 (f 42 (2 ^ 64))) / 2 ^ 64

/-- Cosine and sine of 2πk / n in 2^−64, for n of 210 or more: the n-th part of a turn, taken k times. -/
def circle (n k : Nat) : Int × Int :=
  let t : Int := 2 * 57952155664616982739 / (max n 1 : Nat)
  let w := (cosSmall t, sinSmall t)
  (List.range (k.log2 + 1)).foldr (fun b z => let z := turn z z; if k.testBit b then turn z w else z) (2 ^ 64, 0)

end Sys2Proof.Machine
end

