-- ==== Sys2Proof/Machine/LinePhy.lean ====
section
/-!
DEFINITION. Machine/LinePhy.lean: the line physical layer: what the receiver hears, the gain, the two correlators, and
the rate and tones in effect (chapter 21).
-/
namespace Sys2Proof.Machine

/-! ### Parameters in effect in the physical layer (R1011) -/

/-- Fields of Table 21.2, of the parameters that the physical layer works with. -/
def LinePhy.rate (l : LinePhy) : Nat := fieldAt l.applied 0 1 % 4
def LinePhy.txEnable (l : LinePhy) : Bool := bitOf (fieldAt l.applied 1 1) 0
def LinePhy.agcFixed (l : LinePhy) : Bool := bitOf (fieldAt l.applied 1 1) 1
def LinePhy.fixedGain (l : LinePhy) : Nat := fieldAt l.applied 7 1

/-- The gain step (R1016): FIXED_GAIN while AGC_FIXED is 1. -/
def LinePhy.step (l : LinePhy) : Nat := if l.agcFixed then l.fixedGain else l.gain

/-- The bit rate in bit/s (Table 21.2), and the tones in 10 Hz. -/
def LinePhy.bitRate (l : LinePhy) : Nat := 300 * 2 ^ l.rate
def LinePhy.space (l : LinePhy) : Nat := fieldAt l.applied 2 2
def LinePhy.mark (l : LinePhy) : Nat := fieldAt l.applied 4 2

/-- Metrology clocks of one bit (R1012, Table 21.3). -/
def LinePhy.bitClocks (l : LinePhy) : Nat := 81920 / 2 ^ l.rate

/-- A counter of Table 21.5 counts. -/
def Dev.phyCount (d : Dev) (off : Nat) : Dev :=
  d.setPhy { d.lphy with counts := d.lphy.counts.upd off 0 fun n => sat32 (n + 1) }

/-- Parameters that have changed are applied while no physical frame is received or sent (R1011). -/
def Dev.lineApply (d : Dev) : Dev :=
  let l := d.lphy
  let p := d.lineParams
  if l.rx.isSome || l.tx.isSome || l.applied = p then d
  else
    let tuned := fun (b : List Byte) => (fieldAt b 0 1, bitOf (fieldAt b 1 1) 1, fieldAt b 2 4)
    d.setPhy { l with applied := p, gain := if tuned p = tuned l.applied then l.gain else 7 }

/-! ### The receiver (R1016–R1025) -/

/-- The receiver detects: none of the stops of R1021 holds. -/
def Dev.lineHears (d : Dev) : Bool :=
  d.units && d.volt.healthA.good && d.trk.state ≠ .search && !d.pwr.backstop && d.lphy.tx.isNone &&
    (match d.lphy.txEnd with | some t => d.since t (ms 2) | none => true)

/-- Reception stops under R1021: a frame in progress is abandoned and counted in RX_ABANDONED. -/
def Dev.lineReceiveStop (d : Dev) : Dev :=
  let had := d.lphy.rx.isSome
  let d := d.setPhy { d.lphy with rx := none, stopped := true }
  let d := if had then { (d.phyCount 28) with lnet := { d.lnet with gapNoise := true } } else d
  d.lineApply

/-- Reception resumes after a stop, with the gain step at 7 (R1016, R1043). -/
def Dev.lineResume (d : Dev) : Dev :=
  if d.lphy.stopped && d.lineHears then d.setPhy { d.lphy with stopped := false, gain := 7 } else d

/-- A line conversion at or above −1 dBFS lowers the gain, at most one step per 2 ms, unless it is frozen (R1016). -/
def Dev.lineLoud (d : Dev) : Dev :=
  let d := d.lineResume
  if d.lineHears && d.lphy.rx.isNone && !d.lphy.agcFixed && d.since d.lphy.dropAt (ms 2) then
    d.setPhy { d.lphy with gain := d.lphy.gain - 1, dropAt := d.up }
  else d

/-- The step that places a level (in quarter dBµV) nearest −9 dBFS, ties going to the lower step (R1015, R1016). -/
def gainFor (level : Nat) : Nat :=
  let off := fun (g : Nat) => ((level : Int) + 24 * g - 432).natAbs
  (List.range 8).foldl (fun best g => if off g < off best then g else best) 0

/-- A level in quarter dBµV as records and LAST_LEVEL carry it, in dBµV (R1018). -/
def levelField (level : Nat) : Nat := (level + 2) / 4

/-- Preamble and SSD (Table 21.4), and how many of 16 bits two words share. -/
def preamble : Nat := 0xAAAA
def ssd : Nat := 0x54C7
def bitsShared (a b : Nat) : Nat := ((List.range 16).filter fun i => bitOf a i = bitOf b i).length

/-- A correlator detects: the SSD matches exactly, and at least 12 of the 16 preamble bits before it (R1017). -/
def Heard.detects (h : Heard) : Bool := h.bits % 2 ^ 16 = ssd && 12 ≤ bitsShared (h.bits / 2 ^ 16 % 2 ^ 16) preamble

/-- A band whose mean energy before the preamble lies within 6 dB, a ratio of 10^0.6, of that over it is ignored for the frame
(R1017). -/
def bandKept (mean before : Nat) : Option Nat := if 100000 * mean ≤ 398107 * before then none else some mean

/-- A bit of a frame by the energies of the mark and the space band over it: each weighs the reciprocal of its mean; one band alone
decides where the other is ignored (R1017). What the rule does not settle is free. -/
def RxFrame.bit (r : RxFrame) (e : Nat × Nat) : Bool :=
  match r.mark, r.space with
  | some m, some s =>
    if e.2 * m < e.1 * s then true else if e.1 * s < e.2 * m then false else Config.lineBit 2 e.1 e.2
  | some m, none => Config.lineBit 0 e.1 m
  | none, some s => Config.lineBit 1 e.2 s
  | none, none => Config.lineBit 2 e.1 e.2

/-- Bytes from bits sent most significant first, a last part of a byte dropped. -/
def bytesMsb : Nat → List Bool → List Byte
  | 0, _ => []
  | n + 1, l => BitVec.ofNat 8 ((l.take 8).foldl (fun w b => 2 * w + b2n b) 0) :: bytesMsb n (l.drop 8)

/-- The bytes of a frame's PSDU, from the energies of its bits. -/
def RxFrame.bytes (r : RxFrame) (l : List (Nat × Nat)) : List Byte := bytesMsb (l.length / 8) (l.map r.bit)

/-- MAIN takes a frame from its SSD onward: its preamble began 32 bits ago, and the gain is frozen (R1016, R1017). -/
def Dev.takeFrame (d : Dev) (h : Heard) : Dev :=
  d.setPhy { d.lphy with
    rx := some { level := h.level, since := d.up, start := d.up - clocks (32 * d.lphy.bitClocks)
                 mark := bandKept h.mark h.markBefore, space := bandKept h.space h.spaceBefore }
    lastLevel := h.level, quietSince := d.up }

/-- FRAME_DETECT: a correlator detects a frame. MAIN takes it when it holds none; found by WATCH, a frame less than 6 dB stronger is
ignored and counted in RX_IGNORED (R1017, R1018, R1022, R1025). -/
def execFrameDetect (h : Heard) (s : State) : Host.Outcome State Fault Refusal :=
  let d := s.dev.lineResume
  if !d.lineHears || !h.detects then s.ok d
  else match d.lphy.rx with
    | none => s.ok (d.takeFrame h)
    | some r =>
      if h.level < r.level + 24 then
        let d := (d.setPhy { d.lphy with lastLevel := h.level }).phyCount 24
        s.ok { d with lnet := { d.lnet with gapNoise := true } }
      else s.ok d

/-- AGC_RISE: 10 s have passed without a detection since the last, or since the last rise, and the gain step rises by
1, up to 7 (R1016). -/
def execAgcRise (s : State) : Host.Outcome State Fault Refusal :=
  let d := s.dev.lineResume
  if d.lineHears && !d.lphy.agcFixed && d.lphy.rx.isNone && d.since d.lphy.quietSince (10 * second) then
    s.ok (d.setPhy { d.lphy with gain := min 7 (d.lphy.gain + 1), quietSince := d.up })
  else s.ok d

/-! ### The transmitter (R1012–R1014, R1029) -/

/-- The bits of a physical frame in the order they are sent, the most significant of a byte first (Table 21.4, R6; PRESUMED,
assumption 150). -/
def frameBitsOf (psdu : List Byte) : List Bool := ([0xAA#8, 0xAA#8, 0x54#8, 0xC7#8] ++ psdu).flatMap bitsMsb

/-- Each bit as its tone, mark for 1 and space for 0, and the phase it begins at: a tone of f × 10 Hz turns f × 10 times in as many bits
as the bit rate, and the next bit goes on from there (R1013). -/
def tonesFrom (mark space rate : Nat) : Nat → List Bool → List (Nat × Nat)
  | _, [] => []
  | ph, b :: t =>
    let f := if b then mark else space
    (f, ph) :: tonesFrom mark space rate ((ph + 10 * f) % rate) t

/-- The amplitude at each µs of the 50 µs over which a frame ramps up, and read backwards down, in 2^−30 of the full one: a raised cosine
(R1029). -/
def rampShape : List Nat := (List.range 51).map fun j => ((2 ^ 64 - (circle 1000 (10 * j)).1) / 2 ^ 35).toNat

/-- A physical frame at LINE_TXP/N under the parameters in effect at its start; where within 20 µs ± 2 µs LINE_TXEN leads and trails it
is free (R1013, R1029, R1044; assumption 163). -/
def LinePhy.wave (l : LinePhy) (lead trail : Nat) (psdu : List Byte) : LineWave :=
  { atten := fieldAt l.applied 6 1, lead := 180 + lead % 41, trail := 180 + trail % 41, ramp := rampShape, rate := l.bitRate
    bits := tonesFrom l.mark l.space l.bitRate 0 (frameBitsOf psdu) }

/-! ### LINE_STATE records and LISTEN (R1054, R1082, Table 22.9) -/

/-- A LINE_STATE record: event, and DETAIL fields by their offset in it. -/
def Dev.postLine (d : Dev) (event : Nat) (detail : List Fld) : Dev :=
  let l := d.lnet
  d.post { ty := 0x41, epoch := d.epoch 0x44, time := d.now,
           pay := [⟨0, 1, event⟩, ⟨1, 1, l.role⟩, ⟨2, 2, l.netId⟩, ⟨4, 2, l.addr⟩, ⟨6, 1, d.led.work.device.grid⟩,
             ⟨8, 8, l.captainId⟩] ++ detail.map fun f => { f with off := 16 + f.off } }

/-- ROLE, NETWORK_ID and SHORT_ADDR become these, and the line network's epoch moves when one of them changes (R1082). -/
def Dev.setRole (d : Dev) (role net addr : Nat) : Dev :=
  let l := d.lnet
  let d := { d with lnet := { l with role := role, netId := net, addr := addr } }
  if l.role = role && l.netId = net && l.addr = addr then d else d.bump 0x44

/-- The node enters LISTEN with a mode and a filter: a NETWORK_ID (0xFFFF any), or one node ID (R1054, R1057, R1065,
R1066). Claims and an unfinished join end. -/
def Dev.enterListen (d : Dev) (mode filter : Nat) (only : Option Nat) (yields : Bool) : Dev :=
  let d := { d with lnet := { d.lnet with
    kstate := 1, mode := mode, filter := filter, onlyId := only, yields := yields, listenSince := d.up, claims := 0
    claimEnd := none, collided := 0, refusedAt := none, beaconSec := none, beaconWait := none, dissolve := none, captainId := 0
    urgent := d.lnet.urgent.filter fun f => f.role = 2 && f.ftype = 5
    queue := d.lnet.queue.filter fun f => f.ftype ≠ 3 } }
  d.setRole 0 0 0

/-- A standalone node with TUNNEL accepted and AUTO_JOIN set enters LISTEN by itself at negotiation (R1054). -/
def Dev.lineAutoJoin (d : Dev) : Dev :=
  if !d.pwr.hostmode && d.has 15 && bitOf (fieldAt d.lineParams 44 1) 0 && d.lnet.role = 0 && d.lnet.kstate = 0 then
    (d.enterListen 0 (fieldAt d.lineParams 34 2) none false).postLine 0x01 [⟨16, 1, 1⟩]
  else d

/-- Captain restarts in LISTEN under its last LINE_JOIN when it leaves Backstop (R1089). -/
def Dev.lineRestart (d : Dev) : Dev :=
  if d.lnet.role = 2 then (d.enterListen d.lnet.mode d.lnet.filter none false).postLine 0x01 [⟨16, 1, 1⟩] else d

end Sys2Proof.Machine
end

