-- ==== Sys2Proof/Machine/Voltage.lean ====
section
/-!
DEFINITION. Machine/Voltage.lean: the two voltage converters, the Umpire, reference tests and retests, clipping and open
inputs (chapter 5).
-/
namespace Sys2Proof.Machine

/-- An UMPIRE record (Table 19.9). -/
def Dev.postUmpire (d : Dev) (event : Nat) (fs : List Fld) : Dev :=
  d.post { ty := 0x15, epoch := d.epoch 0x41, time := d.now, pay := ⟨0, 1, event⟩ :: fs }

def Dev.setVolt (d : Dev) (v : Volt) : Dev := { d with volt := v }

/-! ### Which converter serves (R57, R260, R329, R378) -/

/-- No converter gives valid voltages from now on: in-filter energy is released, and the time counts as unmetered for
every account whose registers would advance. -/
def Dev.voltagesGone (d : Dev) : Dev :=
  d.each d.accts.keys fun d a =>
    if !d.inService a then d
    else
      let d := d.releaseAll a
      (d.each (d.pairsOf a) fun d k => d.updPair a k fun p => { p with
        revRun := 0, backRun := 0, secBad := true, winBad := true
        lostSince := if p.lostSince.isNone && d.pwr.accum && d.advances a then some d.up else p.lostSince }).judgeUnmetered a

/-- Valid voltages are back: the time is counted once per account, filters start from 0, and each account takes the
state its target and conditions give. -/
def Dev.voltagesBack (d : Dev) : Dev :=
  d.each d.accts.keys fun d a =>
    if !d.inService a then d.rejudge a
    else
      let back := (d.pairsOf a).filter fun k => d.delivers (d.pairCh a k)
      let d := d.closeLost a back
      (d.each (d.pairsOf a) fun d k => d.updPair a k fun p => { p with flt := {}, out := {}, infl := {} }).rejudge a

/-- Converter `sv` serves metrology from now on: 0 A, 1 B, 2 none. -/
def Dev.serve (d : Dev) (sv : Nat) : Dev :=
  let old := d.volt.serving
  if sv = old then d
  else
    let d := if sv = 2 then d.voltagesGone else d
    let d := (d.setVolt { d.volt with serving := sv, vchkRun := 0, watchAt := d.up, checks := d.volt.checks.erase 8 }).bump 0x41
    let d := if sv = 1 then { d with pq := { d.pq with secVoltB := true, sumVoltB := true, balVoltB := true } } else d
    if old = 2 then d.voltagesBack else d

/-- Converter B's frame for the health and tests as they stand (Table 5.2, Table 5.5): 0 NORMAL, 1 VOLTS, 2 none. -/
def Dev.frameFor (d : Dev) : Nat :=
  if d.volt.test.isSome then 1
  else if !d.volt.healthA.good then (if !d.volt.healthB.good && d.volt.serving ≠ 2 then 2 else 1)
  else if !d.volt.healthB.good then 2
  else if d.volt.serving = 1 then 1 else 0

def Dev.refreshFrame (d : Dev) : Dev := d.setVolt { d.volt with frameB := d.frameFor }

/-! ### Conversions (R237–R246, Tables 5.1 to 5.3) -/

/-- Positions of a frame: VA, VB, VC, VNE and the shared channel, the reference check, and the two line receive samples (Table 5.1). -/
def voltPlaces : List Nat := [1, 2, 3, 5, 7]
def checkPlace : Nat := 6
def linePlaces : List Nat := [0, 4]

/-- The code of a converter at a position. -/
def ConvFrame.at (f : ConvFrame) (conv p : Nat) : Int := (if conv = 0 then f.a else f.b).getD p 0

/-- 1.0 V of a converter in its codes: 16 bits for A, 14 bits for B. -/
def fullCode (conv : Nat) : Nat := if conv = 0 then 2 ^ 15 else 2 ^ 13

/-- A code at either end of its converter's range (R266). -/
def endCode (conv : Nat) (x : Int) : Bool := x ≤ -(fullCode conv : Int) || (fullCode conv : Int) - 1 ≤ x

/-- A correction of a slice: 0 offset in nV, 1 gain in 10^−9, 2 skew in fs. -/
def Dev.sliceCorr (d : Dev) (q s : Nat) : Int := d.volt.corr.get (4 * q + s) (Config.sliceTrim q s)

/-- The range of each correction (R240): 2.0 mV, 1.0 %, 50 ps. -/
def sliceRange (q : Nat) : Int := [2000000, 10000000, 50000].getD q 0

/-- The correction of a slice follows what is found, within its range; at an end of it SLICE_LIMIT is posted, once per slice (R240,
R241). -/
def Dev.sliceFound (d : Dev) (f : SliceFind) : Dev :=
  let r := sliceRange f.quantity
  let d := d.setVolt { d.volt with corr := d.volt.corr.set (4 * f.quantity + f.slice) (clampI (-r) r f.value) }
  if f.value.natAbs < r.natAbs || d.volt.slices.contains f.slice then d
  else (d.setVolt { d.volt with slices := d.volt.slices ++ [f.slice] }).postUmpire 0x04 [⟨1, 1, f.slice⟩, ⟨2, 1, f.quantity⟩]

/-- A conversion in 24-bit counts, 2^23 for 1.0 V: Converter A's with its slice's errors taken out. Position `p` of frame `m` is converted
by slice (p + m) mod 4 (R238). -/
def Dev.counts (d : Dev) (conv p m : Nat) (code : Int) : Int :=
  if conv = 0 then
    let s := (p + m) % 4
    Config.sliceFix (d.sliceCorr 0 s) (d.sliceCorr 1 s) (d.sliceCorr 2 s) code
  else code * 1024

/-- Tap `i` of a voltage path's filter, 0–574, in 2^−30. -/
def voltTap (key i : Nat) : Int := if i = 0 then 2 ^ 30 - sumOnI (span 1 574) (Config.voltFir key) else Config.voltFir key i

/-- The conversions of one sample period enter a voltage path. Its FIR output of the period, from the conversions up to the 15th frame,
is released six periods later: 2,440 T or 2,430 T of alignment (Table 5.3). -/
def Dev.feedVolt (d : Dev) (conv c : Nat) (fs : List ConvFrame) : Dev :=
  let key := 5 * conv + c
  let p := voltPlaces.getD c 0
  let new := fs.mapIdx fun m f => d.counts conv p (d.volt.frame + m) (f.at conv p)
  let all := new.reverse ++ d.volt.lines.get key []
  let y := freeDiv 5 (sumOnI (((all.drop 9).take 575).mapIdx fun i x => voltTap key i * x) id) (2 ^ 30)
  d.setVolt { d.volt with
    lines := d.volt.lines.set key (all.take 583)
    outs := d.volt.outs.set key ((clampI (-(2 ^ 23)) (2 ^ 23 - 1) y :: d.volt.outs.get key []).take 7) }

/-- The raw sample that a voltage path releases, 7,040 T after the instant it describes. -/
def Dev.voltRaw (d : Dev) (conv c : Nat) : Int := (d.volt.outs.get (5 * conv + c) []).getD 6 0

/-- Converter B converts VA, VB, VC and VNE: in VOLTS. -/
def Dev.voltsB (d : Dev) : Bool := d.volt.frameB = 1

/-- The paths that take conversions: Converter A's all the time; Converter B's shared channel in NORMAL and its voltages in VOLTS. -/
def Dev.voltPaths (d : Dev) : List (Nat × Nat) :=
  (List.range 5).map (fun c => (0, c)) ++
    (if d.volt.frameB = 0 then [(1, 4)] else if d.voltsB then (List.range 4).map fun c => (1, c) else [])

/-- Calibrated sample of voltage channel `c` of a converter; 0 while an open-input test drives the ball (R247, R268, R282). -/
def Dev.voltOf (d : Dev) (conv c : Nat) : Int :=
  if d.volt.openTest.any fun p => p.1 = c then 0 else d.calVolt conv c (d.voltRaw conv c)

/-- Calibrated sample of voltage channel `c` of the converter that serves metrology. -/
def Dev.servedVolt (d : Dev) (c : Nat) : Int := d.voltOf d.volt.serving c

/-- Calibrated sample of the shared channel: of Converter A in slot 7; of Converter B in position 7, or its own voltage sample of that
channel in VOLTS (R250, R262). -/
def Dev.sharedVolt (d : Dev) (conv : Nat) : Int :=
  let c := d.volt.shared
  if d.volt.openTest.any fun p => p.1 = c then 0
  else d.calVolt conv c (d.voltRaw conv (if conv = 1 && d.voltsB then c else 4))

/-! ### Reference checks (R239, R242, R256, R262, R265) -/

def Mean.add (m : Mean) (l : List Int) : Mean := ⟨m.sum + sumOnI l id, m.n + l.length⟩

/-- A mean reading in µV as a quotient. No calibration of the check slot stands in the VOLTAGE block: the code is taken as read (DEDUCED,
assumption 129). -/
structure Reading where
  num : Int
  den : Nat
  deriving DecidableEq, Repr

def Mean.micro (m : Mean) (conv : Nat) : Reading := ⟨m.sum * 1000000, m.n * fullCode conv⟩

/-- A reading in whole µV, as records carry it. -/
def Reading.value (r : Reading) : Int := if r.den = 0 then 0 else roundEven r.num r.den

/-- The half of the two-part procedure that a reading falls in, from its start and the length of a half: 0 CHK_ZERO, 1 VCHK. -/
def Dev.checkHalf (d : Dev) (since half : Nat) : Nat := if d.up ≤ since + half then 0 else 1

/-- The codes of one sample period at the reference check go to the test, the retest, the block or the watch that reads them. -/
def Dev.checkReads (d : Dev) (fs : List ConvFrame) : Dev :=
  let add := fun (d : Dev) (key conv : Nat) => d.setVolt { d.volt with
    checks := d.volt.checks.upd key {} fun m => m.add (fs.map fun f => f.at conv checkPlace) }
  match d.volt.test with
  | some t =>
    let k := d.checkHalf t.since (if t.kind = 1 then ms 10 else ms 50)
    add (add d k 0) (2 + k) 1
  | none =>
    let v := d.volt
    let d := if v.healthA.retesting then add d (4 + d.checkHalf v.healthA.retestAt (ms 50)) 0
      else
        let l := fs.map fun f => f.at 0 checkPlace
        d.setVolt { v with run := if v.run.smps < 1600 then { v.run with zero := v.run.zero.add l } else { v.run with vchk := v.run.vchk.add l } }
    if v.healthB.retesting then add d (6 + d.checkHalf v.healthB.retestAt (ms 50)) 1
    else if v.serving = 1 && d.voltsB then add d 8 1 else d

def Dev.check (d : Dev) (key : Nat) : Reading := (d.volt.checks.get key {}).micro (key / 2 % 2)

/-- The four readings of a test: zero and VCHK of Converter A, zero and VCHK of Converter B. -/
structure Checks where
  zeroA : Reading
  vchkA : Reading
  zeroB : Reading
  vchkB : Reading
  deriving DecidableEq, Repr

def Dev.testChecks (d : Dev) : Checks := ⟨d.check 0, d.check 1, d.check 2, d.check 3⟩

/-! ### Judging a test (R256, R257, Table 5.5) -/

/-- The stored VCHK value of a converter, in µV (R239, R522). -/
def storedVchk (conv : Nat) : Nat := fieldAt Config.factoryBlock (4 * conv) 4

/-- A converter fails on its CHK_ZERO mean beyond 200 µV or its VCHK mean more than 0.04 % from the stored value. -/
def testFails (conv : Nat) (zero vchk : Reading) : Bool :=
  |zero.num| > 200 * zero.den || |vchk.num - storedVchk conv * vchk.den| * 10000 > 4 * (storedVchk conv * vchk.den : Nat)

/-- Both errors look alike: VCHK errors within 0.02 % of each other and CHK_ZERO errors within 100 µV. -/
def Checks.alike (x : Checks) : Bool :=
  let a : Int := (storedVchk 0 * x.vchkA.den : Nat)
  let b : Int := (storedVchk 1 * x.vchkB.den : Nat)
  |(x.vchkA.num - a) * b - (x.vchkB.num - b) * a| * 10000 ≤ 2 * (a * b) &&
    |x.zeroA.num * x.zeroB.den - x.zeroB.num * x.zeroA.den| ≤ 100 * (x.zeroA.den * x.zeroB.den)

/-- The outcome of Table 5.5 in the codes of Table 19.9: 0 PASS, 1 A_FAIL, 2 B_FAIL, 3 CHK_DRIFT, 4 BOTH_FAIL. Once
CHK_DRIFT has been found, every later test reports it (R259). Where the converter that passes is out of service and cannot
take over, none is left: BOTH_FAIL (R244, R263, R264; DEDUCED, assumption 33). -/
def Dev.testOutcome (d : Dev) (x : Checks) : Nat :=
  if d.volt.chkDrift then 3
  else match testFails 0 x.zeroA x.vchkA, testFails 1 x.zeroB x.vchkB with
    | false, false => 0
    | true, false => if d.volt.healthB.good then 1 else 4
    | false, true => if d.volt.healthA.stays then 4 else 2
    | true, true => if x.alike then 3 else 4

/-- The payload of TEST_RESULT. -/
def testFields (outcome kind conv : Nat) (x : Checks) : List Fld :=
  [⟨1, 1, outcome⟩, ⟨2, 1, kind⟩, ⟨3, 1, conv⟩, sfld 4 4 x.zeroA.value, sfld 8 4 x.vchkA.value, sfld 12 4 x.zeroB.value,
    sfld 16 4 x.vchkB.value]

/-- The error of an outcome, with the TEST_RESULT that decided as its DETAIL (Tables 5.5, 23.4). -/
def Dev.outcomeError (d : Dev) (outcome : Nat) (fs : List Fld) : Dev :=
  let detail := ⟨0, 1, 2⟩ :: fs
  match outcome with
  | 0 => d.raise { code := 0x0401, cls := 1, detail := detail }
  | 1 => d.raise { code := 0x0402, cls := 1, detail := detail }
  | 2 => d.raise { code := 0x0403, cls := 1, detail := detail }
  | 3 => d.raise { code := 0x0404, cls := 1, detail := detail }
  | _ => d.raiseFatal { code := 0x0405, cls := 3, detail := detail } 2

/-! ### Failure and return (R244, R262–R265) -/

def Dev.health (d : Dev) (conv : Nat) : Conv := if conv = 0 then d.volt.healthA else d.volt.healthB

def Dev.setHealth (d : Dev) (conv : Nat) (h : Conv) : Dev :=
  d.setVolt (if conv = 0 then { d.volt with healthA := h } else { d.volt with healthB := h })

/-- A converter in service fails: its retests begin, and a third failure within 24 h of device time keeps it failed
until power-up (R262, R264). -/
def Dev.failConv (d : Dev) (conv : Nat) : Dev :=
  let h := d.health conv
  if !h.good then d
  else
    let times := (h.failTimes.filter fun t => timeDiff d.now t < (86400 * second : Nat)) ++ [d.now]
    let d := d.setHealth conv { h with
      good := false, passes := 0, latestPass := false, retesting := false, retestAt := d.up
      failTimes := times, stays := h.stays || times.length ≥ 3 }
    if conv = 0 then d.lineReceiveStop else d.auxHalt

/-- Voltages come from the converter in service that served, else from A, else from B, else from none. -/
def Dev.chooseServing (d : Dev) : Dev :=
  let a := d.volt.healthA.good
  let b := d.volt.healthB.good
  d.serve (if d.volt.serving = 1 && b then 1 else if a then 0 else if b then 1 else 2)

/-- A converter returns to service (R263). -/
def Dev.restoreConv (d : Dev) (conv : Nat) : Dev :=
  let d := d.setHealth conv { d.health conv with good := true, passes := 0, retesting := false }
  let d := if conv = 0 then d.serve 0 else d.chooseServing
  (d.postUmpire 0x03 [⟨1, 1, conv⟩]).refreshFrame

/-- CHK_DRIFT as first found: the check reference is what has drifted, so both converters serve again but for one that has failed three
times (Table 5.5, R264; DEDUCED, assumption 130). -/
def Dev.clearHealth (d : Dev) (conv : Nat) : Dev :=
  let h := d.health conv
  if h.good || h.stays then d else d.setHealth conv { h with good := true, passes := 0, retesting := false }

/-- An outcome of Table 5.5 takes effect: converters, frame, persistence and error. A pass counts as UNRESOLVED only after
a DISAGREE (Tables 18.8, 19.9). After CHK_DRIFT it changes nothing (R259). -/
def Dev.applyOutcome (d : Dev) (kind outcome : Nat) (fs : List Fld) : Dev :=
  let d := d.postUmpire 0x02 fs
  let first := outcome = 3 && !d.volt.chkDrift
  let d := d.setVolt { d.volt with
    test := none, checks := {}, persist := 0, rms := [], run := { d.volt.run with bad := true }, chkDrift := d.volt.chkDrift || first }
  let d := if first then (d.clearHealth 0).clearHealth 1 else d
  let d := if outcome = 2 && !d.volt.healthA.good then d.restoreConv 0 else d
  let d := if outcome = 1 || outcome = 4 then d.failConv 0 else d
  let d := if outcome = 2 || outcome = 4 then d.failConv 1 else d
  let d := (if first && d.volt.healthA.good then d.serve 0 else d.chooseServing).refreshFrame
  if outcome = 0 && kind ≠ 0 then d else d.outcomeError outcome fs

/-- A reference test begins: converter B goes to VOLTS and the comparison pauses (R256). With FACTORY lost no test runs
(Table 12.12). -/
def Dev.startTest (d : Dev) (kind : Nat) (cmd : Option CmdRef) : Dev :=
  if d.store.factoryLost then d
  else (d.setVolt { d.volt with
    test := some { kind := kind, since := d.up, cmd := cmd }, checks := {}, run := { d.volt.run with bad := true } }).refreshFrame

/-- A reference test is abandoned with no outcome and no record (R277, R278); a SELFTEST that waits for it is left to
the caller. -/
def Dev.dropTest (d : Dev) : Dev :=
  if d.volt.test.isSome then
    (d.setVolt { d.volt with test := none, checks := {}, persist := 0, rms := [], run := { d.volt.run with bad := true } }).refreshFrame
  else d

/-! ### The Umpire's blocks (R250–R255, R258, R262, R281, R282) -/

/-- Both converters convert the shared channel for the comparison: B is in service and neither a test nor SELFTEST VOLT_B runs. -/
def Dev.compares (d : Dev) : Bool :=
  d.volt.healthB.good && d.volt.test.isNone && (match d.test with | some t => t.test ≠ 0x10 | none => true)

/-- A sample joins the running block, but for the first 2 ms of a second. A clipped conversion of the shared channel in either
converter, and an open-input test on it, spoil the block (R251, R253, R282). -/
def Dev.umpireSample (d : Dev) (fs : List ConvFrame) : Dev :=
  let v := d.volt
  if !d.pq.secOn then d
  else
    let placeB := if d.voltsB then voltPlaces.getD v.shared 0 else 7
    let loud := fs.any fun f => endCode 0 (f.at 0 7) || endCode 1 (f.at 1 placeB)
    let spoilt := loud || !d.compares || v.openTest.any fun p => p.1 = v.shared
    let skip := v.block = 0 && v.run.smps < 32
    let e := d.sharedVolt 0 - d.sharedVolt 1
    d.setVolt { v with run := { v.run with
      shared := v.shared, smps := v.run.smps + 1, bad := v.run.bad || spoilt
      e2 := if skip then v.run.e2 else v.run.e2 + e * e, n := if skip then v.run.n else v.run.n + 1 } }

/-- A commit tick of the running second: the twentieth closes the block, and the hundredth moves the shared channel to the next unless a
test runs (R250, R251). -/
def Dev.umpireTick (d : Dev) : Dev :=
  let v := d.volt
  if !d.pq.secOn then d
  else if v.tick + 1 < 20 then d.setVolt { v with tick := v.tick + 1 }
  else
    let last := v.block + 1 ≥ 5
    d.setVolt { v with
      tick := 0, run := {}, closed := some { v.run with shared := v.shared }, block := if last then 0 else v.block + 1
      shared := if last && v.test.isNone then (v.shared + 1) % 4 else v.shared }

/-- RMS(e) of a block in counts. -/
def UmpBlock.rms (b : UmpBlock) : Nat := if b.n = 0 then 0 else sqrtRound b.e2.toNat (b.n * 2 ^ 60)

/-- RMS(e) exceeds 2,966 counts (R252). -/
def UmpBlock.disagrees (b : UmpBlock) : Bool := b.e2 > 2966 * 2966 * b.n * 2 ^ 60

/-- UMPIRE_BLOCK: a block of 200 ms has closed and is judged; the fifth that disagrees in a row is UMPIRE_DISAGREE and starts a reference
test. While Converter A is failed a block counts towards its return only (R262). -/
def execUmpireBlock (s : State) : Host.Outcome State Fault Refusal :=
  let d := s.dev
  match d.volt.closed with
  | none => s.ok d
  | some b =>
    if !d.metRuns || !d.pwr.accum then s.ok d
    else
      let v := d.volt
      let judged := !b.bad && d.compares
      let dis := b.disagrees
      let d := d.setVolt { v with
        closed := none, zero := ⟨v.zero.sum + b.zero.sum, v.zero.n + b.zero.n⟩, vchk := ⟨v.vchk.sum + b.vchk.sum, v.vchk.n + b.vchk.n⟩
        peakE := if judged then v.peakE.set b.shared (max b.rms (v.peakE.get b.shared 0)) else v.peakE }
      if !judged then s.ok d
      else if !v.healthA.good then s.ok (if dis then d.setHealth 0 { d.health 0 with passes := 0 } else d)
      else
        let n := if dis then v.persist + 1 else 0
        let d := d.setVolt { d.volt with
          persist := n, rms := if dis then (b.rms :: v.rms).take 5 else [], persistMax := max d.volt.persistMax n }
        if n ≠ 5 then s.ok d
        else
          let d := d.tamper 0x0E b.shared d.now
          let d := d.postUmpire 0x01 (⟨1, 1, b.shared⟩ :: d.volt.rms.reverse.mapIdx fun i r => ⟨4 + 4 * i, 4, r⟩)
          s.ok (d.startTest 0 none)

/-- REFERENCE_TEST_END: the 100 ms of a reference test are over; the means of each converter decide (R256, R257). A SELFTEST that
started it completes with the outcome. -/
def execReferenceTestEnd (s : State) : Host.Outcome State Fault Refusal :=
  let d := s.dev
  match d.volt.test with
  | some t =>
    if d.metRuns && t.kind ≠ 1 && t.since + ms 100 ≤ d.up then
      let x := d.testChecks
      let o := d.testOutcome x
      let d := d.applyOutcome t.kind o (testFields o t.kind 0xFF x)
      s.ok (match t.cmd with
        | some c => ({ d with test := none } : Dev).doneWith c o
        | none => d)
    else s.ok d
  | none => s.ok d

/-- CONVERTER_RETEST: 60 s after it failed or was last retested, a failed converter starts a retest (R262). -/
def execConverterRetest (conv : Fin 2) (s : State) : Host.Outcome State Fault Refusal :=
  let d := s.dev
  let h := d.health conv
  if d.metRuns && !h.good && !h.retesting && !d.store.factoryLost && h.retestAt + 60 * second ≤ d.up then
    let d := d.setVolt { d.volt with checks := (d.volt.checks.erase (4 + 2 * conv)).erase (5 + 2 * conv) }
    s.ok (d.setHealth conv { h with retesting := true, retestAt := d.up })
  else s.ok d

/-- The two readings of a converter's retest, in their places. -/
def Dev.retestChecks (d : Dev) (conv : Nat) : Checks :=
  if conv = 0 then ⟨d.check 4, d.check 5, ⟨0, 0⟩, ⟨0, 0⟩⟩ else ⟨⟨0, 0⟩, ⟨0, 0⟩, d.check 6, d.check 7⟩

/-- CONVERTER_RETEST_END: the 100 ms of a retest are over; after 10 consecutive passes the converter returns, unless it
stays failed (R263, R264). -/
def execConverterRetestEnd (conv : Fin 2) (s : State) : Host.Outcome State Fault Refusal :=
  let d := s.dev
  let h := d.health conv
  if d.metRuns && h.retesting && h.retestAt + ms 100 ≤ d.up then
    let fails := testFails conv (d.check (4 + 2 * conv)) (d.check (5 + 2 * conv))
    let o := if fails then conv.val + 1 else 0
    let d := d.postUmpire 0x02 (testFields o 2 conv (d.retestChecks conv))
    let n := if fails then 0 else h.passes + 1
    let d := d.setHealth conv { h with retesting := false, passes := n, latestPass := !fails }
    s.ok (if n ≥ 10 && !h.stays then d.restoreConv conv else d)
  else s.ok d

/-- VCHK_WATCH: while Converter B serves, its VCHK reading of each 100 ms is judged; the tenth in a row out of limits fails B,
and voltages return to A where it is in service or its latest retest passed (R265). -/
def execVchkWatch (s : State) : Host.Outcome State Fault Refusal :=
  let d := s.dev
  let v := d.volt
  if !(d.metRuns && v.serving = 1 && v.healthB.good && !d.store.factoryLost && v.watchAt + ms 100 ≤ d.up) then s.ok d
  else
    let x : Checks := ⟨⟨0, 0⟩, ⟨0, 0⟩, ⟨0, 0⟩, (v.checks.get 8 {}).micro 1⟩
    let n := if testFails 1 ⟨0, 0⟩ x.vchkB then v.vchkRun + 1 else 0
    let d := d.setVolt { v with vchkRun := n, watchAt := d.up, checks := v.checks.erase 8 }
    if n < 10 then s.ok d
    else
      let back := v.healthA.good || (v.healthA.latestPass && !v.healthA.stays)
      let o := if back then 2 else 4
      let fs := testFields o 2 1 x
      let d := d.postUmpire 0x02 fs
      let d := if back && !v.healthA.good then d.restoreConv 0 else d
      let d := (d.failConv 1).chooseServing.refreshFrame
      s.ok (d.outcomeError o fs)

/-! ### Clipping and open inputs (R266–R269) -/

/-- A clipped conversion on a used voltage channel of the converter in use (R266, R267). -/
def Dev.clipped (d : Dev) (c : Nat) : Dev :=
  let v := d.volt
  if d.vinUsed c then
    d.setVolt { v with lastClip := v.lastClip.set c d.up
                       clipNow := if v.clipNow.contains c then v.clipNow else v.clipNow ++ [c] }
  else d

/-- The conversions of one sample period: the slice correction, clipping, the reference checks, the voltage paths, the Umpire, the squares
of the 10 ms interval, and a line conversion at or above −1 dBFS, 29,205 of 2^15 (R1016). -/
def Dev.takeFrames (d : Dev) (x : Sample) : Dev :=
  let fs := x.frames
  let d := d.each x.slices Dev.sliceFound
  let sv := d.volt.serving
  let d := d.each ((List.range 4).filter fun c => sv < 2 && fs.any fun f => endCode sv (f.at sv (voltPlaces.getD c 0))) Dev.clipped
  let d := d.checkReads fs
  let d := d.each d.voltPaths fun d p => d.feedVolt p.1 p.2 fs
  let d := (d.umpireSample fs).setVolt { (d.umpireSample fs).volt with frame := (d.volt.frame + fs.length) % 4 }
  let d := if d.volt.serving = 2 then d else d.setVolt { d.volt with
    tickV2 := (List.range 3).foldl (fun t c => t.upd c 0 fun s => s + d.servedVolt c * d.servedVolt c) d.volt.tickV2
    tickN := d.volt.tickN + 1 }
  if fs.any fun f => linePlaces.any fun p => decide (29205 ≤ |f.at 0 p|) then d.lineLoud else d

/-- A half-cycle ends: VIN_CLIP for each channel clipped in it that is not in a clip already. -/
def Dev.closeClips (d : Dev) : Dev :=
  let fresh := d.volt.clipNow.filter fun c => !d.volt.clip.contains c
  let d := d.setVolt { d.volt with clip := d.volt.clip ++ fresh, clipNow := [] }
  d.each fresh fun d c => d.postUmpire 0x05 [⟨1, 1, c⟩]

/-- VIN_CLIP_END: one second without a clipped conversion. -/
def execVinClipEnd (c : Fin 4) (s : State) : Host.Outcome State Fault Refusal :=
  let d := s.dev
  if d.metRuns && d.volt.clip.contains c.val && d.volt.lastClip.get c 0 + second ≤ d.up then
    s.ok ((d.setVolt { d.volt with clip := d.volt.clip.erase c.val }).postUmpire 0x06 [⟨1, 1, c⟩])
  else s.ok d

/-- An open-input test of channel `c` is due: after 1 s of RMS below 2 % of U_NOM and every 10 s while it holds, and every
10 s while the input is reported open or dead; for VNE every 60 s (R268). -/
def Dev.openDue (d : Dev) (c : Nat) : Bool :=
  let last := d.volt.lastOpen.get? c
  if c = 3 then match last with | some t => t + 60 * second ≤ d.up | none => true
  else (d.volt.lowRun.get c 0 ≥ 100 || d.volt.openState.get c 0 ≠ 0) &&
    match last with | some t => t + 10 * second ≤ d.up | none => true

/-- VIN_OPEN_TEST: 10 µA DC is driven into a used ball for 20 ms; its samples are 0 meanwhile. -/
def execVinOpenTest (c : Fin 4) (s : State) : Host.Outcome State Fault Refusal :=
  let d := s.dev
  if d.metRuns && d.vinUsed c && d.volt.openTest.isNone && d.openDue c then
    s.ok (d.setVolt { d.volt with openTest := some (c, d.up) })
  else s.ok d

/-- The channel's RMS over the 10 ms interval lies below 2 % of U_NOM (R268): mean square in code space against it. -/
def Dev.lowVolt (d : Dev) (c : Nat) : Bool :=
  d.volt.tickV2.get c 0 * d.vfull * d.vfull * 100 < (4 * d.unom * d.unom * d.volt.tickN : Int) * 2 ^ 106

/-- The channel's RMS over the 10 ms interval is at least 10 % of U_NOM (R118). -/
def Dev.voltPresent (d : Dev) (c : Nat) : Bool :=
  (d.unom * d.unom * d.volt.tickN : Int) * 2 ^ 106 ≤ d.volt.tickV2.get c 0 * d.vfull * d.vfull

/-- A 10 ms interval ends: the run of intervals in which each phase voltage stayed below 2 % of U_NOM, a channel under test keeping its
run and one that is not low being due afresh (R268); and whether voltage is present, by a converter that is in service (R118). -/
def Dev.lowVoltTick (d : Dev) : Dev :=
  if d.volt.tickN = 0 then { d with pwr := { d.pwr with presentSince := none } }
  else
    let tested := fun c => d.volt.openTest.any fun p => p.1 = c
    let run := [0, 1, 2].foldl (fun t c => if tested c then t else t.set c (if d.lowVolt c then t.get c 0 + 1 else 0)) d.volt.lowRun
    let last := [0, 1, 2].foldl (fun (t : Tbl Nat) c =>
      if tested c || d.lowVolt c || d.volt.openState.get c 0 ≠ 0 then t else t.erase c) d.volt.lastOpen
    let there := [0, 1, 2].any d.voltPresent
    let d := { d with pwr := { d.pwr with presentSince := if there then some (d.pwr.presentSince.getD d.up) else none } }
    d.setVolt { d.volt with lowRun := run, lastOpen := last, tickV2 := {}, tickN := 0 }

/-! ### UMPIRE SUMMARY (Table 5.6) -/

/-- UMPIRE_SUMMARY: every 15 minutes in RUN: peak RMS(e) per channel, slot 6 means, persistence maximum. -/
def execUmpireSummary (s : State) : Host.Outcome State Fault Refusal :=
  let d := s.dev
  let v := d.volt
  if d.pwr.pstate ≠ .run || !d.serving || !d.quarterDue 0x15 then s.ok d
  else
    let d := (d.quarter 0x15).postUmpire 0x0A ((List.range 4).map (fun c => ⟨4 + 4 * c, 4, v.peakE.get c 0⟩) ++
      [sfld 20 4 (v.zero.micro 0).value, sfld 24 4 (v.vchk.micro 0).value, ⟨28, 1, v.persistMax⟩])
    s.ok (d.setVolt { d.volt with peakE := {}, zero := {}, vchk := {}, persistMax := 0 })

end Sys2Proof.Machine
end

