-- ==== Sys2Proof/Machine/Metrology.lean ====
section
/-!
DEFINITION. Machine/Metrology.lean: one 16 kS/s sample period through the metrology core, and reversed current
(chapters 5, 8, 9 and 10).
-/
namespace Sys2Proof.Machine

/-- Calibrated current sample of channel `c`, where it delivers one. -/
def Dev.curOf (d : Dev) (c : Nat) : Option Int := if d.delivers c then some (d.calCur c (d.curCode c)) else none

/-! ### Stage 3 and the filters of the core (R361, R362, R367) -/

/-- Stage 3 for a channel, keyed by current channel or 256 + voltage channel: its DC tracker, a first-order filter of 16 s, 256,000
samples, that starts from the stored offset `off` (R361; DEDUCED, assumption 128). -/
def Dev.dcStep (d : Dev) (key : Nat) (off x : Int) : Dev × Int :=
  let m := d.core.dc.get key (off * 2 ^ 30)
  ({ d with core := { d.core with dc := d.core.dc.set key (m + freeDiv 2 (x - m) 256000) } }, x - m)

/-- A sample after stage 3 joins its channel's newest ones. -/
def Dev.delayLine (d : Dev) (key : Nat) (x : Int) : Dev × List Int :=
  let l := (x :: d.core.line.get key []).take (2 * Config.shiftLag + 1)
  ({ d with core := { d.core with line := d.core.line.set key l } }, l)

/-- The sample that v90 matches: the one at the centre of the shifter (R362). -/
def centre (l : List Int) : Int := l.getD Config.shiftLag 0

/-- v90 from the newest samples of a voltage: an antisymmetric filter turns every frequency by exactly −90° about its centre (R362). -/
def quadrature (l : List Int) : Int :=
  let n := Config.shiftLag
  freeDiv 3 (sumOnI (span 1 n) fun m => Config.shiftHalf m * (l.getD (n + m) 0 - l.getD (n - m) 0)) (2 ^ 30)

/-- The angle of a period in 2^−30 s at 16 kS/s, 2π × 2^30 / (16,000 × period), in 2^−64; π is 57,952,155,664,616,982,739 of them. -/
def angleOf (period : Int) : Int := 2 * 57952155664616982739 * 2 ^ 30 / (16000 * max 1 period)

/-- One step of the resonator at a period: poles of radius r at the angle of the period, zeros at 0 Hz and half the sample rate, and
unity gain and zero phase at the fundamental, with r² free (R367). The state holds two inputs and two outputs. -/
def resonate (period : Int) (st : List Int) (x : Int) : List Int × Int :=
  let g := fun n => st.getD n 0
  let r2 : Int := Config.resRadius % 2 ^ 32
  let y := freeDiv 4 ((2 ^ 32 - r2) * 2 ^ 63 * (x - g 1) + (2 ^ 32 + r2) * cosSmall (angleOf period) * g 2 - r2 * 2 ^ 64 * g 3) (2 ^ 96)
  ([x, g 0, y, g 2], y)

/-- The second-order resonator of a channel, tuned to the period held in `core.tune`. -/
def Dev.resStep (d : Dev) (key : Nat) (x : Int) : Dev × Int :=
  let r := resonate d.core.tune (d.core.res.get key []) x
  ({ d with core := { d.core with res := d.core.res.set key r.1 } }, r.2)

/-- A phase voltage after stage 3, delayed to match v90, and resonated. -/
structure VoltIn where
  v : Int
  v90 : Int
  v1 : Int
  deriving DecidableEq, Repr

/-- A voltage channel through stage 3. -/
def Dev.voltDc (d : Dev) (c : Nat) : Dev × Int :=
  d.dcStep (256 + c) (sfieldAt (d.voltBlk (d.volt.serving % 2)) (8 + 8 * c) 4) (d.servedVolt c)

def Dev.voltStep (d : Dev) (ph : Nat) : Dev × VoltIn :=
  let (d, v) := d.voltDc ph
  let (d, l) := d.delayLine (256 + ph) v
  let (d, v1) := d.resStep (256 + ph) (centre l)
  (d, ⟨centre l, quadrature l, v1⟩)

/-- Every current channel that delivers a sample through stage 3 (R361). -/
def Dev.currents (d : Dev) : Dev × Tbl Int :=
  ((List.range 196).filter d.delivers).foldl (fun (p : Dev × Tbl Int) c =>
    let r := p.1.dcStep c (sfieldAt (p.1.chanBlk c) 12 4) (p.1.calCur c (p.1.curCode c))
    (r.1, p.2.set c r.2)) (d, {})

/-- A current after stage 3, delayed to match v90, and resonated. -/
def Dev.curStep (d : Dev) (c : Nat) (i : Int) : Dev × Int × Int :=
  let (d, l) := d.delayLine c i
  let (d, i1) := d.resStep c (centre l)
  (d, centre l, i1)

/-! ### Pairs of one sample -/

/-- The pairs of account `a` that take this sample: it stands in a state reached through TARGET = 2, and their channels deliver. -/
def Dev.pairsTaking (d : Dev) (a : Nat) : List Nat :=
  if d.inService a then (d.pairsOf a).filter fun k => d.delivers (d.pairCh a k) else []

/-- One pair takes its sample; its unfiltered products join the half-cycle's sample. -/
def Dev.takePair (d : Dev) (vs : List VoltIn) (is : Tbl Int) (a k : Nat) (smp : Smp) : Dev × Smp :=
  let c := d.pairCh a k
  let (d, i, i1) := d.curStep c (is.get c 0)
  let v := vs.getD (d.pairPh a k) ⟨0, 0, 0⟩
  let d := d.pairSample a k ⟨v.v, v.v90, v.v1, i, i1⟩
  (d, { smp with pairs := smp.pairs.set (3 * a + k) ⟨v.v * i, v.v90 * i, i * i, v.v * v.v⟩ })

/-- Every account takes the sample: its pairs, and the energy of those that deliver (R369, R387). -/
def Dev.takeAccounts (d : Dev) (vs : List VoltIn) (is : Tbl Int) (smp : Smp) : Dev × Smp :=
  d.accts.keys.foldl (fun (p : Dev × Smp) a =>
    let ks := p.1.pairsTaking a
    let p := ks.foldl (fun (q : Dev × Smp) k => q.1.takePair vs is a k q.2) p
    (if p.1.advances a && !ks.isEmpty then p.1.accountSample a ks else p.1, p.2)) (d, smp)

/-! ### Capture and the tracker's filter -/

/-- The value of a capture channel: the calibrated 24-bit sample (R494). -/
def Dev.captureValue (d : Dev) (c : Nat) : Option Int :=
  if 0xF0 ≤ c then some (roundEven (d.servedVolt (c - 0xF0)) (2 ^ 30))
  else (d.curOf c).map fun i => roundEven i (2 ^ 30)

/-- The capture store takes the sample: the newest 32,768 / NCH sample periods are kept until the trigger, and POST and
the decision's 640 beyond it (R493). -/
def Dev.captureSample (d : Dev) : Dev :=
  match d.pq.cap.arm with
  | none => d
  | some b =>
    let n := fieldAt b 0 1
    let chs := (List.range n).map fun i => fieldAt b (8 + i) 1
    let keep := if d.pq.cap.trig.isSome then fieldAt b 4 2 + fieldAt b 6 2 + 640 else 32768 / (max n 1)
    { d with pq := { d.pq with cap := { d.pq.cap with
      store := ((d.up - pathDelay, chs.map fun c => d.captureValue c) :: d.pq.cap.store).take keep } } }

/-- The harmonic channels of an account: its pairs' channels, and 192–195 of the feeder account in METERING (R486). -/
def Dev.harmChannels (d : Dev) (a : Nat) : List Nat :=
  if a = 64 && (d.acct a).shown = 2 then [192, 193, 194, 195] else (d.pairsOf a).map (d.pairCh a)

/-- The harmonic sample store takes the sample: it keeps what a window closed or open can need, from 1 ms before its opening (R483, R486). -/
def Dev.harmSample (d : Dev) : Dev :=
  let h := d.pq.harm
  let now := d.up - pathDelay
  let since := match h.closed, h.win with
    | some w, _ => w.opened
    | none, some w => w.opened
    | none, none => now - ms 10
  let volts : Tbl Int := Tbl.ofFn [0xF0, 0xF1, 0xF2] fun c => d.servedVolt (c - 0xF0)
  let all := ((d.accts.keys.filter d.inService).flatMap d.harmChannels).foldl (fun (t : Tbl Int) c =>
    match d.curOf c with | some i => t.set c i | none => t) volts
  { d with pq := { d.pq with harm := { h with store := ((now, all) :: h.store).filter fun x => since ≤ x.1 + ms 1 } } }

/-- The cycle period the tracker estimates, in 2^−30 s (R405). -/
def Dev.estPeriod (d : Dev) : Nat := d.trk.period.getD (second / d.fnom)

/-- A sign change of the fundamental filter's output: accepted, or a glitch (R406). -/
def Dev.acceptCrossing (d : Dev) (inst : Nat) (positive : Bool) : Dev :=
  let t := d.trk
  let glitch : Bool := match t.lastAccepted with
    | some l => inst < l + d.estPeriod / 8
    | none => false
  if glitch then { d with trk := { t with glitch := sat32 (t.glitch + 1) } }
  else { d with trk := { t with lastAccepted := some inst, waiting := t.waiting ++ [(inst, positive)] } }

/-- The period the fundamental filter is tuned to: the last confirmed one held within 70 Hz and 40 Hz, and in SEARCH the declared
nominal (R405). -/
def Dev.fundPeriod (d : Dev) : Nat :=
  if d.trk.state = .search then second / d.fnom else max (second / 70) (min (second / 40) d.estPeriod)

/-- The tracked voltage passes the fundamental filter. A sign change is a crossing: its instant is interpolated between the two samples
around it in 1/1,024 sample and corrected for the group delay of an eighth of a period (R402, R405, R406). -/
def Dev.trackSample (d : Dev) (x : Int) : Dev :=
  let t := d.trk
  let p := d.fundPeriod
  let (f, y) := Config.fundamental p t.filt x
  let d := { d with trk := { t with filt := f, out := some y } }
  match t.out with
  | none => d
  | some y0 =>
    if (y0 < 0) = (y < 0) then d
    else
      let k := (freeDiv 5 (|y0| * 1024) (|y0| + |y|)).toNat
      d.acceptCrossing (d.up - pathDelay - sfUnits + k * second / (16000 * 1024) - p / 8) (0 ≤ y)

/-! ### SAMPLE_PERIOD -/

/-- The direct inputs and the converters bring their part of a sample period, and the downstream frames of the next begin. -/
def Dev.sampleEvents (d : Dev) (x : Sample) : Dev :=
  ((d.each (List.range 4) fun d i => d.takeDm i (x.dm.getD i [])).takeFrames x).nextFrames

/-- The metrology core takes a sample: stages 2 to 7, half-cycle values, capture and the tracker's crossing. -/
def Dev.meterSample (d : Dev) : Dev :=
  let raw := (List.range 4).map d.servedVolt
  let smp : Smp := { ref := d.up - pathDelay, vb := d.volt.serving = 1
                     v2 := Tbl.ofFn (List.range 4) fun c => raw.getD c 0 * raw.getD c 0
                     dm := Tbl.ofFn ([192, 193, 194, 195].filter fun c => (d.curOf c).isSome) fun c => (d.curOf c).getD 0 }
  let d := d.captureSample.harmSample
  let (d, vs) := (List.range 3).foldl (fun (p : Dev × List VoltIn) ph =>
    let r := p.1.voltStep ph
    (r.1, p.2 ++ [r.2])) (d, [])
  let (d, _) := d.voltDc 3
  let (d, is) := d.currents
  let (d, smp) := d.takeAccounts vs is smp
  let d := { d with trk := { d.trk with log := { smp with v1 := vs.map VoltIn.v1 } :: d.trk.log } }
  d.trackSample (raw.getD d.trk.volt 0)

/-- Metrology clocks of one sample period: MCLK is a quarter of the metrology clock, and 384 MCLK periods are one sample (R77). -/
def sampleClocks : Nat := 4 * 384

/-- A sample instant passes. -/
def Dev.sampleInstant (d : Dev) : Dev :=
  { d with pwr := { d.pwr with smpClocks := d.pwr.smpClocks % sampleClocks, tickSmps := d.pwr.tickSmps + 1 } }

/-- SAMPLE_PERIOD: one 16 kS/s sample of every channel, 1,536 metrology clocks after the one before (R57, R77, R360–R379, R389,
R406). While no converter gives valid voltages, or before accumulation begins, it enters no filter and no register. -/
def execSamplePeriod (x : Sample) (s : State) : Host.Outcome State Fault Refusal :=
  let d := s.dev
  if !d.metRuns || d.pwr.smpClocks < sampleClocks then s.ok d
  else
    let d := d.sampleInstant.sampleEvents x
    s.ok (if d.pwr.accum && d.volt.serving ≠ 2 then d.meterSample else d)

/-! ### Reversed current (R384–R386) -/

/-- The commit tick counts each pair's run below −P_REV, and at or above 0, of a tenant in IMPORT_ONLY or ABSOLUTE; a sample that breaks a
run sets it to 0 (R371, R384, R386). -/
def Dev.reversalTick (d : Dev) : Dev :=
  d.each (d.accts.keys.filter fun a => a < 64 && d.inService a) fun d a =>
    d.each (d.pairsOf a) fun d k =>
      let c := d.pairCh a k
      d.updPair a k fun p =>
        let pk := d.powerOf c 0 (p.out.get 0 0)
        let runs := p.gate && d.delivers c && !d.paused a && blkDir (d.acct a).block ≠ 1
        { p with
          revRun := if runs && pk < -(d.pRev c) then p.revRun + 1 else 0
          backRun := if runs && pk ≥ 0 then p.backRun + 1 else 0
          reversed := p.reversed && blkDir (d.acct a).block ≠ 1 }

/-- REVERSE_CURRENT: a pair of a tenant in IMPORT_ONLY or ABSOLUTE has stayed below −P_REV for 1,000 commit ticks. -/
def execReverseCurrent (a : Fin 64) (k : Fin 3) (s : State) : Host.Outcome State Fault Refusal :=
  let d := s.dev
  let p := d.pair a k
  if d.metRuns && d.inService a && k.val ∈ d.pairsOf a && blkDir (d.acct a).block ≠ 1 && !p.reversed && p.revRun ≥ 1000 then
    s.ok ((d.updPair a k fun p => { p with reversed := true }).tamper 0x07 (3 * a + d.pairPh a k) d.now)
  else s.ok d

/-- REVERSAL_END: a reversed pair has stayed at or above 0 for 1,000 commit ticks. -/
def execReversalEnd (a : Fin 64) (k : Fin 3) (s : State) : Host.Outcome State Fault Refusal :=
  let d := s.dev
  let p := d.pair a k
  if d.metRuns && p.reversed && p.backRun ≥ 1000 then
    s.ok (d.updPair a k fun p => { p with reversed := false })
  else s.ok d

end Sys2Proof.Machine
end

