-- ==== Sys2Proof/Machine/Pq.lean ====
section
/-!
DEFINITION. Machine/Pq.lean: half-cycle values, Urms½ and its events, phase angles, the neutral, harmonic windows and
waveform capture (chapters 9 and 10).
-/
namespace Sys2Proof.Machine

/-! ### Seconds (R250, R498) -/

/-- A second begins at this commit tick: sums and counts start from 0; a pair without samples or in overload spoils it from
the start. -/
def Dev.openSecond (d : Dev) : Dev :=
  let d := d.each d.accts.keys fun d a => d.each (d.pairsOf a) fun d k => d.updPair a k fun p =>
    { p with sec := {}, secBad := d.volt.serving = 2 || !d.delivers (d.pairCh a k) || (d.chan (d.pairCh a k)).ovl }
  { d with
    pq := { d.pq with ticks := 0, secStart := d.up, secOn := true, secTouched := false, secVoltB := d.volt.serving = 1 }
    trk := { d.trk with secFirst := none, secCount := 0 } }

/-- A commit tick counts towards the running second, which begins with the first after accumulation began; the hundredth begins the
next. -/
def Dev.secondTick (d : Dev) : Dev :=
  if !d.pwr.accum then d
  else if !d.pq.secOn then { d.openSecond with pq := { d.openSecond.pq with secTouched := true } }
  else if d.pq.ticks + 1 ≥ 100 then d.openSecond
  else { d with pq := { d.pq with ticks := d.pq.ticks + 1 } }

/-! ### Half-cycle values (R414, R415, Table 9.2) -/

/-- The sums over the samples of a half-cycle from `opened` up to, but excluding, `closed`. -/
def Dev.sumHalf (d : Dev) (opened closed : Nat) (free : Bool) : Half :=
  let smps := d.trk.log.filter fun x => opened ≤ x.ref && x.ref < closed
  let h : Half := { hcsn := d.trk.hcsn, opened := opened, closed := closed, n := smps.length, free := free
                    vb := smps.any Smp.vb, redone := d.trk.redone }
  smps.foldl (fun h x =>
    let amp (c : Nat) : Int := x.dm.get c 0 * d.ifull c
    let res := amp 192 + amp 193 + amp 194
    { h with
      pairs := x.pairs.cells.foldl (fun t p => t.upd p.1 {} fun s =>
        { p := s.p + p.2.p, q := s.q + p.2.q, i2 := s.i2 + p.2.i2, v2 := s.v2 + p.2.v2, n := s.n + 1 }) h.pairs
      v2 := x.v2.cells.foldl (fun t p => t.upd p.1 0 fun s => s + p.2) h.v2
      v1 := x.v1 :: h.v1, res2 := h.res2 + res * res, in2 := h.in2 + amp 195 * amp 195 }) h

/-- An energy numerator over `pDen` mW·samples as a field in 2^−12 mWh (R934). -/
def energyField (num : Int) : Int := clampI (-(2 ^ 23)) (2 ^ 23 - 1) (roundEven (num * 4096 * 625) (pDen * 36 * 10 ^ 9))

/-- √(sum / n) in 10 mV or 10 mA, for a sum of squares scaled by 2^60 and a full scale in mV or mA (R934). -/
def rmsField (sum : Int) (n full : Nat) : Nat :=
  if n = 0 then 0 else satTo 16 (sqrtRound (sum.toNat * full * full) (n * 2 ^ 106 * 100))

/-- The values of one account over a half-cycle: E_P, E_Q, and IRMS and VRMS of each pair. -/
structure HalfVals where
  p : Int
  q : Int
  i : List Nat
  v : List Nat
  deriving DecidableEq, Repr

def Dev.halfVals (d : Dev) (a : Nat) (h : Half) : HalfVals :=
  let ks := d.pairsOf a
  let pr (k : Nat) : PairHalf := h.pairs.get (3 * a + k) {}
  let e (k q : Nat) (x : Int) : Int :=
    let c := d.pairCh a k
    d.gained c q x + ((pr k).n : Int) * sfieldAt (d.chanBlk c) (if q = 1 then 26 else 24) 2 * pDen
  { p := energyField (sumOnI ks fun k => e k 0 (pr k).p)
    q := energyField (sumOnI ks fun k => e k 1 (pr k).q)
    i := ks.map fun k =>
      let c := d.pairCh a k
      rmsField ((pr k).i2 - ((pr k).n * fieldAt (d.chanBlk c) 28 4 : Nat) * 2 ^ 60) (pr k).n (d.ifull c)
    v := ks.map fun k => rmsField (pr k).v2 (pr k).n d.vfull }

/-! ### Urms½ (R460) -/

/-- A mean square in (10 mV)² as a fraction. -/
structure MeanSq where
  num : Nat
  den : Nat
  deriving DecidableEq, Repr

/-- Urms½ squared of voltage channel `c` over two half-cycles. -/
def Dev.urmsOf (d : Dev) (x y : Half) (c : Nat) : MeanSq :=
  ⟨(x.v2.get c 0 + y.v2.get c 0).toNat * d.vfull * d.vfull, (max 1 (x.n + y.n)) * 2 ^ 106 * 100⟩

/-- Urms½ as reported, in 10 mV. -/
def MeanSq.value (u : MeanSq) : Nat := satTo 16 (sqrtRound u.num u.den)

/-- Urms½ < thr/1000 × ref, and Urms½ > thr/1000 × ref, for a reference in 10 mV. -/
def MeanSq.below (u : MeanSq) (thr ref : Nat) : Bool := u.num * 10 ^ 6 < (thr * ref) ^ 2 * u.den
def MeanSq.above (u : MeanSq) (thr ref : Nat) : Bool := u.num * 10 ^ 6 > (thr * ref) ^ 2 * u.den

/-- The phases judged (R464). -/
def Dev.judged (d : Dev) : List Nat := [0, 1, 2].filter d.vinUsed

/-- Ref of a phase (R465): U_NOM, or the phase's sliding reference. -/
def Dev.refOf (d : Dev) (p : Nat) : Nat := if d.pqField 0 1 = 0 then d.unom else d.pq.ref.get p d.unom

def Dev.setPq (d : Dev) (q : Pq) : Dev := { d with pq := q }

/-! ### Sags, swells and interruptions (Table 10.2, R465–R470) -/

/-- The start rules on given values: sag, swell, interruption. -/
def Dev.sagOn (d : Dev) (u : Nat → MeanSq) : Bool := d.judged.any fun p => (u p).below (d.pqField 2 2) (d.refOf p)
def Dev.swellOn (d : Dev) (u : Nat → MeanSq) : Bool := d.judged.any fun p => (u p).above (d.pqField 4 2) (d.refOf p)
def Dev.intOn (d : Dev) (u : Nat → MeanSq) : Bool :=
  !d.judged.isEmpty && d.judged.all fun p => (u p).below (d.pqField 6 2) d.unom

/-- The end rules. -/
def Dev.sagOff (d : Dev) (u : Nat → MeanSq) : Bool :=
  d.judged.all fun p => !(u p).below (d.pqField 2 2 + d.pqField 8 2) (d.refOf p)
def Dev.swellOff (d : Dev) (u : Nat → MeanSq) : Bool :=
  d.judged.all fun p => !(u p).above (d.pqField 4 2 - d.pqField 8 2) (d.refOf p)
def Dev.intOff (d : Dev) (u : Nat → MeanSq) : Bool :=
  d.judged.any fun p => !(u p).below (d.pqField 6 2 + d.pqField 8 2) d.unom

/-- VOLT_B as RFLAGS (Table 19.2). -/
def voltFlag (vb : Bool) : Nat := if vb then flagVoltB else 0

/-- VOLT_B and FREE_RUN of what two half-cycles give (Table 19.2). -/
def halfFlags (x y : Half) : Nat := voltFlag (x.vb || y.vb) + if x.free || y.free then flagFreeRun else 0

/-- An EVENT_PQ record of the event detector. -/
def Dev.postPq (d : Dev) (event : Nat) (time : DevTime) (fl : Nat) (fs : List Fld) (len : Nat := 48) : Dev :=
  d.post { ty := 0x10, flags := fl, time := time, len := len, pay := ⟨0, 1, event⟩ :: fs }

/-- The judged phase with the lowest or highest value, and the value. -/
def extremeOf (low : Bool) (vals : List (Nat × Nat)) : Nat × Nat :=
  match vals with
  | [] => (0, 0)
  | x :: t => t.foldl (fun m y => if (if low then y.2 < m.2 else y.2 > m.2) then y else m) x

/-- An event with a further Urms½: the extreme so far, and its half-cycles. -/
def PqEvent.further (e : PqEvent) (low : Bool) (vals : List (Nat × Nat)) (fl : Nat) : PqEvent :=
  let x := extremeOf low vals
  let better := if low then x.2 < e.extreme else x.2 > e.extreme
  { e with extreme := if better then x.2 else e.extreme, phase := if better then x.1 else e.phase
           halves := e.halves + 1, flags := e.flags ||| fl }

/-- A start: the event, and its record (R466, Table 10.3). -/
def Dev.startEvent (d : Dev) (code : Nat) (stamp : DevTime) (hcsn fl : Nat) (vals : List (Nat × Nat))
    (halves : Nat) : Dev × PqEvent :=
  let x := extremeOf (code ≠ 3) vals
  (d.postPq code stamp fl ([⟨4, 4, hcsn⟩] ++ d.judged.map (fun p => ⟨8 + 2 * p, 2, d.refOf p⟩) ++
      vals.map fun v => ⟨14 + 2 * v.1, 2, v.2⟩),
    { start := stamp, extreme := x.2, phase := x.1, halves := halves, flags := fl })

/-- An end: its record, and the count of the phase of the extreme (R466, R469). Kinds: 0 sag, 1 swell, 2 interruption. -/
def Dev.endEvent (d : Dev) (code kind : Nat) (e : PqEvent) (time : DevTime) (halves : Nat) (byInt : Bool) : Dev :=
  let d := d.setWork { d.led.work with device := { d.led.work.device with
    counts := d.led.work.device.counts.upd (3 * e.phase + kind) 0 fun n => sat32 (n + 1) } }
  d.postPq code time e.flags [⟨1, 1, b2n byInt⟩, ⟨4, 8, e.start⟩, ⟨12, 4, halves⟩, ⟨16, 2, e.extreme⟩, ⟨18, 1, e.phase⟩]

/-- Interruptions on a new Urms½; a sag in progress ends at an interruption's start (R468). -/
def Dev.evalInt (d : Dev) (u : Nat → MeanSq) (vals : List (Nat × Nat)) (stamp endT : DevTime) (hcsn fl : Nat) :
    Dev × Bool :=
  match d.pq.intr with
  | some e =>
    let e := e.further true vals fl
    if d.intOff u then ((d.setPq { d.pq with intr := none }).endEvent 0x06 2 e endT e.halves false, true)
    else (d.setPq { d.pq with intr := some e }, false)
  | none =>
    if d.intOn u then
      let d := match d.pq.sag with
        | some s => (d.setPq { d.pq with sag := none }).endEvent 0x02 0 s stamp (s.halves - 1) true
        | none => d
      let (d, e) := d.startEvent 0x05 stamp hcsn fl vals 2
      (d.setPq { d.pq with intr := some e }, false)
    else (d, false)

/-- Every event on a new Urms½: interruption, sag, swell, each on its own (Table 10.2); `next` is the HCSN of the half-cycle that
opens at its end. -/
def Dev.evalEvents (d : Dev) (u : Nat → MeanSq) (stamp endT : DevTime) (hcsn next fl : Nat) : Dev :=
  let vals := d.judged.map fun p => (p, (u p).value)
  let (d, ended) := d.evalInt u vals stamp endT hcsn fl
  let d := match d.pq.sag with
    | some e =>
      let e := e.further true vals fl
      if d.sagOff u then (d.setPq { d.pq with sag := none }).endEvent 0x02 0 e endT e.halves false
      else d.setPq { d.pq with sag := some e }
    | none =>
      if d.pq.intr.isNone && d.sagOn u then
        let (d, e) := d.startEvent 0x01 (if ended then endT else stamp) (if ended then next else hcsn) fl vals (if ended then 0 else 2)
        d.setPq { d.pq with sag := some e }
      else d
  match d.pq.swell with
  | some e =>
    let e := e.further false vals fl
    if d.swellOff u then (d.setPq { d.pq with swell := none }).endEvent 0x04 1 e endT e.halves false
    else d.setPq { d.pq with swell := some e }
  | none =>
    if d.swellOn u then
      let (d, e) := d.startEvent 0x03 stamp hcsn fl vals 2
      d.setPq { d.pq with swell := some e }
    else d

/-- A new Urms½ of every voltage from two half-cycles that follow each other (R460). A free-running half-cycle has no HCSN (R413),
and what a record then carries in its place is open. -/
def Dev.newUrms (d : Dev) (x y : Half) : Dev :=
  let u := d.urmsOf x y
  let q := d.pq
  let d := d.setPq { q with
    urms := Tbl.ofFn (List.range 4) fun c => (u c).value
    lowest := d.judged.foldl (fun t p => t.set p (min (u p).value (t.get p 65535))) q.lowest
    highest := d.judged.foldl (fun t p => t.set p (max (u p).value (t.get p 0))) q.highest }
  let low := [0, 1, 2].any fun p => (u p).below 400 d.unom
  let d := if low then d.setPq { d.pq with candRun := 0 } else d
  let (d, m) := if x.free || y.free then d.draw else (d, 0)
  d.evalEvents u (d.stamp x.opened) (d.stamp y.closed) (if x.free then m % 2 ^ 32 else x.hcsn)
    (if y.free then m / 2 ^ 32 % 2 ^ 32 else wrap 32 (y.hcsn + 1)) (halfFlags x y)

/-- PQ_SUMMARY: every 15 minutes in RUN: counts, lowest and highest Urms½, sliding reference (Tables 10.3, 19.15). -/
def execPqSummary (s : State) : Host.Outcome State Fault Refusal :=
  let d := s.dev
  if d.pwr.pstate = .run && d.metRuns && d.serving && d.quarterDue 0x1007 then
    let d := d.quarter 0x1007
    let c (p k : Nat) : Nat := d.led.work.device.counts.get (3 * p + k) 0
    let d := d.postPq 0x07 d.now (voltFlag (d.pq.sumVoltB || d.volt.serving = 1)) (d.judged.flatMap fun p =>
      [⟨4 + 24 * p, 4, c p 0⟩, ⟨8 + 24 * p, 4, c p 1⟩, ⟨12 + 24 * p, 4, c p 2⟩,
        ⟨16 + 24 * p, 2, d.pq.lowest.get p 0⟩, ⟨18 + 24 * p, 2, d.pq.highest.get p 0⟩, ⟨20 + 24 * p, 2, d.pq.ref.get p d.unom⟩]) 76
    s.ok (d.setPq { d.pq with lowest := {}, highest := {}, sumVoltB := false })
  else s.ok d

/-! ### Phase angles (Table 10.4, R475–R478) -/

/-- The first component at 1/n of the sample rate of n samples, over the turn they take: real and imaginary part. -/
def phasor (xs : List Int) : Int × Int :=
  let n := xs.length
  (xs.mapIdx fun k x => let w := circle n k; (x * w.1, -(x * w.2))).foldl (fun s z => (s.1 + z.1, s.2 + z.2)) (0, 0)

/-- The angle of a direction in 0.0001°, from 0 to 3,599,999. -/
def angleIn (x y : Int) : Nat :=
  let low := y < 0 || (y = 0 && x < 0)
  let (x, y) := if low then (-x, -y) else (x, y)
  let k := (List.range 21).foldr (fun b k =>
    let m := k + 2 ^ b
    let w := circle 3600000 m
    if m < 1800000 && w.1 * y ≥ w.2 * x then m else k) 0
  if low then 1800000 + k else k

/-- The lag of VB and of VC behind VA over the resonated samples of a cycle, in 0.0001° (R475; DEDUCED, assumption 133: from the
fundamental component of each over the samples of the cycle). -/
def lagsOf (v1 : List (List Int)) : Nat × Nat :=
  let z := fun c => phasor (v1.map fun l => l.getD c 0)
  let lag := fun c => angleIn ((z 0).1 * (z c).1 + (z 0).2 * (z c).2) ((z 0).2 * (z c).1 - (z 0).1 * (z c).2)
  (lag 1, lag 2)

/-- `a` lies within 30° of `t`, `a` in 0.0001° and `t` in degrees. -/
def near (a t : Nat) : Bool := (a + 3600000 + 300000 - 10000 * t) % 3600000 ≤ 600000

/-- The class of two lags. -/
def angleClass (b c : Nat) : Nat :=
  if near b 120 && near c 240 then 0
  else if near b 240 && near c 120 then 1
  else if near b 300 && near c 60 then 2
  else if near b 300 && near c 240 then 3
  else if near b 120 && near c 60 then 4
  else 0xFF

/-- One cycle's angles: a new class is adopted after 50 consecutive cycles that all give it. -/
def Dev.judgeAngles (d : Dev) (b c began : Nat) (vb : Bool) : Dev :=
  let q := d.pq
  let ok := d.pqOn 1 && (d.vinUsed 0 && d.vinUsed 1 && d.vinUsed 2) &&
    (List.range 3).all fun p => q.urms.get p 0 * 1000 ≥ 400 * d.unom
  let k := angleClass b c
  if !ok then d.setPq { q with candRun := 0 }
  else if k = q.cls then d.setPq { q with candRun := 0 }
  else
    let q := if q.candRun = 0 || q.cand ≠ k then { q with cand := k, candRun := 0, candStart := began, candB := false, sumB := 0, sumC := 0 } else q
    let q := { q with candB := q.candB || vb, candRun := q.candRun + 1, sumB := q.sumB + b, sumC := q.sumC + c }
    if q.candRun < 50 then d.setPq q
    else
      let old := q.cls
      let d := d.setPq { q with cls := k, candRun := 0 }
      let d := d.post { ty := 0x12, flags := voltFlag q.candB, time := d.stamp q.candStart, pay := [⟨0, 1, old⟩, ⟨1, 1, k⟩,
        ⟨2, 2, (roundEven q.sumB 5000).toNat⟩, ⟨4, 2, (roundEven q.sumC 5000).toNat⟩] }
      let d := d.captureTrig 4 0 q.candStart
      if 1 ≤ k && k ≤ 4 then d.tamper 0x08 (k - 1) d.now else d

/-! ### Missing neutral (R479, R480) -/

/-- One condition of the neutral on one cycle; the values its record carries. -/
def Dev.judgeNeutral (d : Dev) (cond began : Nat) (vb holds : Bool) (fs : List Fld) : Dev :=
  let q := d.pq
  let on := q.neutral.get cond false
  if holds = on then d.setPq { q with neutRun := q.neutRun.set cond 0 }
  else
    let n := q.neutRun.get cond 0 + 1
    let q := { q with neutRun := q.neutRun.set cond n, neutB := q.neutB.set cond (vb || (n > 1 && q.neutB.get cond false)), neutStart := if n = 1 then q.neutStart.set cond began else q.neutStart }
    if n < 50 then d.setPq q
    else
      let d := d.setPq { q with neutral := q.neutral.set cond holds, neutRun := q.neutRun.set cond 0 }
      let d := d.post { ty := 0x13, flags := voltFlag (q.neutB.get cond false), time := d.stamp (q.neutStart.get cond 0),
                        pay := [⟨0, 1, if holds then 1 else 2⟩, ⟨1, 1, cond⟩] ++ fs }
      if holds then d.tamper 0x09 cond d.now else d

/-- A condition of the neutral whose check is not enabled is not judged: its run is dropped, and one in progress stays (DESIGN CHOICE,
assumption 134). -/
def Dev.skipNeutral (d : Dev) (cond : Nat) : Dev := d.setPq { d.pq with neutRun := d.pq.neutRun.set cond 0 }

/-- Both conditions over the cycle of two half-cycles. -/
def Dev.neutralCycle (d : Dev) (x y : Half) : Dev :=
  let u := d.urmsOf x y 3
  let n := max 1 (x.n + y.n)
  let res := (x.res2 + y.res2).toNat
  let cur := (x.in2 + y.in2).toNat
  let amps (sum : Nat) : Nat := satTo 16 (sqrtRound sum (n * 2 ^ 106 * 100))
  let fs : List Fld := [⟨2, 2, u.value⟩, ⟨4, 2, amps res⟩, ⟨6, 2, amps cur⟩]
  let d := if d.pqOn 2 && d.vinUsed 3 then
      d.judgeNeutral 0 x.opened (x.vb || y.vb) (u.num > (10 * d.pqField 10 2) ^ 2 * u.den) fs
    else d.skipNeutral 0
  if d.pqOn 3 && d.dmMode 3 ≠ 0 && (d.acct 64).shown = 2 then
    d.judgeNeutral 1 x.opened (x.vb || y.vb) (res ≥ (100 * d.pqField 12 2) ^ 2 * 2 ^ 106 * n && cur * 10 ^ 6 < d.pqField 14 2 ^ 2 * res) fs
  else d.skipNeutral 1

/-! ### Harmonic windows (R482–R490, R510) -/

/-- Cycles of a full window, by the nominal frequency it opened under (R482, Table 11.6). -/
def HarmWin.full (w : HarmWin) : Nat := if w.at60 then 12 else 10

def Dev.setHarm (d : Dev) (h : Harm) : Dev := d.setPq { d.pq with harm := h }

/-- A half-cycle joins the window in progress: its squares, clipping, overload, and Converter B. -/
def Dev.windowHalf (d : Dev) (h : Half) : Dev :=
  match d.pq.harm.win with
  | none => d
  | some w =>
    let loud := d.intake.chans.keys.filter fun c => (d.chan c).ovl && !w.clipCh.contains c
    d.setHarm { d.pq.harm with win := some { w with
      clip := w.clip || d.volt.clipNow.any fun c => c < 3, clipCh := w.clipCh ++ loud, voltB := w.voltB || h.vb || d.volt.serving = 1
      v2 := (List.range 3).foldl (fun t c => t.upd c 0 fun s => s + h.v2.get c 0) w.v2, n := w.n + h.n } }

/-- The sliding references take a window's RMS, unless it is INCOMPLETE or an event is in progress (R463). The low-pass of
60 s moves by the window's share of that time (DEDUCED, assumption 128). -/
def Dev.slideRefs (d : Dev) (w : HarmWin) (closed : Nat) : Dev :=
  if w.incomplete || w.n = 0 || d.pq.sag.isSome || d.pq.swell.isSome || d.pq.intr.isSome then d
  else d.each [0, 1, 2] fun d p =>
    let s := d.pq.refState.get p (d.unom * 2 ^ 16)
    let x : Int := rmsField (w.v2.get p 0) w.n d.vfull
    let s := s + freeDiv 7 ((x * 2 ^ 16 - s) * (closed - w.opened : Nat)) (60 * second)
    d.setPq { d.pq with refState := d.pq.refState.set p s, ref := d.pq.ref.set p (roundEven s (2 ^ 16)).toNat }

/-- The window in progress closes at an instant, with what it holds; with fewer than 2 cycles nothing is posted for it
(R490). -/
def Dev.closeWindow (d : Dev) (closed : Nat) (cut : Bool) : Dev :=
  match d.pq.harm.win with
  | none => d
  | some w =>
    let w := { w with incomplete := w.incomplete || cut, closed := closed }
    let d := d.setHarm { d.pq.harm with win := none, closed := if w.cycles ≥ 2 then some w else d.pq.harm.closed }
    if cut then d else d.slideRefs w closed

/-- A positive-going crossing is confirmed: a cycle ends, and a full window closes and opens the next. -/
def Dev.windowCycle (d : Dev) (inst hcsn : Nat) : Dev :=
  let d := match d.pq.harm.win with
    | some w => d.setHarm { d.pq.harm with win := some { w with cycles := w.cycles + 1 } }
    | none => d
  let full := match d.pq.harm.win with | some w => decide (w.cycles ≥ w.full) | none => true
  if !full then d
  else
    let d := d.closeWindow inst false
    let d := d.each d.accts.keys fun d a => d.each (d.pairsOf a) fun d k => d.updPair a k fun p => { p with winBad := false }
    d.setHarm { d.pq.harm with win := some { opened := inst, hcsn := hcsn, at60 := d.fnom = 60, incomplete := d.pq.harm.incomplete }, incomplete := false }

/-- One channel's harmonic result: G_1 in mV or mA, THD and G_2 upward in 0.001 % of G_1 (R486). -/
structure HarmResult where
  ch : Nat
  g1 : Nat
  thd : Nat
  g : List Nat
  deriving DecidableEq, Repr

/-- Point `j` of 1,024 spread evenly over a window, from one channel's samples with their reference instants (R484). -/
def harmPoint (opened length j : Nat) (smps : List (Nat × Int)) : Int :=
  freeDiv 6 (sumOnI smps fun x =>
    let off : Int := 1024 * ((x.1 : Int) - opened) - j * length
    if |off| ≤ 1024 * ms 1 then Config.resampleTap length off * x.2 else 0) (2 ^ 30)

/-- Bin `k` of the 1,024-point DFT, squared: of points scaled by 2^30, in 2^−188; C(k)² is 2 / 1,024² of it (R485). -/
def bin2 (table : List (Int × Int)) (pts : List Int) (k : Nat) : Nat :=
  let z := (pts.mapIdx fun n x => let w := table.getD (n * k % 1024) (0, 0); (x * w.1, x * w.2)).foldl
    (fun (s : Int × Int) w => (s.1 + w.1, s.2 + w.2)) (0, 0)
  (z.1 * z.1 + z.2 * z.2).toNat

/-- G_h² of order `h`, 1,024² of it in 2^−188: bins within 5 of 10h, or 6 of 12h at 60 Hz, the outermost at half weight (R485). -/
def group2 (at60 : Bool) (table : List (Int × Int)) (pts : List Int) (h : Nat) : Nat :=
  let w := if at60 then 6 else 5
  let c := 2 * w * h
  bin2 table pts (c - w) + bin2 table pts (c + w) + 2 * sumOn (span (c - w + 1) (2 * w - 1)) (bin2 table pts)

/-- The harmonic results of a channel over a window; `full` is its full scale in mV or mA. What the manual gives no grouping for, a
window cut short, and what no samples were delivered for, is free; so are the ratios to a G_1 of 0 (DESIGN CHOICE, assumption 135). -/
def Dev.harmResult (d : Dev) (w : HarmWin) (c full : Nat) : Dev × HarmResult :=
  let store := d.pq.harm.store
  let smps := store.filterMap fun x => (x.2.get? c).map fun v => (x.1, v)
  let whole := w.cycles = w.full && store.all fun x => !(w.opened ≤ x.1 && x.1 < w.closed) || (x.2.get? c).isSome
  let table := (List.range 1024).map (circle 1024)
  let pts := (List.range 1024).map fun j => harmPoint w.opened (w.closed - w.opened) j smps
  let top := if w.at60 then 42 else 50
  let g := fun h => group2 w.at60 table pts h
  let ratio := fun (n : Nat) => sqrtRound (n * 10 ^ 10) (g 1)
  if whole && g 1 ≠ 0 then
    (d, ⟨c, sqrtRound (g 1 * full * full) (2 ^ (20 + 46 + 188)), ratio (sumOn (span 2 (top - 1)) g), (span 2 (top - 1)).map fun h => ratio (g h)⟩)
  else
    let (d, g1) := d.draw
    let (d, thd) := d.draw
    let (d, gs) := (List.range (top - 1)).foldl (fun (p : Dev × List Nat) _ => let r := p.1.draw; (r.1, p.2 ++ [r.2 % 65536])) (d, [])
    (d, ⟨c, if whole then 0 else g1 % 2 ^ 32, thd % 2 ^ 32, gs⟩)

/-- The payload of a HARMONICS record over channels (Table 19.10). -/
def HarmWin.pay (w : HarmWin) (chs : List Nat) (rs : List HarmResult) (bad clip : Bool) : Nat × List Fld :=
  let blocks := (chs.mapIdx fun i c =>
    let r := (rs.find? fun r => r.ch = c).getD ⟨c, 0, 0, []⟩
    ([⟨16 + 112 * i, 2, c⟩, ⟨20 + 112 * i, 4, satTo 32 r.g1⟩, ⟨24 + 112 * i, 4, satTo 32 r.thd⟩] : List Fld) ++
      r.g.mapIdx fun j g => ⟨28 + 112 * i + 2 * j, 2, satTo 16 g⟩).flatten
  (16 + 112 * chs.length,
    [⟨0, 4, w.hcsn⟩, ⟨4, 1, w.cycles⟩, ⟨5, 1, b2n bad + 4 * b2n clip⟩, ⟨6, 1, chs.length⟩,
      ⟨7, 1, if w.at60 then 42 else 50⟩, ⟨8, 4, (w.closed - w.opened) * 10 ^ 6 / 2 ^ 30⟩] ++ blocks)

/-- The records of a computed window: the voltages, and each account that is neither UNUSED nor CONFIGURED (R486, R488). -/
def Dev.harmRecords (d : Dev) (w : HarmWin) : Dev × List RecBody :=
  let ins := d.accts.keys.filter d.inService
  let chs := (ins.flatMap d.harmChannels).eraseDups
  let (d, rs) := ([0xF0, 0xF1, 0xF2] ++ chs).foldl (fun (p : Dev × List HarmResult) c =>
    let r := p.1.harmResult w c (if c < 196 then p.1.ifull c else p.1.vfull)
    (r.1, p.2 ++ [r.2])) (d, [])
  let fl := if w.voltB then flagVoltB else 0
  let v := w.pay [0xF0, 0xF1, 0xF2] rs w.incomplete w.clip
  let volts : RecBody := { ty := 0x20, flags := fl, epoch := d.epoch 0x41, time := d.stamp w.opened, len := v.1, pay := v.2 }
  (d, volts :: ins.map fun a =>
    let chs := d.harmChannels a
    let bad := w.incomplete || d.touchedIn a (w.opened + pathDelay) (w.closed + pathDelay) || (d.pairsOf a).any fun k => (d.pair a k).winBad
    let r := w.pay chs rs bad (chs.any w.clipCh.contains)
    { ty := 0x20, flags := fl, tenant := if a = 64 then 0x40 else a, epoch := d.epochAt a (w.closed + pathDelay), time := d.stamp w.opened
      len := r.1, pay := r.2 })

/-- HARMONIC_WINDOW: a closed window is computed. Each of its records, and each that waited since the window before, asks for its
staging blocks; one that gets them is posted, a new one that does not waits one window, and one that waited is dropped and counted
(R484, R488, R489, R510, R851). -/
def execHarmonicWindow (s : State) : Host.Outcome State Fault Refusal :=
  let d := s.dev
  let h := d.pq.harm
  match h.closed with
  | none => s.ok d
  | some w =>
    if !d.serving then s.ok (d.setHarm { h with closed := none })
    else
      let (d, recs) := d.harmRecords w
      let d := d.wake
      let ask (new : Nat) (b : RecBody) : BlockReq := ⟨2 * b.tenant + new, b.tenant, (b.len + 2047) / 2048⟩
      let (d, got) := d.contest 4 (h.delayed.map (ask 0) ++ recs.map (ask 1))
      let has (b : RecBody) (new : Nat) : Bool := got.contains (2 * b.tenant + new)
      let lost := h.delayed.filter fun b => !has b 0
      let late := (recs.filter fun b => !has b 1).map fun b =>
        { b with pay := b.pay ++ [⟨5, 1, (match b.pay.find? fun f => f.off = 5 with | some f => f.val | none => 0) + 2⟩] }
      let d := d.setHarm { h with closed := none, delayed := late, dropped := sat32 (h.dropped + lost.length) }
      s.ok (d.each ((h.delayed.filter (has · 0)) ++ recs.filter (has · 1)) Dev.post)

/-! ### Waveform capture (R491–R495, R511) -/

/-- R492: the arm block's fields are defined and fit the capture store. -/
def armOk (b : List Byte) : Bool :=
  let n := fieldAt b 0 1
  let chs := (List.range n).map fun i => fieldAt b (8 + i) 1
  let trig := fieldAt b 1 1
  let arg := fieldAt b 2 1
  n ≤ 8 && trig ≤ 4 &&
    (if trig = 2 then [1, 2, 3, 4, 5, 6, 7, 0x50, 0x51, 0x52, 0x53, 0x54, 0x60, 0x70, 0x71, 0x72, 0x73, 0x74, 0x75].contains arg
     else if trig = 3 then arg ≤ 3 else arg = 0) &&
    chs.Nodup && (chs.all fun c => c ≤ 195 || (0xF0 ≤ c && c ≤ 0xF3)) &&
    (n = 0 || (fieldAt b 6 2 ≥ 1 && fieldAt b 4 2 + 640 ≤ 32768 / n && (fieldAt b 4 2 + fieldAt b 6 2) * n * 4 ≤ 524288))

def Dev.setCap (d : Dev) (c : Capture) : Dev := d.setPq { d.pq with cap := c }

/-- CAPTURE_ARM (0x00A0). -/
def execCaptureArm (x : Desc) (s : State) : Host.Outcome State Fault Refusal :=
  s.ok (s.dev.command x { opcode := 0x00A0, feature := some 4 } (fun _ _ => 0) fun d _ =>
    if x.len < 32 then d.done x.ref stBadArg
    else d.withInput x fun bs =>
      if !armOk bs then d.done x.ref stBadArg
      else if d.pq.cap.trig.isSome then d.done x.ref stBusy
      else if fieldAt bs 0 1 = 0 then (d.setCap { d.pq.cap with arm := none, store := [] }).done x.ref stOK
      else
        let d := d.setCap { d.pq.cap with arm := some (bs.take 16), store := [] }
        (if fieldAt bs 1 1 = 0 then d.captureTrig 0 0 d.up else d).done x.ref stOK)

/-- The samples of a capture in delivery order: each channel's value at each sample period from PRE before the trigger
sample on. A value the store does not hold is free. -/
def Dev.captureBytes (d : Dev) (smps : List (Option (List (Option Int)))) (n : Nat) : Dev × List Byte :=
  smps.foldl (fun (p : Dev × List Byte) smp =>
    (List.range n).foldl (fun (q : Dev × List Byte) i =>
      match (smp.bind fun l => l.getD i none) with
      | some v => (q.1, q.2 ++ leBytes 4 (twos 32 v))
      | none => let (d, v) := q.1.draw; (d, q.2 ++ leBytes 4 (twos 32 (asSigned 24 v)))) p) (d, [])

/-- CAPTURE_DELIVERY: when every sample up to POST has been stored, the WAVEFORM record is posted; staging blocks that are
refused truncate it (R494, R511). -/
def execCaptureDelivery (s : State) : Host.Outcome State Fault Refusal :=
  let d := s.dev
  let c := d.pq.cap
  match c.arm, c.trig with
  | some b, some t =>
    let n := fieldAt b 0 1
    let pre := fieldAt b 4 2
    let post := fieldAt b 6 2
    let after := (c.store.filter fun x => t ≤ x.1).reverse
    if !d.serving || after.length < post then s.ok d
    else
      let before := (c.store.filter fun x => x.1 < t).take pre
      let lead : List (Option (List (Option Int))) := List.replicate (pre - before.length) none
      let smps := lead ++ (before.reverse.map fun x => some x.2) ++ (after.take post).map fun x => some x.2
      let first := match before.getLast?, after.head? with
        | some x, _ => x.1
        | none, some x => x.1
        | none, none => t
      let (d, bytes) := d.captureBytes smps n
      let room := 2048 * d.poolFree
      let cut := room < 16 + bytes.length
      let kept := bytes.take (room - 16)
      let rearm := bitOf (fieldAt b 3 1) 0
      let d := d.wake.setCap { d.pq.cap with arm := if rearm then some b else none, store := [], trig := none }
      let d := d.post {
        ty := 0x21, flags := if cut then flagTrunc else 0, time := d.stamp (first - lead.length * sfUnits)
        len := 16 + kept.length, cut := if cut then 0x70 else 0
        pay := [⟨0, 3, fieldAt b 1 2 + 65536 * n⟩, ⟨4, 4, fieldAt b 4 4⟩, ⟨8, 8, fieldAt b 8 8 % 2 ^ (8 * n)⟩,
          ⟨16, kept.length, leNat kept⟩] }
      s.ok (if rearm && fieldAt b 1 1 = 0 then d.captureTrig 0 0 d.up else d)
  | _, _ => s.ok d

end Sys2Proof.Machine
end

