-- ==== Sys2Proof/Machine/Tracker.lean ====
section
/-!
DEFINITION. Machine/Tracker.lean: the cycle tracker: states, confirmed and free-running boundaries, previews and their
follow-ups, CYCLE records (chapter 9).
-/
namespace Sys2Proof.Machine

def Dev.setTrk (d : Dev) (t : Tracker) : Dev := { d with trk := t }

/-- A tracker event (Tables 9.7, 19.8). -/
def Dev.postTrack (d : Dev) (event : Nat) (fs : List Fld) : Dev :=
  d.post { ty := 0x10, time := d.now, pay := ⟨0, 1, event⟩ :: fs }

/-! ### Follow-ups (R423–R427, Table 9.4) -/

/-- The previews of one record: the first of a list and those that share its tenant byte and SEQ. -/
def sameTenant (p : Preview) (l : List Preview) : List Preview := l.filter fun q => q.tenant = p.tenant && q.seq = p.seq

/-- One CONFIRM or RETRACT for a tenant byte's previews: numbered once, posted on each of their rings. -/
def Dev.followUp (d : Dev) (ps : List Preview) (reason : Nat) (time : DevTime) : Dev :=
  match ps with
  | [] => d
  | p :: _ =>
    if !d.serving then d
    else
      let base : List Fld := [⟨0, 4, p.hcsn⟩, ⟨4, 4, p.seq⟩]
      let a := if p.tenant = 0x40 then 64 else p.tenant
      let st := if p.tenant = 0xFF then [] else
        [⟨9, 1, (d.acct a).shown⟩, ⟨10, 1, sumOn (d.lostPairs a) fun k => 2 ^ k⟩]
      let b : RecBody := { ty := if reason = 0 then 0x02 else 0x03, flags := flagPreview, tenant := p.tenant, epoch := p.epoch
                           time := time, pay := if reason = 0 then base else base ++ [⟨8, 1, reason⟩] ++ st }
      let (d, b) := d.number (d.withHold b)
      let t := d.trk
      let d := if reason = 0 then d
        else if reason = 1 then d.setTrk { t with retractBoundary := sat32 (t.retractBoundary + 1) }
        else d.setTrk { t with retractOther := sat32 (t.retractOther + 1) }
      d.each ps fun d q => d.postTo q.ring b

/-- The reason of the follow-up of a preview at the confirmation of its closing crossing (Table 9.4, R451); 0 for CONFIRM. -/
def Dev.followReason (d : Dev) (p : Preview) (hit : Bool) : Nat :=
  let a := if p.tenant = 0x40 then 64 else p.tenant
  let c := d.acct a
  let tp := d.trk.tp.getD 0
  if p.tenant ≠ 0xFF && (!(c.shown = 2 || c.shown = 4) || d.touchedAt p.tenant > tp ||
      (d.pairsOf a).any fun k => match (d.pair a k).lostSince with | some t => t > tp | none => false) then 3
  else if hit then 0 else 1

/-- Every outstanding preview is followed up, a CONFIRM with the time of the confirmed crossing and a RETRACT with its own (Table
19.5); accounts whose preview is retracted are marked for RECOMPUTED. -/
def Dev.followAll (d : Dev) (reason : Preview → Nat) (crossing retracted : DevTime) : Dev :=
  let ps := d.trk.previews
  let firsts := ps.foldl (fun (l : List Preview) p => if l.any fun q => q.tenant = p.tenant && q.seq = p.seq then l else l ++ [p]) []
  let redone := (firsts.filter fun p => reason p ≠ 0 && p.tenant ≠ 0xFF).map fun p => if p.tenant = 0x40 then 64 else p.tenant
  let d := d.setTrk { d.trk with previews := [], redone := d.trk.redone ++ redone }
  d.each firsts fun d p => d.followUp (sameTenant p ps) (reason p) (if reason p = 0 then crossing else retracted)

/-! ### Entering SEARCH (R403, R404, R409, R410, R490) -/

/-- A phase voltage is used, neither open nor dead, and has not stayed below 40 % of U_NOM for 2 half-cycles (R403). -/
def Dev.canFollow (d : Dev) (c : Nat) : Bool := d.vinUsed c && d.volt.openState.get c 0 = 0 && d.trk.lowRun.get c 0 < 2

/-- The next voltage after `v`, VA, VB, VC in turn, that can be followed (R403). -/
def Dev.nextVoltage (d : Dev) (v : Nat) : Option Nat := ([1, 2].map fun i => (v + i) % 3).find? d.canFollow

/-- The tracker enters SEARCH: outstanding previews are retracted with LOCK_LOST, the harmonic window closes at the last
confirmed crossing, boundaries run free from it, and the line receiver stops (R1021). Causes: 0 power-up, 1 lock loss, 2 voltage failed. -/
def Dev.enterSearch (d : Dev) (cause volt : Nat) : Dev :=
  let d := d.followAll (fun _ => 4) d.now d.now
  let d := d.closeWindow (match d.trk.crossings.find? fun p => p.2 with | some p => p.1 | none => d.trk.opened) true
  let d := d.setHarm { d.pq.harm with incomplete := true }
  let d := d.setPq { d.pq with candRun := 0 }
  let t := d.trk
  let d := d.setTrk { t with
    out := none, state := .search, volt := volt, period := none, waiting := [], seen := [], crossings := [], cycles := 0
    predicted := none, tp := none, redone := [], freeLast := t.opened, lastAccepted := none }
  let d := d.lineReceiveStop
  d.postTrack 0x50 [⟨2, 1, volt⟩, ⟨3, 1, cause⟩]

/-- The tracked voltage has failed: the tracker moves to the next used voltage that does not fail; where there is none it stays
in SEARCH, on the voltage it has (R403, R404). -/
def Dev.voltageFailed (d : Dev) : Dev :=
  match d.nextVoltage d.trk.volt with
  | some v => d.enterSearch 2 v
  | none => if d.trk.state = .search then d else d.enterSearch 2 d.trk.volt

/-- A half-cycle closes: each phase voltage whose RMS lies below 40 % of U_NOM counts it, and the tracked voltage fails at 2 in
a row; one that cannot be followed is left as soon as another can (R403, R404). -/
def Dev.watchTracked (d : Dev) (h : Half) : Dev :=
  let low := fun c => decide (rmsField (h.v2.get c 0) h.n d.vfull * 1000 < 400 * d.unom)
  let run := [0, 1, 2].foldl (fun t c => t.set c (if low c then t.get c 0 + 1 else 0)) d.trk.lowRun
  let d := d.setTrk { d.trk with lowRun := run }
  if d.canFollow d.trk.volt then d else d.voltageFailed

/-! ### CYCLE (R428, R936) -/

/-- F16: the frequency of a cycle period less 40 Hz, in mHz (R934). -/
def freq16 (period : Nat) : Nat := (clampI 0 65535 (roundEven (1000 * 2 ^ 30 : Nat) (max period 1) - 40000)).toNat

/-- F32: a frequency of `n` cycles over a span, in µHz. -/
def freq32 (n span : Nat) : Nat := (clampI 0 (2 ^ 32 - 1) (roundEven (n * 10 ^ 6 * 2 ^ 30 : Nat) (max span 1))).toNat

/-- The CYCLE record of account `a` over half-cycles `x` and `y` (Table 19.7); without energy where it is SUSPENDED
(Table 7.6). -/
def Dev.cycleRec (d : Dev) (a period : Nat) (x y : Half) : RecBody :=
  let vx := d.halfVals a x
  let vy := d.halfVals a y
  let n := (d.pairsOf a).length
  let e (z : Int) : Int := if d.paused a then 0 else z
  { ty := 0x04, flags := voltFlag (x.vb || y.vb), tenant := tenantByte a, epoch := d.epochAt a (y.closed + pathDelay), time := d.stamp x.opened
    len := 21 + 8 * n
    pay := [⟨0, 4, x.hcsn⟩, ⟨4, 2, freq16 period⟩,
      ⟨6, 3, x.n % 512 + 512 * (y.n % 512) + 2 ^ 18 * b2n (x.redone.contains a) + 2 ^ 19 * b2n (y.redone.contains a) + 2 ^ 20 * n⟩,
      sfld 9 3 (e vx.p), sfld 12 3 (e vx.q), sfld 15 3 (e vy.p), sfld 18 3 (e vy.q)] ++
      (List.range n).flatMap fun k => [⟨21 + 8 * k, 2, vx.i.getD k 0⟩, ⟨23 + 8 * k, 2, vy.i.getD k 0⟩,
        ⟨25 + 8 * k, 2, vx.v.getD k 0⟩, ⟨27 + 8 * k, 2, vy.v.getD k 0⟩] }

/-- CYCLE records of every account in a state reached through TARGET = 2 at the close of a cycle (Table 7.6). -/
def Dev.postCycles (d : Dev) (period : Nat) (x y : Half) : Dev :=
  d.each (d.accts.keys.filter d.inService) fun d a => d.post (d.cycleRec a period x y)

/-! ### Half-cycles close (R413, R414, R423, R460, R461) -/

/-- A half-cycle closes at a boundary and the next opens there: clips, the harmonic window, Urms½, the tracked voltage. -/
def Dev.closeHalf (d : Dev) (boundary : Nat) (free : Bool) : Dev × Half :=
  let h := d.sumHalf d.trk.opened boundary free
  let d := (d.windowHalf h).closeClips
  let prev := d.trk.prev
  let straddle := d.trk.straddle
  let d := d.setTrk { d.trk with
    log := d.trk.log.filter fun x => boundary ≤ x.ref
    opened := boundary, prev := some h, tp := none, predicted := none, redone := [], straddle := straddle - 1 }
  (match prev with
    | some x => if straddle > 0 then d else d.newUrms x h
    | none => d, h)

/-- The prediction of the next crossing from the last confirmed period of the same polarity (R416). -/
def predictFrom (cs : List (Nat × Bool)) : Option Nat :=
  match cs with
  | _ :: p1 :: _ :: p3 :: _ => some (p1.1 + (p1.1 - p3.1))
  | _ => none

/-- The resonators and the fundamental filter follow the confirmed frequency, held within 40 Hz and 70 Hz (R367, R405). -/
def Dev.retune (d : Dev) (period : Nat) : Dev :=
  let p := max (second / 70) (min (second / 40) period)
  { (d.setTrk { d.trk with period := some period }) with core := { d.core with tune := (p : Int) } }

/-- The first confirmed crossing after SEARCH opens a half-cycle in WARMUP (Table 9.1, R413, R461). -/
def Dev.lockTracker (d : Dev) (inst : Nat) (positive : Bool) (seen : List (Nat × Bool)) (period : Nat) : Dev :=
  let (d, _) := d.closeHalf inst true
  let t := d.trk
  let n := if t.anyConfirmed then wrap 32 (t.hcsn + 1) else 0
  let d := d.setTrk { t with
    state := .warmup, hcsn := n, anyConfirmed := true, cycles := 0, warmAt := inst, straddle := 2
    crossings := ((inst, positive) :: seen).take 5, seen := [] }
  let d := d.retune period
  let d := d.postTrack 0x51 [⟨2, 1, d.trk.volt⟩, ⟨3, 1, 0⟩, ⟨4, 4, n⟩]
  let d := d.windowCycle inst n
  let d := d.setTrk { d.trk with
    secFirst := if d.trk.secFirst.isNone then some inst else d.trk.secFirst, secLast := inst, secCount := d.trk.secCount + 1 }
  d.auxZero positive

/-- SEARCH sees an accepted crossing: two positive-going ones, with one negative-going between them, whose period lies
within 1/70 s to 1/40 s, give lock. -/
def Dev.searchCrossing (d : Dev) (inst : Nat) (positive : Bool) : Dev :=
  match positive, d.trk.seen with
  | true, (m, false) :: (p, true) :: _ =>
    let period := inst - p
    if d.canFollow d.trk.volt && second ≤ 70 * period && 40 * period ≤ second then d.lockTracker inst positive [(m, false), (p, true)] period
    else d.setTrk { d.trk with seen := ((inst, positive) :: d.trk.seen).take 4 }
  | _, _ => d.setTrk { d.trk with seen := ((inst, positive) :: d.trk.seen).take 4 }

/-- Accounts that a preview at Tp concerns: PREVIEW accepted, a started preview ring that subscribes, and METERING or
FAULT-HOLD (R420, Table 9.3). -/
def Dev.previewAccounts (d : Dev) : List Nat :=
  if !(d.serving && d.has 2 && d.pwr.hostmode) then []
  else d.accts.keys.filter fun a =>
    let st := (d.acct a).shown
    (st = 2 || st = 4) && !d.paused a &&
      d.eng.rings.cells.any fun p => d.subscribes p.1 (d.ring p.1) { ty := 0x01, tenant := tenantByte a }

/-- A frequency step at this crossing: its cycle frequency against that of the same polarity one cycle earlier (R412). -/
def freqStep (cs : List (Nat × Bool)) : Option (Nat × Nat) :=
  match cs with
  | c0 :: _ :: c2 :: _ :: c4 :: _ =>
    let now := c0.1 - c2.1
    let was := c2.1 - c4.1
    let diff : Int := (second : Int) * was - (second : Int) * now
    if 2 * |diff| > (now * was : Nat) then some (was, now) else none
  | _ => none

/-- What a confirmed positive-going crossing does beside the half-cycle: warm-up and Backstop cycles, the cycle's checks,
CYCLE records, the harmonic window, the second's count. A cycle that opened before warm-up was restarted does not count towards
it (Table 9.1). -/
def Dev.closeCycle (d : Dev) (inst period : Nat) (x y : Half) : Dev :=
  let angles := lagsOf (x.v1 ++ y.v1)
  let d := d.judgeAngles angles.1 angles.2 x.opened (x.vb || y.vb)
  let d := d.neutralCycle x y
  let d := d.postCycles period x y
  let d := d.windowCycle inst d.trk.hcsn
  let t := d.trk
  let d := d.setTrk { t with
    cycles := t.cycles + b2n (t.warmAt ≤ x.opened + sfUnits)
    secFirst := if t.secFirst.isNone then some inst else t.secFirst, secLast := inst, secCount := t.secCount + 1 }
  { d with pwr := { d.pwr with cyclesSinceBackstop := d.pwr.cyclesSinceBackstop + 1 } }

/-- By Tp + 4.0 ms the closing crossing has not been confirmed: the previews are retracted with NO_CROSSING (Table 9.4). -/
def Dev.noCrossing (d : Dev) : Dev :=
  match d.trk.tp with
  | some t => if !d.trk.previews.isEmpty && t + ms 4 ≤ d.up then d.followAll (fun _ => 2) d.now (d.stamp (t + ms 4)) else d
  | none => d

/-- A crossing is confirmed in WARMUP or PREDICTING (R407–R428). The half-cycles meet at the predicted boundary where a preview is
confirmed, for every account, and at the confirmed one otherwise (R414, R423; DEDUCED, assumption 136). -/
def Dev.confirm (d : Dev) (inst : Nat) (positive : Bool) : Dev :=
  let d := d.noCrossing
  let t := d.trk
  let hit := match t.predicted with
    | some p => inst ≤ p + sfUnits && p ≤ inst + sfUnits
    | none => false
  let boundary := if hit && t.previews.any fun p => d.followReason p hit = 0 then t.predicted.getD inst else inst
  let d := if t.state = .predicting && t.tp.isNone && t.predicted.isSome then
      d.setTrk { t with suppEarly := sat32 (t.suppEarly + d.previewAccounts.length) }
    else d
  let d := d.followAll (fun p => d.followReason p hit) (d.stamp inst) d.now
  let before := d.trk.prev
  let (d, h) := d.closeHalf boundary false
  let cs := ((inst, positive) :: d.trk.crossings).take 5
  let d := d.setTrk { d.trk with hcsn := wrap 32 (d.trk.hcsn + 1), crossings := cs }
  let period := match cs with | c0 :: _ :: c2 :: _ => c0.1 - c2.1 | _ => d.estPeriod
  let d := d.retune period
  if d.trk.state = .search then d
  else if second > 70 * period || 40 * period > second then
    (d.setTrk { d.trk with lockLoss := sat32 (d.trk.lockLoss + 1) }).enterSearch 1 d.trk.volt
  else
    let d := match positive, before with
      | true, some x => d.closeCycle inst period x h
      | true, none => d.windowCycle inst d.trk.hcsn
      | false, _ => d
    let d := match freqStep cs with
      | some (was, now) =>
        let d := d.post { ty := 0x10, time := d.stamp inst,
                          pay := [⟨0, 1, 0x53⟩, ⟨4, 4, freq32 1 was⟩, ⟨8, 4, freq32 1 now⟩] }
        let d := d.setTrk { d.trk with state := .warmup, cycles := 0, warmAt := inst }
        let d := match d.pq.harm.win with
          | some w => d.setHarm { d.pq.harm with win := some { w with incomplete := true } }
          | none => d
        d.postTrack 0x51 [⟨2, 1, d.trk.volt⟩, ⟨3, 1, 1⟩, ⟨4, 4, d.trk.hcsn⟩]
      | none => d
    let d := if d.trk.state = .warmup && d.trk.cycles ≥ 8 then
        (d.setTrk { d.trk with state := .predicting }).postTrack 0x52 [⟨4, 4, d.trk.hcsn⟩]
      else d
    let d := d.setTrk { d.trk with predicted := predictFrom cs }
    let d := d.setPhy { d.lphy with crossings := ((predictFrom cs).toList ++ d.lphy.crossings).take 2 }
    (d.watchTracked h).auxZero positive

/-- CROSSING_CONFIRMED: the oldest accepted crossing is confirmed. -/
def execCrossingConfirmed (s : State) : Host.Outcome State Fault Refusal :=
  let d := s.dev
  match d.trk.waiting with
  | (inst, pos) :: rest =>
    if d.metRuns && d.pwr.accum then
      let d := d.setTrk { d.trk with waiting := rest }
      s.ok (if d.trk.state = .search then d.searchCrossing inst pos else d.confirm inst pos).afterSet
    else s.ok d
  | [] => s.ok d

/-- LOCK_LOSS: no crossing has been confirmed within 1.5 estimated half-periods of the previous one (R410). -/
def execLockLoss (s : State) : Host.Outcome State Fault Refusal :=
  let d := s.dev
  let last := match d.trk.crossings with | c :: _ => c.1 | [] => d.trk.opened
  if d.metRuns && d.trk.state ≠ .search && last + d.estPeriod * 3 / 4 ≤ d.up then
    s.ok ((d.setTrk { d.trk with lockLoss := sat32 (d.trk.lockLoss + 1) }).enterSearch 1 d.trk.volt).afterSet
  else s.ok d

/-- The newest sample's reference instant is the last before an instant: that instant's half-cycle is complete (R417). -/
def Dev.reached (d : Dev) (t : Nat) : Bool := match d.trk.log with | x :: _ => x.ref + sfUnits ≥ t | [] => false

/-- FREE_RUN_BOUNDARY: in SEARCH a boundary falls due, 1/(2 × F_NOM) after the last; each preview it would have had counts as
SUPPRESSED_TRACK (R422, R461). -/
def execFreeRunBoundary (s : State) : Host.Outcome State Fault Refusal :=
  let d := s.dev
  let b := d.trk.freeLast + second / (2 * d.fnom)
  if d.metRuns && d.pwr.accum && d.trk.state = .search && d.reached b then
    let d := d.setTrk { d.trk with freeLast := b, suppTrack := sat32 (d.trk.suppTrack + d.previewAccounts.length) }
    let (d, h) := d.closeHalf b true
    s.ok (d.watchTracked h).afterSet
  else s.ok d

/-! ### Previews (R420–R434, R471–R474) -/

/-- A record of a set goes to the started rings of the owners asked for, in ascending ring; a preview that is taken is kept
for its follow-up (R426, R429–R431). -/
def Dev.previewTo (d : Dev) (own : Nat → Bool) (b : RecBody) (hcsn : Nat) : Dev :=
  d.each d.eng.rings.cells fun d p =>
    let r := p.1
    if own (d.ringOwner r) && d.subscribes r (d.ring r) b then
      let was := (d.ring r).owed
      let d := d.postNow r b
      if (d.ring r).owed > was then
        d.setTrk { d.trk with previews := d.trk.previews ++ [⟨r, b.tenant, b.epoch, hcsn, b.seq⟩] }
      else d
    else d

/-- The PREVIEW of an account over the half-cycle as it stands (Table 19.6). -/
def Dev.previewRec (d : Dev) (a : Nat) (h : Half) : RecBody :=
  let v := d.halfVals a h
  let n := (d.pairsOf a).length
  { ty := 0x01, flags := flagPreview, tenant := tenantByte a, epoch := d.epoch a, time := d.stamp h.opened
    pay := [⟨0, 4, h.hcsn⟩, ⟨6, 2, h.n⟩, sfld 8 3 v.p, sfld 11 3 v.q] ++
      (List.range n).flatMap fun k => [⟨14 + 2 * k, 2, v.i.getD k 0⟩, ⟨20 + 2 * k, 2, v.v.getD k 0⟩] }

/-- Event previews: a start rule holds on the confirmed half-cycle n − 1 and the previewed n, and no event of that kind is in
progress (R471, R472). -/
def Dev.eventPreviews (d : Dev) (h : Half) : Dev :=
  match d.trk.prev with
  | none => d
  | some x =>
    if !d.pqOn 0 || d.trk.straddle > 0 then d
    else
      let u := d.urmsOf x h
      let kinds := [(0x05, d.pq.intr.isNone && d.intOn u), (0x01, d.pq.intr.isNone && !d.intOn u && d.pq.sag.isNone && d.sagOn u),
        (0x03, d.pq.swell.isNone && d.swellOn u)]
      d.each (kinds.filter fun k => k.2) fun d k =>
        let b : RecBody := { ty := 0x11, flags := flagPreview + voltFlag (x.vb || h.vb), time := d.stamp x.opened
                             pay := [⟨0, 1, k.1⟩, ⟨4, 4, h.hcsn⟩] ++ d.judged.map fun p => ⟨8 + 2 * p, 2, (u p).value⟩ }
        let (d, b) := d.number b
        d.previewTo (fun _ => true) b h.hcsn

/-- PREVIEW_INSTANT: at Tp the set of previews is posted: tenants' rings first, then the supervisor's, event previews last, and then
what waited behind it (R433). How many of them exceed their bound of latency is open (R435). -/
def execPreviewInstant (s : State) : Host.Outcome State Fault Refusal :=
  let d := s.dev
  match d.trk.predicted with
  | none => s.ok d
  | some p =>
    if !(d.metRuns && d.trk.tp.isNone && d.reached p) then s.ok d
    else
      let accts := d.previewAccounts
      let d := (d.setTrk { d.trk with tp := some d.up }).emit (.testPulse 2)
      let t := d.trk
      let failed := t.wakeFailed
      let d := d.setTrk { t with wakeFailed := false }
      if t.state ≠ .predicting || d.pwr.cyclesSinceBackstop < 8 then
        s.ok (d.setTrk { d.trk with suppTrack := sat32 (t.suppTrack + accts.length) }).afterSet
      else if failed then s.ok (d.setTrk { d.trk with suppWake := sat32 (t.suppWake + accts.length) }).afterSet
      else
        let h := d.sumHalf t.opened p false
        let touched := accts.filter fun a => d.touchedAt a > t.opened + pathDelay
        let d := d.setTrk { d.trk with suppEpoch := sat32 (t.suppEpoch + touched.length) }
        if !(d.serving && d.has 2 && d.pwr.hostmode) then s.ok d.afterSet
        else
          let go := accts.filter fun a => d.touchedAt a ≤ t.opened + pathDelay
          let (d, bs) := go.foldl (fun (q : Dev × List RecBody) a =>
            let (d, b) := q.1.number (q.1.withHold (q.1.previewRec a h))
            (d, q.2 ++ [b])) (d.wake, [])
          let d := d.each bs fun d b => d.previewTo (fun o => o < 64) b h.hcsn
          let d := d.each bs fun d b => d.previewTo (fun o => o = 0xFF) b h.hcsn
          let (d, late) := (d.eventPreviews h).draw
          s.ok (d.setTrk { d.trk with previewLate := sat32 (d.trk.previewLate + late % (d.trk.previews.length + 1)) }).afterSet

/-- RETRACT_NO_CROSSING: by Tp + 4.0 ms the closing crossing has not been confirmed (Table 9.4). -/
def execRetractNoCrossing (s : State) : Host.Outcome State Fault Refusal :=
  let d := s.dev
  s.ok (if d.metRuns then d.noCrossing else d)

/-- TRACKER_SUMMARY: every 15 minutes in RUN, the nine counters of R440. -/
def execTrackerSummary (s : State) : Host.Outcome State Fault Refusal :=
  let d := s.dev
  let t := d.trk
  if d.pwr.pstate = .run && d.metRuns && d.serving && d.quarterDue 0x1054 then
    s.ok ((d.quarter 0x1054).postTrack 0x54 ([t.glitch, t.suppTrack, t.suppEpoch, t.suppEarly, t.suppWake, t.previewLate, t.retractBoundary,
      t.retractOther, t.lockLoss].mapIdx fun i n => ⟨4 + 4 * i, 4, n⟩))
  else s.ok d

/-! ### Open inputs end here, because an open tracked voltage fails (R268, R403) -/

/-- VIN_OPEN_TEST_END: the shift at the ball in µV says VIN_OPEN; otherwise VA–VC are VIN_DEAD while their RMS is below 2 %,
and the test is passed where it is not, as for VNE. Each change is reported once (R268). -/
def execVinOpenTestEnd (c : Fin 4) (shift : Int) (s : State) : Host.Outcome State Fault Refusal :=
  let d := s.dev
  match d.volt.openTest with
  | some (k, t) =>
    if d.metRuns && k = c.val && t + ms 20 ≤ d.up then
      let was := d.volt.openState.get c 0
      let now := if shift > 100000 then 1 else if c.val < 3 && d.volt.lowRun.get c 0 ≥ 100 then 2 else 0
      let d := d.setVolt { d.volt with
        openTest := none, lastOpen := d.volt.lastOpen.set c t, openState := d.volt.openState.set c now }
      let d := if now = was then d else
        d.postUmpire (if now = 1 then 0x07 else if now = 2 then 0x08 else 0x09) [⟨1, 1, c⟩, sfld 4 4 shift]
      s.ok (if now ≠ 0 && now ≠ was && d.trk.volt = c.val && d.pwr.accum then d.voltageFailed else d)
    else s.ok d
  | none => s.ok d

end Sys2Proof.Machine
end

