-- ==== Sys2Proof/Machine/Tariff.lean ====
section
/-!
DEFINITION. Machine/Tariff.lean: the tariff engine: calendar, rates, demand, credit, load limits, relays and the grid state,
and their commands (chapter 13; the hold of R1064).
-/
namespace Sys2Proof.Machine

def Dev.setTariff (d : Dev) (t : Tariff) : Dev := { d with tariff := t }

/-- TARIFF_STATE of account `a` changed by `f`. -/
def Dev.updTst (d : Dev) (a : Nat) (f : TariffState → TariffState) : Dev :=
  d.updOpen a fun o => { o with tst := f o.tst }

/-- R47 holds: no package is in effect (R593). -/
def Dev.rate0 (d : Dev) : Bool := d.tariffBytes.isNone

/-- The tariff section in effect; empty under R47. -/
def Dev.section_ (d : Dev) : List Byte := d.tariffBytes.getD []

/-- The profile of account `a` as an offset into the section, and whether TARIFF_PROFILE names none (R620). -/
def Dev.profile (d : Dev) (a : Nat) : Nat := tarProfileOf d.section_ (blkProfile (d.acct a).block)
def Dev.profileMissing (d : Dev) (a : Nat) : Bool := !d.rate0 && blkProfile (d.acct a).block ≥ tarNProf d.section_

/-! ### Local time and calendar (R621–R625) -/

/-- A date of the proleptic Gregorian calendar. -/
structure Date where
  year : Int
  month : Nat
  day : Nat
  deriving DecidableEq, Repr

/-- The date `n` days after 2000-01-01: eras of 146,097 days that begin on 1 March of a year divisible by 400. -/
def dateOf (n : Int) : Date :=
  let z := n + 730425
  let era := z.fdiv 146097
  let doe := (z.fmod 146097).toNat
  let yoe := (doe - doe / 1460 + doe / 36524 - doe / 146096) / 365
  let doy := doe - (365 * yoe + yoe / 4 - yoe / 100)
  let mp := (5 * doy + 2) / 153
  let m := if mp < 10 then mp + 3 else mp - 9
  { year := (yoe : Int) + era * 400 + (if m ≤ 2 then 1 else 0), month := m, day := doy - (153 * mp + 2) / 5 + 1 }

/-- The OFFSET in effect, in minutes (R621). -/
def Dev.localOffset (d : Dev) : Int :=
  let t := d.section_
  let at_ (i : Nat) : Int := sfieldAt t (tarOffsets t + 16 * i + 8) 2
  (List.range (tarNOffset t)).foldl (fun o i => if fieldAt t (tarOffsets t + 16 * i) 8 ≤ d.now then at_ i else o) (at_ 0)

/-- Local minutes since 2000-01-01 00:00 local time. -/
def Dev.localMinutes (d : Dev) : Int := ((d.now / 2 ^ 30 : Nat) : Int).fdiv 60 + d.localOffset

/-- The local day, the minute of it, and the weekday from Monday 0: 2000-01-01 is a Saturday. -/
def Dev.localDay (d : Dev) : Int := d.localMinutes.fdiv 1440
def Dev.localMinute (d : Dev) : Nat := (d.localMinutes.fmod 1440).toNat
def Dev.weekday (d : Dev) : Nat := ((d.localDay + 5).fmod 7).toNat

/-- The day's special-day entry, as an offset into the section (R622). -/
def Dev.specialDay (d : Dev) : Option Nat :=
  let t := d.section_
  let x := dateOf d.localDay
  ((List.range (tarNSpecial t)).map fun i => tarSpecials t + 8 * i).find? fun p =>
    (fieldAt t p 2 = 0 || (fieldAt t p 2 : Int) = x.year) && fieldAt t (p + 2) 1 = x.month && fieldAt t (p + 3) 1 = x.day

/-- The season in effect: the latest start on or before the local date, else the last of the table (R623). -/
def Dev.season (d : Dev) : Nat :=
  let t := d.section_
  let x := dateOf d.localDay
  let n := tarNSeason t
  (List.range n).foldl (fun best i =>
    let m := fieldAt t (tarSeasons t + 8 * i) 1
    let dd := fieldAt t (tarSeasons t + 8 * i + 1) 1
    if m < x.month || (m = x.month && dd ≤ x.day) then i else best) (n - 1)

/-- The day profile in effect, as an offset (R624). -/
def Dev.dayProfile (d : Dev) : Nat :=
  let t := d.section_
  let i := match d.specialDay with
    | some p => fieldAt t (p + 4) 1
    | none => fieldAt t (tarWeeks t + 8 * fieldAt t (tarSeasons t + 8 * d.season + 2) 1 + d.weekday) 1
  tarDays t + 32 * i

/-- The calendar rate: that of the used switch point with the greatest MINUTE at or before the local minute (R624). -/
def Dev.calendarRate (d : Dev) : Nat :=
  let t := d.section_
  let p := d.dayProfile
  ((List.range 8).foldl (fun (best : Nat × Nat) s =>
    let m := fieldAt t (p + 4 * s) 2
    if m ≠ 0xFFFF && m ≤ d.localMinute && best.1 ≤ m then (m, fieldAt t (p + 4 * s + 2) 1) else best) (0, 0)).2

/-- The friendly hours are in force (R638). -/
def Dev.friendly (d : Dev) : Bool :=
  let t := d.section_
  let a := fieldAt t 8 2
  let b := fieldAt t 10 2
  let m := d.localMinute
  d.pwr.timeInvalid || (if a ≤ b then a ≤ m && m < b else a ≤ m || m < b) ||
    match d.specialDay with | some p => bitOf (fieldAt t (p + 5) 1) 0 | none => false

/-! ### Records (R649, Table 19.13) -/

/-- A flag bit of TFLAGS set to a value. -/
def withFlag (flags bit : Nat) (v : Bool) : Nat :=
  if bitOf flags bit = v then flags else if v then flags + 2 ^ bit else flags - 2 ^ bit

def tfLow : Nat := 0
def tfEmergency : Nat := 1
def tfExhausted : Nat := 2
def tfDeferred : Nat := 3
def tfFallback : Nat := 4
def tfRate0 : Nat := 5
def tfPartial : Nat := 6
def tfUnknown : Nat := 7

/-- TFLAGS with FALLBACK_RATE and RATE0_FORCED as they stand (R625, R628, R649). -/
def Dev.rateFlags (d : Dev) (flags : Nat) : Nat :=
  withFlag (withFlag flags tfFallback (!d.rate0 && d.pwr.timeInvalid)) tfRate0 d.rate0

/-- A TARIFF record of an account; it waits for the commit of the values it reports (R946). -/
def Dev.postTariff (d : Dev) (a event : Nat) (fs : List Fld) (len : Nat := 48) : Dev :=
  let o := d.openBlk a
  d.postAfterCommit {
    ty := 0x50, tenant := tenantByte a, epoch := d.epoch a, time := d.now, len := len
    pay := [⟨0, 1, event⟩, ⟨1, 1, o.tst.rate⟩, ⟨2, 1, o.tst.grid⟩, ⟨3, 1, d.rateFlags o.tst.tflags⟩,
      ⟨4, 1, b2n d.store.packageFallback + 2 * b2n (d.profileMissing a)⟩, sfld 5 8 o.credit] ++ fs }

/-! ### Step 1: CREDIT_ADD and RELAY_SET (R637, R645) -/

/-- The relay state R644 gives an account: closed or not. -/
def TariffState.closes (t : TariffState) : Bool :=
  if t.relayMode = 1 then false else if t.relayMode = 2 then true else t.openReasons = 0

/-- The frames' command of a relay: closed only when every account that names it and has commanded it closes it (R648). -/
def Dev.sendRelay (d : Dev) (link idx : Nat) : Dev :=
  let users := d.accts.keys.filter fun a =>
    blkLink (d.acct a).block = link && blkRelay (d.acct a).block = idx && (d.openBlk a).relayValid
  let l := d.link link
  let closed := users.all fun a => (d.openBlk a).relayClosed
  let bit := 2 ^ idx
  d.setLink link { l with
    cmdValid := if users.isEmpty then l.cmdValid else l.cmdValid ||| bit
    cmdRelay := if closed then l.cmdRelay ||| bit else l.cmdRelay &&& (4095 - bit) }

/-- The relay of account `a` is commanded: frames, RELAY byte, and the record of a change; a relay the pod does not have is
reported (R180, R644). -/
def Dev.commandRelay (d : Dev) (a : Nat) (closed : Bool) : Dev :=
  let b := (d.acct a).block
  let link := blkLink b
  if link = 0xFF then d
  else
    let o := d.openBlk a
    let changed := o.relayClosed != closed || !o.relayValid
    let first := !bitOf (d.link link).cmdValid (blkRelay b)
    let d := d.updOpen a fun o => { o with relayClosed := closed, relayValid := true }
    let d := d.sendRelay link (blkRelay b)
    let d := if changed || first then d.relayAbsent link (blkRelay b) else d
    if !changed then d
    else
      let t := (d.openBlk a).tst
      d.postTariff a (if closed then 0x22 else 0x21) [⟨13, 1, t.openReasons⟩, ⟨14, 1, t.relayMode⟩, ⟨15, 1, link⟩, ⟨16, 1, blkRelay b⟩]

/-- The account's relay is evaluated: not in CONFIGURED or SUSPENDED, nor under R47 (R646). -/
def Dev.relayEvaluated (d : Dev) (a : Nat) : Bool := d.evaluated a && !d.rate0

/-- One change of step 1 takes effect. A RELAY_SET that repeats the commanded state is a command too (R180). -/
def Dev.applyChange (d : Dev) (c : TariffChange) : Dev :=
  match c with
  | .credit a amount set v =>
    if blkPrepay (d.acct a).block = 0 then d
    else
      let before := (d.openBlk a).credit
      let after := clampI (-(2 ^ 63)) (2 ^ 63 - 1) (if set then amount else before + amount)
      let d := d.updOpen a fun o => { o with
        credit := after
        tst := { o.tst with
          voucher := v, creditRes := if set then 0 else o.tst.creditRes
          tflags := if set then withFlag o.tst.tflags tfUnknown false else o.tst.tflags } }
      d.postTariff a 0x14 [⟨13, 4, v⟩, sfld 17 8 before, ⟨25, 1, b2n set⟩]
  | .relay a mode =>
    let d := d.updTst a fun t => { t with
      relayMode := mode, openReasons := if mode = 1 then t.openReasons ||| 4 else t.openReasons &&& 3 }
    let o := d.openBlk a
    let b := (d.acct a).block
    let d := if o.relayValid && o.relayClosed = o.tst.closes && blkLink b ≠ 0xFF then d.relayAbsent (blkLink b) (blkRelay b) else d
    if d.relayEvaluated a then d else d.commandRelay a o.tst.closes

/-! ### Step 2: the grid state (R627, R1064) -/

/-- A grid state comes into effect with its source; a change posts GRID_STATE and moves the tariff engine's epoch. -/
def Dev.takeGrid (d : Dev) (g source : Nat) : Dev :=
  let dev := d.led.work.device
  let old := dev.grid
  let d := d.setWork { d.led.work with device := { dev with grid := g, gridSource := source } }
  if g = old then d
  else
    let d := d.bump 0x43
    d.postAfterCommit { ty := 0x50, epoch := d.epoch 0x43, time := d.now,
                        pay := [⟨0, 1, 0x30⟩, ⟨1, 1, 0xFF⟩, ⟨2, 1, g⟩, ⟨3, 1, d.rateFlags 0⟩, ⟨4, 1, b2n d.store.packageFallback⟩, ⟨13, 1, old⟩, ⟨14, 1, g⟩, ⟨15, 1, source⟩] }

/-- A grid state arrives: the hold restarts, and it takes effect at the next tick (R626, R627). -/
def Dev.gridArrives (d : Dev) (g source : Nat) : Dev :=
  let d := d.setTariff { d.tariff with arrival := some (g, source), arrivedAt := some d.up }
  d.setWork { d.led.work with device := { d.led.work.device with gridHeld := true, arrival := d.now } }

/-- The GRID section of the package in effect: HOLD_MIN and FALLBACK (R1053). -/
def Dev.holdMin (d : Dev) : Nat :=
  match d.store.package.bind fun p => pkgSection p 2 with | some s => fieldAt s 0 2 | none => 15
def Dev.fallbackGrid (d : Dev) : Nat :=
  match d.store.package.bind fun p => pkgSection p 2 with | some s => fieldAt s 2 1 | none => 1

/-- The hold has expired: no arrival for HOLD_MIN minutes, and the fallback is not in effect yet (R1064). -/
def Dev.gridExpired (d : Dev) : Bool :=
  d.tariff.arrival.isNone && d.led.work.device.gridSource ≠ 2 && match d.tariff.arrivedAt with
    | some t => decide (t + (d.holdMin * 60 * second : Nat) ≤ d.up)
    | none => true

/-- The fallback grid state takes effect. -/
def Dev.gridFalls (d : Dev) : Dev := (d.setTariff { d.tariff with arrivedAt := none }).takeGrid d.fallbackGrid 2

/-- The commit tick is due, and it brings no command, package or block that would take effect before its steps (Table 13.1,
R658): a step taken now is the step of that tick (DESIGN CHOICE, assumption 141). -/
def Dev.tickStill (d : Dev) : Bool :=
  d.units && d.pwr.tickSmps ≥ 160 && d.tariff.pend.isEmpty && d.store.due.isEmpty && d.store.packageDue.isNone &&
    d.accts.keys.all fun a => (d.acct a).pend.isNone && (d.acct a).recover.isNone

/-- GRID_FALLBACK: no arrival for HOLD_MIN minutes at a commit tick. -/
def execGridFallback (s : State) : Host.Outcome State Fault Refusal :=
  let d := s.dev
  if d.tickStill && d.gridExpired then s.ok d.gridFalls else s.ok d

/-! ### Step 4: the rate (R628, R630) -/

/-- The rate of account `a`, whatever the calendar says of grid states and invalid time. -/
def Dev.rateOf (d : Dev) (a : Nat) : Nat :=
  if d.rate0 then 0
  else
    let t := d.section_
    let p := d.profile a
    let forced := prGsRate t p d.led.work.device.grid
    if forced ≠ 0xFF then forced else if d.pwr.timeInvalid then prFallback t p else d.calendarRate

/-- Rate, grid state and the flags of step 4; a changed rate posts RATE_CHANGE with its cause. -/
def Dev.chooseRate (d : Dev) (a : Nat) : Dev :=
  let o := d.openBlk a
  let r := d.rateOf a
  let g := d.led.work.device.grid
  let d := d.updTst a fun t => { t with rate := r, grid := g, tflags := d.rateFlags t.tflags }
  if r = o.tst.rate then d
  else
    let cause := if d.tariff.pkgChanged then 2 else if o.tst.grid ≠ g then 1 else if d.tariff.timeChanged then 3 else 0
    d.postTariff a 0x01 [⟨13, 1, o.tst.rate⟩, ⟨14, 1, r⟩, ⟨15, 1, cause⟩]

/-! ### Step 5: demand (R631–R633) -/

/-- The demand interval local time lies in. -/
def Dev.demandSlot (d : Dev) : Int := d.localMinutes.fdiv (max 1 (tarDemandMin d.section_))

/-- Demand of a rate over a full interval, in mW (R631). -/
def Dev.demandOf (d : Dev) (e : Nat) : Nat := e * 3600000 / (max 1 (tarDemandMin d.section_) * 60000)

/-- One account's interval closes: INTERVAL, maxima unless it is partial, and the next opens. `cut` is a close that is no
boundary: the interval closed is partial, and so is the one that opens (R631, R632). -/
def Dev.closeInterval (d : Dev) (a : Nat) (cut : Bool) : Dev :=
  let o := d.openBlk a
  let p := cut || bitOf o.tst.tflags tfPartial
  let es := (List.range 8).map fun r => o.tst.demandE.get r 0
  let ds := es.map d.demandOf
  let d := d.updTst a fun t => { t with tflags := withFlag t.tflags tfPartial p }
  let d := d.postTariff a 0x02 ((es.mapIdx fun r e => ⟨13 + 4 * r, 4, e⟩) ++ (ds.mapIdx fun r x => ⟨45 + 8 * r, 8, x⟩) ++
    [⟨109, 1, b2n p⟩]) 110
  d.updOpen a fun o => { o with
    demand := if p then o.demand else
      (List.range 8).foldl (fun t r => if (t.get r (0, 0)).1 < ds.getD r 0 then t.set r (ds.getD r 0, d.now) else t) o.demand
    tst := { o.tst with demandE := {}, demandStart := d.now, tflags := withFlag o.tst.tflags tfPartial cut } }

/-- DEMAND_RESET of an account: the eight maxima are posted and set to 0 (R633). -/
def Dev.resetDemand (d : Dev) (a : Nat) : Dev :=
  let o := d.openBlk a
  let d := d.postTariff a 0x03 ((List.range 8).flatMap fun r =>
    [⟨13 + 16 * r, 8, (o.demand.get r (0, 0)).1⟩, ⟨21 + 16 * r, 8, (o.demand.get r (0, 0)).2⟩]) 141
  d.updOpen a fun o => { o with demand := {} }

/-- What step 5 finds at this tick: nothing, or a close: cut short by what opens a new interval, or at a boundary. -/
inductive DemandClose
  | none | cut | boundary
  deriving DecidableEq, Repr

/-- Local time has passed a demand boundary since the last close (R631). -/
def Dev.slotPassed (d : Dev) : Bool := match d.tariff.lastSlot with | some n => n ≠ d.demandSlot | none => false

/-- Local time is at the 00:00 of RESET_DAY (R633). -/
def Dev.resetDue (d : Dev) : Bool :=
  let t := d.section_
  tarResetDay t ≠ 0 && (dateOf d.localDay).day = tarResetDay t && d.localMinute < tarDemandMin t

/-- Step 5 at this tick: the start of accumulation, a changed OFFSET or DEMAND_MIN and TIME_INVALID going to 0 open a new
interval; a boundary closes one; while time is invalid the step is skipped (R625, R631, R632). -/
def Dev.demandPlan (d : Dev) : Dev × DemandClose :=
  let t := d.tariff
  if d.rate0 then
    (d.setTariff { t with restart := false, wasInvalid := d.pwr.timeInvalid, lastOffset := none, lastDemandMin := none }, .none)
  else
    let off := d.localOffset
    let dm := tarDemandMin d.section_
    let go := t.restart || t.lastOffset.any (fun o => o ≠ off) || t.lastDemandMin.any (fun m => m ≠ dm) || t.wasInvalid
    let t := { t with restart := false, wasInvalid := d.pwr.timeInvalid, lastOffset := some off, lastDemandMin := some dm }
    if d.pwr.timeInvalid then (d.setTariff t, .none)
    else (d.setTariff { t with lastSlot := some d.demandSlot }, if go then .cut else if d.slotPassed then .boundary else .none)

/-- Step 5 for one account; an interval that passes while time is invalid is partial. -/
def Dev.demandStep (d : Dev) (a : Nat) (c : DemandClose) : Dev :=
  if d.pwr.timeInvalid then d.updTst a fun t => { t with tflags := withFlag t.tflags tfPartial true }
  else match c with
    | .none => d
    | .cut => d.closeInterval a true
    | .boundary =>
      let d := d.closeInterval a false
      if d.resetDue then d.resetDemand a else d

/-- The tick would leave every account's rate and grid state as they are. -/
def Dev.ratesStand (d : Dev) : Bool :=
  d.pwr.accum && !d.rate0 && (d.accts.keys.filter d.evaluated).all fun a =>
    d.rateOf a = (d.openBlk a).tst.rate && (d.openBlk a).tst.grid = d.led.work.device.grid

/-- DEMAND_INTERVAL_CLOSE: local time has passed a boundary at a commit tick. -/
def execDemandIntervalClose (s : State) : Host.Outcome State Fault Refusal :=
  let d := s.dev
  let (e, c) := d.demandPlan
  if d.tickStill && d.ratesStand && d.tariff.arrival.isNone && c = .boundary then
    s.ok (e.each (e.accts.keys.filter e.evaluated) fun d a => d.demandStep a c)
  else s.ok d

/-- Device time has been stepped: the tariff engine's interval closes as partial at the step, and one opens there that is partial
(R137, R632). -/
def Dev.demandAtStep (d : Dev) : Dev :=
  if d.rate0 || !d.pwr.accum then d.setTariff { d.tariff with restart := true }
  else
    let d := d.setTariff { d.tariff with
      restart := false, wasInvalid := false, lastOffset := some d.localOffset, lastSlot := some d.demandSlot }
    d.each (d.accts.keys.filter d.evaluated) fun d a => d.closeInterval a true

/-! ### Step 6: credit (R636, R639, R640) -/

/-- The credit state of a credit under a profile: 0 NORMAL, 1 LOW, 2 EMERGENCY, 3 EXHAUSTED (Table 13.7). -/
def creditState (t : List Byte) (p : Nat) (credit : Int) : Nat :=
  if credit > prLow t p then 0 else if credit > 0 then 1 else if credit > -(prEmergency t p : Int) then 2 else 3

/-- The credit state held in TFLAGS. -/
def heldCredit (flags : Nat) : Nat := if bitOf flags tfExhausted then 3 else if bitOf flags tfEmergency then 2 else b2n (bitOf flags tfLow)

/-- The LOAD_LIMIT of account `a` in the grid state in effect, in W; 0 for none, and without a relay (R641). -/
def Dev.loadLimit (d : Dev) (a : Nat) : Nat :=
  if blkLink (d.acct a).block = 0xFF then 0 else prLimit d.section_ (d.profile a) (d.openBlk a).tst.grid

/-- LL_COUNT of account `a` has reached LL_DELAY, and a load-limit trip is due (R642). -/
def Dev.tripDue (d : Dev) (a : Nat) : Bool :=
  let t := (d.openBlk a).tst
  d.loadLimit a ≠ 0 && !bitOf t.openReasons 1 && prDelay d.section_ (d.profile a) ≤ t.llCount

/-- The friendly hours defer the trip that is due (R642). -/
def Dev.tripDeferred (d : Dev) (a : Nat) : Bool := d.tripDue a && d.friendly && bitOf (prFlags d.section_ (d.profile a)) 0

/-- Step 6 for one account with PREPAY = 1. -/
def Dev.judgeCredit (d : Dev) (a : Nat) : Dev :=
  let o := d.openBlk a
  let t := d.section_
  let p := d.profile a
  let st := creditState t p o.credit
  let was := heldCredit o.tst.tflags
  let fl := withFlag (withFlag (withFlag o.tst.tflags tfLow (st = 1)) tfEmergency (st = 2)) tfExhausted (st = 3)
  let defer := st = 3 && d.friendly && !bitOf o.tst.openReasons 0
  let unknown := bitOf fl tfUnknown
  let reason := if prReconnect t p ≤ o.credit then false
    else bitOf o.tst.openReasons 0 || (st = 3 && !defer && !unknown)
  let d := d.updTst a fun x => { x with
    tflags := withFlag fl tfDeferred (defer || d.tripDeferred a), openReasons := withFlag x.openReasons 0 reason }
  if st = was then d else d.postTariff a (0x10 + st) []

/-- FRIENDLY_HOURS_END: the friendly hours are no longer in force at a commit tick: an account still EXHAUSTED and DEFERRED gets
the CREDIT reason (R639). -/
def execFriendlyHoursEnd (s : State) : Host.Outcome State Fault Refusal :=
  let d := s.dev
  if d.tickStill && d.ratesStand && d.tariff.arrival.isNone && !d.friendly && d.demandPlan.2 = .none then
    s.ok (d.each (d.accts.keys.filter fun a =>
      d.evaluated a && a < 64 && blkPrepay (d.acct a).block = 1 && bitOf (d.openBlk a).tst.tflags tfDeferred) Dev.judgeCredit)
  else s.ok d

/-! ### Step 7: load limits (R641–R643) -/

/-- This commit tick is the last of a second (R250). -/
def Dev.endsSecond (d : Dev) : Bool := d.pwr.accum && d.pq.secOn && d.pq.ticks + 1 ≥ 100

/-- The LOAD_LIMIT reason is cleared, and LL_COUNT starts again from 0 with the next second evaluated (R643). -/
def Dev.reclose (d : Dev) (a : Nat) : Dev :=
  let d := { d with accts := d.accts.set a { d.acct a with llLimit := 0 } }
  d.updTst a fun x => { x with openReasons := x.openReasons &&& 5, llCount := 0, recloseLeft := 0 }

/-- The end of a second for one account: RECLOSE_LEFT falls while a trip holds; else the energy imported in the second is compared
with the limit (R641, R643). -/
def Dev.loadSecond (d : Dev) (a : Nat) : Dev :=
  let t := (d.openBlk a).tst
  if bitOf t.openReasons 1 then
    if t.recloseLeft ≤ 1 then d.reclose a else d.updTst a fun x => { x with recloseLeft := x.recloseLeft - 1 }
  else
    let limit := d.loadLimit a
    let was := (d.acct a).llLimit
    let d := { d with accts := d.accts.set a { d.acct a with llLimit := limit } }
    let loud := (d.acct a).lastImport * 36 > limit * 10 * 2 ^ 32
    d.updTst a fun x => { x with llCount := if limit = 0 || limit ≠ was || !loud then 0 else satTo 16 (x.llCount + 1) }

/-- The load limit trips: its reason is set and RECLOSE_LEFT begins to run (R642). -/
def Dev.trip (d : Dev) (a : Nat) : Dev :=
  let limit := d.loadLimit a
  let d := d.updTst a fun x => { x with
    openReasons := x.openReasons ||| 2, recloseLeft := prReclose d.section_ (d.profile a), trips := satTo 16 (x.trips + 1), llCount := 0 }
  d.postTariff a 0x20 [⟨13, 4, limit⟩, ⟨17, 4, (roundEven ((d.acct a).lastImport * 36) (10 * 2 ^ 32)).toNat⟩,
    ⟨21, 2, (d.openBlk a).tst.trips⟩]

/-- Step 7 for one account. A trip that the friendly hours have deferred carries DEFERRED, and comes at the first tick at which
they are no longer in force (R639, R642). -/
def Dev.loadStep (d : Dev) (a : Nat) : Dev :=
  let d := if d.endsSecond then d.loadSecond a else d
  let t := (d.openBlk a).tst
  let due := d.tripDue a && (d.endsSecond || bitOf t.tflags tfDeferred)
  let credit := bitOf t.tflags tfExhausted && d.friendly && !bitOf t.openReasons 0
  let d := if due && !d.tripDeferred a then d.trip a else d
  d.updTst a fun x => { x with tflags := withFlag x.tflags tfDeferred (credit || (due && d.tripDeferred a)) }

/-- LOAD_RECLOSE: RECLOSE_LEFT of an account reaches 0 at a second's last tick, and its LOAD_LIMIT reason is cleared (R643). -/
def execLoadReclose (a : Fin 65) (s : State) : Host.Outcome State Fault Refusal :=
  let d := s.dev
  let t := (d.openBlk a).tst
  if d.tickStill && d.ratesStand && d.evaluated a && d.endsSecond && bitOf t.openReasons 1 && t.recloseLeft ≤ 1 then s.ok (d.reclose a)
  else s.ok d

/-! ### A commit tick (Table 13.1) -/

/-- Steps 3 to 8 of one account. -/
def Dev.tariffAccount (d : Dev) (a : Nat) (c : DemandClose) : Dev :=
  if !d.evaluated a then d
  else
    let d := d.chooseRate a
    if d.rate0 then d
    else
      let d := d.demandStep a c
      let d := if blkPrepay (d.acct a).block = 1 && a < 64 then d.judgeCredit a else d
      let d := d.loadStep a
      if blkLink (d.acct a).block = 0xFF then d else d.commandRelay a (d.openBlk a).tst.closes

/-- The tariff engine's evaluation at a commit tick. -/
def Dev.tariffTick (d : Dev) : Dev :=
  let changes := d.tariff.pend
  let d := d.setTariff { d.tariff with pend := [] }
  let d := d.each changes Dev.applyChange
  let d := match d.tariff.arrival with
    | some (g, source) => (d.setTariff { d.tariff with arrival := none }).takeGrid g source
    | none => if d.gridExpired then d.gridFalls else d
  let (d, c) := d.demandPlan
  let d := d.each d.accts.keys fun d a => d.tariffAccount a c
  d.setTariff { d.tariff with pkgChanged := false, timeChanged := false }

/-! ### Commands -/

/-- GRID_STATE_SET (0x0061) (R626). -/
def execGridStateSet (x : Desc) (s : State) : Host.Outcome State Fault Refusal :=
  s.ok (s.dev.command x { opcode := 0x0061, feature := some 9, entry := some 0x43 } (fun _ _ => 0) fun d _ =>
    if x.arg 24 1 > 3 then d.done x.ref stBadArg else (d.gridArrives (x.arg 24 1) 1).done x.ref stOK)

/-- CREDIT and VOUCHER of an account once the pending changes have taken effect. -/
def Dev.creditAhead (d : Dev) (a : Nat) : Int × Nat :=
  d.tariff.pend.foldl (fun s c => match c with
    | .credit b amount set v =>
      if b = a then (clampI (-(2 ^ 63)) (2 ^ 63 - 1) (if set then amount else s.1 + amount), v) else s
    | .relay _ _ => s) ((d.openBlk a).credit, (d.openBlk a).tst.voucher)

/-- CREDIT_ADD (0x0062) (R637): the result carries the CREDIT expected after the tick, with DETAIL for a duplicate. -/
def execCreditAdd (x : Desc) (s : State) : Host.Outcome State Fault Refusal :=
  s.ok (s.dev.command x { opcode := 0x0062, feature := some 10, account := true } (fun d a => (d.acct a).shown) fun d a =>
    let mode := x.arg 24 1
    let v := x.arg 28 4
    let amount := asSigned 64 x.addr
    if mode > 1 || a = 64 || blkPrepay (d.acct a).block = 0 then d.done x.ref stBadArg
    else
      let ahead := d.creditAhead a
      if v ≤ ahead.2 then d.doneWith x.ref (twos 64 ahead.1) true
      else
        let after := clampI (-(2 ^ 63)) (2 ^ 63 - 1) (if mode = 1 then amount else ahead.1 + amount)
        let d := d.setTariff { d.tariff with pend := d.tariff.pend ++ [.credit a amount (mode = 1) v] }
        d.doneWith x.ref (twos 64 after))

/-- RELAY_SET (0x0063) (R645). -/
def execRelaySet (x : Desc) (s : State) : Host.Outcome State Fault Refusal :=
  s.ok (s.dev.command x { opcode := 0x0063, feature := some 9, account := true } (fun d a => (d.acct a).shown) fun d a =>
    let mode := x.arg 24 1
    if mode > 2 || a = 64 || blkLink (d.acct a).block = 0xFF then d.done x.ref stBadArg
    else (d.setTariff { d.tariff with pend := d.tariff.pend ++ [.relay a mode] }).done x.ref stOK)

end Sys2Proof.Machine
end

