-- ==== Sys2Proof/Machine/Second.lean ====
section
/-!
DEFINITION. Machine/Second.lean: the end of a second: SECOND records and the balance checker (chapters 9 and 10).
-/
namespace Sys2Proof.Machine

/-! ### SECOND records (Table 19.6, R438) -/

/-- A mean over the second of power numerators, as a signed field. -/
def secMean (num : Int) (n : Nat) : Int := if n = 0 then 0 else clampI (-(2 ^ 31)) (2 ^ 31 - 1) (roundEven num (pDen * n))

/-- The SECOND record of account `a`: frequency, means of the totals, and RMS of each pair. Samples taken while
SUSPENDED add no power (Table 7.6). It is formed at the second's last tick, before a change of that tick (R342). -/
def Dev.secondRec (d : Dev) (a : Nat) : RecBody :=
  let ks := d.pairsOf a
  let sec := fun (k : Nat) => (d.pair a k).sec
  let n := ks.foldl (fun m k => max m (sec k).n) 0
  let e := fun (z : Int) => secMean z n
  let t := d.trk
  let span := match t.secFirst with | some f => t.secLast - f | none => 0
  { ty := 0x05, flags := voltFlag d.pq.secVoltB, tenant := tenantByte a, epoch := d.epoch a
    time := d.stamp d.pq.secStart
    pay := [⟨0, 4, if t.secCount < 2 then 0 else freq32 (t.secCount - 1) span⟩, ⟨4, 1, t.secCount - 1⟩,
        sfld 6 4 (e (sumOnI ks fun k => (sec k).p)), sfld 10 4 (e (sumOnI ks fun k => (sec k).q)),
        ⟨14, 4, (e (sumOnI ks fun k => (sec k).s)).toNat⟩] ++
      ks.flatMap fun k =>
        let c := d.pairCh a k
        [⟨18 + 2 * k, 2, rmsField ((sec k).i2 - ((sec k).n * fieldAt (d.chanBlk c) 28 4 : Nat) * 2 ^ 60) (sec k).n (d.ifull c)⟩,
          ⟨24 + 2 * k, 2, rmsField (sec k).v2 (sec k).n d.vfull⟩] }

/-! ### The balance checker (R496–R500, R513) -/

/-- The pairs of set-up accounts on a phase: those of the feeder, or those of the tenants (R496). -/
def Dev.balPairs (d : Dev) (p : Nat) (feeder : Bool) : List (Nat × Nat) :=
  (d.accts.keys.filter fun a => (a = 64) = feeder && d.inService a).flatMap fun a =>
    ((d.pairsOf a).filter fun k => d.pairPh a k = p).map fun k => (a, k)

/-- A mean in 0.1 W from a sum of power numerators over a second of 16,000 samples. -/
def deciWatts (num : Int) : Int := clampI (-(2 ^ 31)) (2 ^ 31 - 1) (roundEven num (pDen * 100 * 16000))

def Dev.bal (d : Dev) (p : Nat) : BalPhase := d.pq.bal.get p {}

def Dev.setBal (d : Dev) (p : Nat) (b : BalPhase) : Dev := d.setPq { d.pq with bal := d.pq.bal.set p b }

/-- A BALANCE record (Table 19.9); the second that decided says whether Converter B served in it. -/
def Dev.postBalance (d : Dev) (event : Nat) (vb : Bool) (fs : List Fld) (len : Nat := 48) : Dev :=
  d.post { ty := 0x14, flags := voltFlag vb, time := d.now, len := len, pay := ⟨0, 1, event⟩ :: fs }

/-- The larger of a magnitude in 0.1 W so far and the magnitude of `x`. -/
def largerMag (m x : Int) : Int := max m |x|

/-- E_F and E_T of a phase over a second as power numerators; none where the second is not evaluated on it (R496, R498). -/
def Dev.phaseSums (d : Dev) (p : Nat) : Option (Int × Int) :=
  let fs := d.balPairs p true
  let ts := d.balPairs p false
  if d.pq.secTouched || (fs ++ ts).any (fun x => (d.pair x.1 x.2).secBad) then none
  else some (sumOnI fs fun x => (d.pair x.1 x.2).sec.all, sumOnI ts fun x => (d.pair x.1 x.2).sec.all)

/-- The hundredth commit tick of a second comes, before the changes of that tick: what the second reports is formed (R250, R342, R438,
R496), and its import is at hand for the load limits (R641). The balance checker does not run without valid voltages. -/
def Dev.secondEnd (d : Dev) : Dev :=
  if !d.endsSecond then d
  else
    let valid := d.volt.serving ≠ 2
    let judged := valid && d.pqOn 4 && (d.acct 64).shown = 2
    let d := d.setPq { d.pq with secDone := some {
      recs := (d.accts.keys.filter d.inService).map d.secondRec
      phases := [0, 1, 2].foldl (fun t p => match d.phaseSums p with | some x => if judged then t.set p x else t | none => t) {}
      vb := d.pq.secVoltB } }
    { d with accts := d.accts.mapV fun c => { c with lastImport := c.secImport, secImport := 0 } }

/-- One phase of an ended second: D against A, persistence, start and end of a deviation, and what the summary sums (R497, R499). -/
def Dev.balancePhase (d : Dev) (p : Nat) (ef et : Int) (vb : Bool) : Dev :=
  let diff := ef - et
  -- BAL_FIXED in W; BAL_PROP in 0.01 %; all in numerators of mW samples, times 10,000
  let allow : Int := (d.pqField 16 2 : Int) * 1000 * 16000 * pDen * 10000 + (d.pqField 18 2 : Int) * |ef|
  let dev := |diff| * 10000 > allow
  let dd := deciWatts diff
  let n := d.pqField 20 2
  let b := d.bal p
  let b := { b with
    run := if dev then b.run + 1 else 0, calm := if dev then 0 else b.calm + 1
    largest := if b.deviating then largerMag b.largest dd else 0, vb := b.deviating && (b.vb || vb)
    evalN := b.evalN + 1, devN := b.devN + b2n dev, sumD := b.sumD + dd, sumLargest := largerMag b.sumLargest dd }
  if !b.deviating && b.run ≥ n then
    let d := d.setBal p { b with deviating := true, start := d.now, largest := |dd|, vb := vb }
    let d := d.postBalance 0x01 vb [⟨1, 1, p⟩, sfld 4 4 (deciWatts ef), sfld 8 4 (deciWatts et), sfld 12 4 dd,
      sfld 16 4 (clampI 0 (2 ^ 31 - 1) (roundEven allow (pDen * 100 * 16000 * 10000)))]
    d.tamper 0x0D p d.now
  else if b.deviating && b.calm ≥ n then
    let d := d.setBal p { b with deviating := false, largest := 0, vb := false }
    d.postBalance 0x02 b.vb [⟨1, 1, p⟩, ⟨4, 8, b.start⟩, sfld 12 4 b.largest]
  else d.setBal p b

/-- SECOND_BOUNDARY: 100 commit ticks have ended a second (R250, R438, R496): its SECOND records and the balance checker; its load limits
were evaluated at that tick (R614, R641). -/
def execSecondBoundary (s : State) : Host.Outcome State Fault Refusal :=
  let d := s.dev
  match d.pq.secDone with
  | none => s.ok d
  | some x =>
    if !(d.metRuns && d.pwr.accum) then s.ok d
    else
      let d := d.each x.recs Dev.post
      let d := d.each x.phases.cells fun d p => d.balancePhase p.1 p.2.1 p.2.2 x.vb
      s.ok (d.setPq { d.pq with secDone := none })

/-- BALANCE_SUMMARY: every 15 minutes in RUN: per phase the evaluated and the deviating seconds, mean D and largest |D|
(Tables 10.7, 19.15). -/
def execBalanceSummary (s : State) : Host.Outcome State Fault Refusal :=
  let d := s.dev
  if d.pwr.pstate = .run && d.metRuns && d.serving && d.pqOn 4 && d.quarterDue 0x14 then
    let d := d.quarter 0x14
    let row (p : Nat) : List Fld :=
      let b := d.bal p
      [⟨4 + 16 * p, 4, b.evalN⟩, ⟨8 + 16 * p, 4, b.devN⟩,
        sfld (12 + 16 * p) 4 (if b.evalN = 0 then 0 else roundEven b.sumD b.evalN), sfld (16 + 16 * p) 4 b.sumLargest]
    let d := d.postBalance 0x03 (d.pq.balVoltB || d.volt.serving = 1) ((List.range 3).flatMap row) 52
    s.ok (d.setPq { d.pq with
      balVoltB := false, bal := d.pq.bal.mapV fun b => { b with evalN := 0, devN := 0, sumD := 0, sumLargest := 0 } })
  else s.ok d

end Sys2Proof.Machine
end

