-- ==== Sys2Proof/Machine/LedgerOps.lean ====
section
/-!
DEFINITION. Machine/LedgerOps.lean: findings in the ledger, the config store, staging and the context cache; the ends of
group writes, erases and refreshes (chapter 12).
-/
namespace Sys2Proof.Machine

/-! ### Findings in the ledger (R598–R600, R612, Table 12.12) -/

/-- A ledger error's report (Table 23.4). -/
def ledgerErr (code block : Nat) (badA badB : Bool) (when_ seq word cand action fresh : Nat) : Err :=
  { code := code, cls := errClass code, region := if code = 0x010C then 0xFF else blockRegion block
    account := if 0x0100 ≤ block ∧ block < 0x0300 then block % 256 else 0xFF
    detail := [⟨0, 2, block⟩, ⟨2, 1, b2n badA + 2 * b2n badB⟩, ⟨3, 1, when_⟩, ⟨4, 8, seq⟩, ⟨12, 4, word⟩, ⟨16, 1, cand⟩,
      ⟨17, 1, action⟩, ⟨20, 8, fresh⟩] }

/-- The error that a block lost in both copies posts. -/
def lostCode (block : Nat) : Nat :=
  if block = 0x0001 then 0x0105
  else if block = 0x0002 then 0x0106
  else if block = 0x0006 then 0x0108
  else if block = 0x0007 then 0x0109
  else if block = 0x0008 then 0x010A
  else if block < 0x0100 then 0x0107
  else if block < 0x0200 then 0x0103
  else if block < 0x0300 then 0x0104
  else 0x010B

/-- The place for a new RECOVERY candidate: the first released one, else the oldest (R600). -/
def candidatePlace (t : Tbl Candidate) : Nat :=
  match (List.range 4).find? fun n => (t.get n {}).account = 0xFF with
  | some n => n
  | none => (List.range 4).foldl (fun m n => if (t.get n {}).found < (t.get m {}).found then n else m) 0

/-- A LEGAL block lost in both copies during operation: the account enters FAULT-HOLD, its working values become a
candidate with its in-filter energies, the filters and the fresh accumulator start at 0, CFG is kept, and a pending recovery
is cancelled (Table 12.12, R612, R1115, R1118). Answers the candidate's number. -/
def Dev.loseLegal (d : Dev) (a : Nat) : Dev × Nat :=
  let n := candidatePlace d.led.work.recovery
  let l := d.legal a
  let infl := (d.pairsOf a).foldl (fun t k =>
    (List.range 3).foldl (fun t q => t.set (3 * k + q) (d.inFilterField a k q)) t) l.infilter
  let d := d.setWork { d.led.work with
    recovery := d.led.work.recovery.set n ⟨a, d.now, { l with infilter := infl }, d.led.lastSeqs.get (0x0100 + a) 0⟩ }
  let d := d.updLegal a fun l => { cfg := l.cfg, fresh := true, freshSince := d.now }
  let d := d.each (d.pairsOf a) fun d k => d.updPair a k fun p => { p with flt := {}, out := {}, infl := {} }
  let d := { d with accts := d.accts.set a { d.acct a with recover := none } }
  (d.rejudge a, n)

/-- A finding in the ledger: a corrected word, one copy not valid, or both (R576, R599). `when_` is 0 in operation and 2
for a mover read. -/
def Dev.ledgerFinding (d : Dev) (f : ScrubFind) (when_ : Nat) : Dev :=
  let seq := if f.seqOk then (if f.block = 1 then d.led.lastSeq else d.led.lastSeqs.get f.block 0) else 0
  if f.fixed then d.raise (ledgerErr 0x0101 f.block f.badA f.badB when_ seq f.word 0xFF 0 0)
  else if f.badA && f.badB then
    if 0x0100 ≤ f.block && f.block < 0x0200 then
      let (d, n) := d.loseLegal (f.block - 0x0100)
      d.raise (ledgerErr 0x0103 f.block true true when_ seq f.word n 0 (d.legal (f.block - 0x0100)).freshSince)
    else
      let d := { d with led := { d.led with rewrite := d.led.rewrite ++ [f.block] } }
      d.raise (ledgerErr (lostCode f.block) f.block true true when_ seq f.word 0xFF 0 0)
  else if f.badA || f.badB then d.raise (ledgerErr 0x0102 f.block f.badA f.badB when_ seq f.word 0xFF 0 0)
  else d

/-- LEDGER_SCRUB: every 60 s the scrubber has read both copies of every block, with what it found; its cadence wakes the fast
domain (R83, R598, R1100). -/
def execLedgerScrub (found : List ScrubFind) (s : State) : Host.Outcome State Fault Refusal :=
  let d := s.dev
  if d.serving && d.since d.led.scrubAt (60 * second) then
    let d := ({ d with led := { d.led with scrubAt := d.up } } : Dev).rouse
    s.ok (d.oneClock fun d => d.each found fun d f => d.ledgerFinding f 0)
  else s.ok d

/-! ### Findings in the config store (R595, R596, Table 12.12) -/

/-- A config store error's report (Table 23.4). -/
def Dev.configErr (d : Dev) (code cls g sector margin sseq slotPcrc sealPcrc : Nat) : Err :=
  { code := code, cls := cls, region := groupRegion g
    detail := [⟨0, 1, g⟩, ⟨1, 1, sector⟩, ⟨2, 1, margin⟩, ⟨3, 1, 20 - d.store.sparesUsed⟩, ⟨4, 4, sseq⟩, ⟨8, 4, slotPcrc⟩,
      ⟨12, 4, sealPcrc⟩] }

/-- The slot of a group at a place. -/
def Dev.slotAt (d : Dev) (g sector place : Nat) : Option Slot :=
  (d.slotsOf g).find? fun x => x.sector = sector && x.place = place

/-- SSEQ and PCRC of the slot at a place. -/
def Dev.markAt (d : Dev) (g sector place : Nat) : Nat × Nat :=
  match d.slotAt g sector place with
  | some x => (x.sseq, crc32 x.payload)
  | none => (0, 0)

/-- The slot at a place turns out to hold an uncorrectable word. -/
def Dev.spoilSlot (d : Dev) (g sector place : Nat) : Dev :=
  { d with store := { d.store with slots := d.store.slots.set g ((d.slotsOf g).map fun x =>
      if x.sector = sector && x.place = place then { x with bad := true } else x) } }

/-- A KEYS record in force is lost: it counts as empty (Table 12.12). -/
def Dev.loseKey (d : Dev) (k : KeyRec) : Dev :=
  let act := (d.keyPtr k.owner).active = k.slot
  let d := { d with store := { d.store with keys := d.store.keys.map fun (x : KeyRec) =>
      if x.sseq = k.sseq then { x with bad := true } else x } }
  d.raise { code := 0x0501, cls := if act then 2 else 1, region := 7,
            detail := [⟨0, 1, k.owner⟩, ⟨1, 1, k.slot⟩, ⟨4, 4, k.gen⟩] }

/-- An uncorrectable word in the config store found in operation (Table 12.12). -/
def Dev.configLost (d : Dev) (g sector place : Nat) : Dev :=
  let (sseq, pcrc) := d.markAt g sector place
  if g = 0x0B then
    match d.store.keys.find? fun k => k.sector = sector && k.place = place with
    | some k => if d.inForce k && !k.bad then d.loseKey k else d
    | none => d
  else if g = 0x01 then
    let bad := if d.store.factoryBad.contains sector then d.store.factoryBad else d.store.factoryBad ++ [sector]
    let d := { d with store := { d.store with factoryBad := bad } }
    if bad.length ≥ 2 then d.raise (d.configErr 0x0207 1 g sector 0 0 0 0)
    else d.raise (d.configErr 0x0202 0 g sector 0 0 0 0)
  else
    let inUse := match d.newestSlot g with | some x => x.sector = sector && x.place = place | none => false
    let d := d.spoilSlot g sector place
    let d := if g = 0x0A then
        if inUse then { d with store := { d.store with
          packageDue := some ((d.newestSlot g).map fun x => x.payload), packageFallback := true } }
        else d
      else d.queueRefresh g
    d.raise (d.configErr 0x0202 1 g sector 0 sseq pcrc 0)

/-- One finding of a margin pass (Table 12.11). A refresh writes the group's newest content, whichever slot is weak, and FACTORY,
which only production writes, is reported and not rewritten (DEDUCED, assumption 138). -/
def Dev.marginFinding (d : Dev) (f : MarginFind) : Dev :=
  if f.kind = 3 then d.configLost f.group f.sector f.place
  else
    let d := if f.kind = 0 then d else d.setWork { d.led.work with device := { d.led.work.device with
      weak := d.led.work.device.weak.upd f.sector 0 fun n => min 255 (n + 1) } }
    let (sseq, pcrc) := d.markAt f.group f.sector f.place
    let g := if f.group = 0x0B then
        match d.store.keys.find? fun k => k.sector = f.sector && k.place = f.place with
        | some k => 0x0B + 256 * (2 * k.owner + k.slot)
        | none => 0x0B
      else f.group
    (if g = 0x01 then d else d.queueRefresh g).raise (d.configErr 0x0201 0 f.group f.sector (if f.kind = 0 then 1 else if f.kind = 1 then 2 else 0)
      sseq pcrc 0)

/-- A pass reads this place: both FACTORY copies, the slot in effect and the slot before it of every group, and every KEYS record
in force (R595). -/
def Dev.marginReads (d : Dev) (f : MarginFind) : Bool :=
  if f.group = 0x01 then f.sector < 2
  else if f.group = 0x0B then d.store.keys.any fun k => k.sector = f.sector && k.place = f.place && d.inForce k
  else (((d.slotsOf f.group).filter fun x => x.done).take 2).any fun x => x.sector = f.sector && x.place = f.place

/-- MARGIN_PASS: the scrubber's pass over the config store: 1 h of RUN after the first negotiation, then every 24 h
(R595); what it finds in a place that it does not read is none of it. -/
def execMarginPass (found : List MarginFind) (s : State) : Host.Outcome State Fault Refusal :=
  let d := s.dev
  let due := match d.store.lastMargin, d.store.firstNeg with
    | some t, _ => decide (t + 86400 * 32768 ≤ d.pwr.runTicks)
    | none, some t => decide (t + 3600 * 32768 ≤ d.pwr.runTicks)
    | none, none => false
  if d.serving && d.pwr.pstate = .run && due then
    let d := ({ d with store := { d.store with lastMargin := some d.pwr.runTicks } } : Dev).rouse
    let read := found.filter d.marginReads
    s.ok (d.oneClock fun d => d.each read Dev.marginFinding)
  else s.ok d

/-! ### Staging and context findings (R598, Table 12.12) -/

/-- An uncorrectable word of staging: in the ring shadow it puts every ring it covers into ERROR, whose entries are rewritten
(R827); elsewhere the block is quarantined (Table 12.12). A ring that is neither STARTED nor STOPPING does not change state (Table
17.4; DEDUCED, assumption 140). -/
def Dev.stagingFinding (d : Dev) (f : StagingFind) : Dev :=
  match f with
  | .block a =>
    ({ d with eng := { d.eng with quarantined := d.eng.quarantined + 1 } } : Dev).raise
      { code := 0x0301, cls := 0, region := 9, detail := [⟨0, 4, a⟩, ⟨4, 2, 0xFFFF⟩] }
  | .shadow rs =>
    if d.eng.shadowBlocks = 0 then d
    else d.each (rs.filter fun r => (d.ring r).state = .started || (d.ring r).state = .stopping) fun d r => d.ringFault r 4

/-- SRAM_SCRUB: every 4 s the scrubber has read staging and the context cache: the uncorrectable staging words, and addresses
of uncorrectable cached contexts with their rings; its cadence wakes the fast domain (R83, R598, R1100). -/
def execSramScrub (staging : List StagingFind) (rings : List (Nat × Nat)) (s : State) : Host.Outcome State Fault Refusal :=
  let d := s.dev
  if d.serving && d.since d.led.sramAt (4 * second) then
    let d := ({ d with led := { d.led with sramAt := d.up } } : Dev).rouse
    s.ok (d.oneClock fun d =>
      let d := d.each staging Dev.stagingFinding
      d.each rings fun d p =>
        (d.updRing p.2 fun g => { g with cached := false }).raise
          { code := 0x0302, cls := 0, region := 10, detail := [⟨0, 4, p.1⟩, ⟨4, 2, p.2⟩] })
  else s.ok d

/-! ### The ends of writes and erases (R581–R585, R588, R596) -/

/-- The sectors that the write executing needs are being erased, and it waits for them (R581). -/
def Dev.waitsErase (d : Dev) (g : Nat) : Bool :=
  if g = 0x0B then d.store.erasing.contains d.keysNext.1
  else
    let ring := d.ringSectors g
    let (s, p) := d.nextPlace g
    p = 0 && (slotSectors ring g s).any fun x => d.store.erasing.contains x

/-- A KEYS record whose read-back failed takes its place with DONE erased. -/
def Dev.putBadKey (d : Dev) : Dev :=
  let (s, p) := d.keysNext
  { d with store := { d.store with keys := d.store.keys ++ [⟨0xFF, 0, s, p, d.keysTop + 1, 0, [], false, false⟩] } }

/-- The write executing ends, and the next begins. -/
def Dev.endWrite (d : Dev) : Dev := ({ d with store := { d.store with executing := none } } : Dev).startWrite

/-- A read-back fails: the write is retried in the following slot; a second failure posts CONFIG_PROGRAM_FAIL and completes
a command with MEDIA_ERROR (R584). -/
def Dev.writeFailed (d : Dev) (x : Writing) : Dev :=
  let d := if x.w.group = 0x0B then d.putBadKey else d.programSlot x.w.group x.payload false
  if !x.retried then { d with store := { d.store with executing := some { x with retried := true } } }
  else
    let d := { d with store := { d.store with executing := none } }
    let d := d.raise (d.configErr 0x0204 1 x.w.group (if x.w.group = 0x0B then d.keysNext.1 else (d.nextPlace x.w.group).1) 0 0 0 0)
    let d := match x.w.cmd with | some c => d.done c stMedia | none => d
    d.startWrite

/-- GROUP_WRITE_DONE: the group write executing ends: DONE is programmed and its command completes with OK, or the
read-back fails. A KEYS record is in force at DONE; every other change takes effect at the next commit tick (R584, R587).
CONFIG_WRITE's result is the SSEQ written (Table 18.5). -/
def execGroupWriteDone (good : Bool) (s : State) : Host.Outcome State Fault Refusal :=
  let d := s.dev
  match d.store.executing with
  | none => s.ok d
  | some x =>
    if x.refresh || !d.units || d.waitsErase x.w.group then s.ok d
    else if !good then s.ok (d.writeFailed x)
    else
      let d := if x.w.group = 0x0B then d.writeKey (x.w.key / 2) (x.w.key % 2) x.w.gen x.w.block
        else
          let d := d.programSlot x.w.group x.payload true
          { d with store := { d.store with due := d.store.due ++ [x.w] } }
      let d := { d with store := { d.store with executing := none } }
      let result := if x.w.group = 0x05 || x.w.group = 0x08 || x.w.group = 0x09 then (d.slotMark x.w.group).1 else x.w.result
      let d := match x.w.cmd with | some c => d.doneWith c result | none => d
      s.ok d.startWrite

/-- REFRESH_FORWARD: the refresh executing ends: the slot's content stands unchanged in a new slot, a KEYS record under its
new SSEQ (R596, R668). -/
def execRefreshForward (good : Bool) (s : State) : Host.Outcome State Fault Refusal :=
  let d := s.dev
  match d.store.executing with
  | none => s.ok d
  | some x =>
    if !x.refresh || !d.units || d.waitsErase x.w.group then s.ok d
    else if !good then s.ok (d.writeFailed x)
    else if x.w.group = 0x0B then
      match d.keyRec (x.w.key / 2) (x.w.key % 2) with
      | some k => s.ok (d.writeKey k.owner k.slot k.gen k.key).endWrite
      | none => s.ok d.endWrite
    else s.ok (d.programSlot x.w.group x.payload true).endWrite

/-- The group in whose ring a sector lies. -/
def Dev.groupOfSector (d : Dev) (s : Nat) : Option Nat := (span 2 10).find? fun g => (d.ringSectors g).contains s

/-- SECTOR_ERASE_DONE: the erase in progress ends, and the sector reads erased (R582). -/
def execSectorEraseDone (s : State) : Host.Outcome State Fault Refusal :=
  let d := s.dev
  match d.store.erasing with
  | [] => s.ok d
  | x :: t =>
    if !d.units then s.ok d
    else
      let d := match d.groupOfSector x with | some g => d.dropSectors g [x] | none => d
      s.ok { d with store := { d.store with erasing := t, dirty := d.store.dirty.filter fun y => y ≠ x } }

end Sys2Proof.Machine
end

