-- ==== Sys2Proof/Machine/Service.lean ====
section
/-!
DEFINITION. Machine/Service.lean: shared operations of the host side: who may write registers, entering Backstop and what
it abandons, the mover's drop, and what the error unit and the tamper unit post when records resume.
-/
namespace Sys2Proof.Machine

/-! ### Access to the registers (R770, R776, R985–R989) -/

/-- The host port answers accesses: HOSTMODE high, link up, the power state RUN or DOZE, and step 5 of Table 2.5 reached. -/
def Dev.hostAlive (d : Dev) : Bool :=
  d.pwr.hostmode && d.awake && d.pwr.metClock && d.host.linkUp && d.pwr.step = .ready

/-- Function `f` answers memory accesses: in D3hot the PF answers configuration requests only (R791). -/
def Dev.barAlive (d : Dev) (f : Nat) : Bool := d.hostAlive && (if f = 0 then !d.host.d3hot else d.vfExists f)

/-- A write through the two-wire target port reaches a register: awake, past config recall, and not locked (Table 20.7). -/
def Dev.twtWrites (d : Dev) : Bool :=
  d.awake && d.pwr.metClock && (d.pwr.step = .ledgerRecall || d.pwr.step = .ready) && !d.host.twtLock

/-- A write of CONTROL or another register that both paths write takes effect. -/
def Dev.regWrite (d : Dev) (p : Path) : Bool :=
  match p with
  | .pcie f => f = 0 && d.barAlive 0
  | .twt => d.twtWrites

/-- A write of a register that only the PF writes takes effect (R776). -/
def Dev.pfWrite (d : Dev) (p : Path) : Bool :=
  match p with
  | .pcie f => f = 0 && d.barAlive 0
  | .twt => false

/-! ### The mover (R862) -/

/-- `n` bytes of the boot image area from `a` hold free values (R862, R884). -/
def Dev.freeRange (d : Dev) (a n : Nat) : Dev :=
  d.each (List.range n) fun d i =>
    let (d, v) := d.draw
    d.storeBytes (a + i) [BitVec.ofNat 8 v]

/-- MOVECTL.DROP: the transfer in progress is discarded; MOVESRC, MOVEDST and COUNT hold free values, and so does the
destination range in the boot image area. -/
def Dev.moverDrop (d : Dev) : Dev :=
  match d.host.mover with
  | none => d
  | some m =>
    let (d, a) := d.draw
    let (d, b) := d.draw
    let (d, c) := d.draw
    let d := { d with host := { d.host with
      mover := none, moveDone := false, moveFail := true, movesrc := BitVec.ofNat 64 a, movedst := BitVec.ofNat 64 b
      moveCount := BitVec.ofNat 32 c } }
    if m.dir then d
    else d.freeRange m.dst m.left

/-! ### INTERNAL (Table 18.4, R1096) -/

/-- A command completes with INTERNAL, and INTERNAL_COMMAND is posted. -/
def Dev.doneInternal (d : Dev) (x : Desc) (opcode : Nat) : Dev :=
  (d.done x.ref stInternal).raise
   { code := 0x0604, cls := 1
     detail := [⟨0, 2, match x.src with | .ring r => r | _ => 0xFFFF⟩, ⟨3, 1, d.issuer x.ref⟩, ⟨4, 2, opcode⟩, ⟨8, 4, x.tag⟩] }

/-! ### Ending a SELFTEST (R147, Table 18.8) -/

/-- What a SELFTEST does to the machine while it runs ends: the link's TEST request, or Converter B serving for VOLT_B. -/
def Dev.endTest (d : Dev) : Dev :=
  match d.test with
  | none => d
  | some t =>
    let d := { d with test := none }
    if t.test = 0x01 || t.test = 0x02 then d.setLink t.target { d.link t.target with cmdTest := 0 }
    else if t.test = 0x10 then
      (if d.volt.healthA.good && d.volt.serving = 1 then ({ d.serve 0 with volt := { (d.serve 0).volt with run := { (d.serve 0).volt.run with bad := true } } } : Dev).refreshFrame else d)
    else d

/-! ### Abandoned commands (R53, R798, R910, R920, R1003, R1004) -/

/-- Commands from rings that `own` names are abandoned by the units that hold them; nothing is completed. Changes
accepted with OK stay; group writes queued and not begun go. -/
def Dev.abandonOf (d : Dev) (own : Nat → Bool) : Dev :=
  let mine := fun (c : CmdRef) => own c.ring
  let wipe := fun (w : GroupWrite) => { w with cmd := w.cmd.filter fun c => !mine c }
  let d := match d.test with | some t => if mine t.cmd then d.endTest else d | none => d
  { d with
    store := { d.store with
      queue := d.store.queue.filter fun w => match w.cmd with | some c => !mine c | none => true
      executing := d.store.executing.map fun x => { x with w := wipe x.w } }
    aux := { d.aux with
      run := d.aux.run.map fun r => { r with waiting := r.waiting.filter fun x => !mine x.ref }
      queued := d.aux.queued.map fun l => l.filter fun x => !mine x.ref }
    volt := { d.volt with test := d.volt.test.map fun t => { t with cmd := t.cmd.filter fun c => !mine c } }
    keys := { d.keys with
      pend := (d.keys.pend.filter fun k => k.commit.isSome || match k.cmd with | some c => !mine c | none => true).map fun
        (k : KeyCommit) => { k with cmd := k.cmd.filter fun c => !mine c }
      snaps := d.keys.snaps.filter fun k => !mine k.cmd.ref }
    tw := { d.tw with
      xfers := d.tw.xfers.filter fun p => !mine p.1.ref
      lineup := d.tw.lineup.map fun l => { l with cmd := l.cmd.filter fun c => !mine c } }
    lnet := { d.lnet with queue := d.lnet.queue.filter fun f => match f.cmd with | some c => !mine c | none => true } }

/-! ### Entering Backstop (R41, R43, R51, R53, R588, R799, R866, R867, R1102, Table 16.12) -/

/-- The rings at entry into Backstop: after SOFT_RESET or a PF FLR every ring is ABSENT, the blocks are released and the
shadow returned; otherwise started and stopping rings become STOPPED. Held records are discarded. -/
def RingEngine.backstop (e : RingEngine) (soft : Bool) : RingEngine :=
  let e := { e with
    flights := [], fences := [], stops := [], owedDone := [], bootLeft := 0, lineBlocks := 0, setOpen := none, behind := [], reserved := 0 }
  if soft then { e with rings := {}, blocks := {}, shadowBlocks := 0 }
  else { e with rings := e.rings.mapV fun g =>
    let n := if g.state = .started || g.state = .stopping then g.held.length else 0
    { g with state := if g.state = .started || g.state = .stopping then .stopped else g.state
             held := [], late := [], owed := 0, bufs := [], dropped := wrap 16 (g.dropped + n) } }

/-- The error unit at entry into Backstop or HOLD: the open slot and the queue are discarded and counted in QUEUE_LOST, and
slot 3 closes (R1102, R1127, R1128, R1215). A Backstop that a device-fatal error makes due stays due (R51). -/
def Dev.dropErrors (d : Dev) : Dev :=
  let n := d.err.queue.length + b2n d.err.slot.isSome
  let d := { d with err := { d.err with queue := [], slot := none, fatalOpen := false } }
  d.updErr fun b => { b with queueLost := sat32 (b.queueLost + n) }

/-- The line network MAC stops: reassembly, frames not acted on, and the tunnel's messages are lost; frames queued are
dropped, and the node keeps its role (R48, R1135; DEDUCED, assumption 107). -/
def Dev.lineOff (d : Dev) (soft : Bool) : Dev :=
  let d := d.lineReceiveStop
  { d with
    eng := { d.eng with lineBlocks := 0 }
    lnet := { d.lnet with
    rx := {}, inbox := [], queue := [], urgent := [], tunQueue := [], tunPart := 0, tunJoin := [], tunReady := [], tunRunning := none
    beaconWait := none, roster := if soft then {} else d.lnet.roster } }

/-- Backstop is entered with a cause, or its cause is replaced by a fatal one; `soft` for SOFT_RESET and a PF FLR. A SOFT_RESET
written during the Backstop in progress counts as the one that leaving asks for, though the fatal error came after it (R73,
R1112; DEDUCED, assumption 114). -/
def Dev.enterBackstop (d : Dev) (cause : Nat) (soft : Bool) : Dev :=
  let was := d.pwr.backstop
  let d := d.abandonOf fun _ => true
  let d := d.dropErrors.lineOff soft
  let running := d.host.mover.isSome
  let d := { d with
    pwr := { d.pwr with
      backstop := true
      cause := if !was || cause = 2 || cause = 3 || soft then cause else d.pwr.cause
      backSince := if was then d.pwr.backSince else d.now
      softSeen := was && d.pwr.softSeen, checking := false, fastOn := false, preWake := false }
    host := { d.host with
      quiesce := false, twtLock := if cause = 4 then false else d.host.twtLock, negotiated := false, negotiating := none
      mover := none, moveFail := d.host.moveFail || running, moveDone := d.host.moveDone && !running, flrWait := []
      fns := d.host.fns.mapV fun x => { x with cause := 0#4, win := {} } }
    eng := d.eng.backstop soft
    recs := { d.recs with afterCommit := [], ceilWait := [] }
    keys := { d.keys with noise := {}, restarted := false, restarts := 0 }
    store := { d.store with refresh := [], queue := [] }
    led := { d.led with writing := d.led.writing.map fun (w : Commit) => { w with recs := 0 } }
    trk := { d.trk with previews := [], tp := none }
    pq := { d.pq with
      cap := { d.pq.cap with arm := none, trig := none, store := [] }
      harm := { d.pq.harm with win := none, closed := none, delayed := [] } } }
  d.when (!was) Dev.leaveDoze

/-! ### What records resume with (R744, R745, R945, R1109) -/

/-- One CATCH_UP for each tamper slot whose COUNT differs from the count last announced; it waits for the commit that writes
the slot where that is still to come (R946). -/
def Dev.tamperCatchUp (d : Dev) : Dev :=
  d.each tamperKinds fun d p =>
    let k := tamperSlot p.1 p.2
    let t := d.led.work.tamper.get k {}
    if t.count = d.tam.announced.get k 0 then d
    else
      let (who, ep) := d.tamperWho p.1 p.2
      let d := { d with tam := { d.tam with announced := d.tam.announced.set k t.count } }
      let b : RecBody := { ty := 0x30, tenant := who, epoch := ep, time := t.last, pay := tamperFields 3 p.1 p.2 0 t }
      if d.led.last.tamper.get k {} = t then d.post b else d.postAfterCommit b

/-- A report that opens no slot: numbered and delivered at once (R1109). -/
def Dev.postErrorNow (d : Dev) (e : Err) (time : DevTime) (follow rc : Nat) : Dev :=
  let (d, b) := d.number { ty := 0x70 }
  d.deliverError ⟨e, time, follow, 0, rc, false, d.err.overflow, b.seq⟩

/-- The regions whose COUNT differs from REPORTED. -/
def ErrBlk.changed (b : ErrBlk) : List Nat := (List.range 16).filter fun r => b.count.get r 0 ≠ b.reported.get r 0

/-- The latch, QUEUE_DISCARDED, the region catch-ups and CLASS_CATCH_UP, in this order (R1102, R1105, R1109, R1111). -/
def Dev.errorCatchUp (d : Dev) : Dev :=
  let b := d.led.work.errors
  let d := if b.fatalCode ≠ 0 && !b.fatalAcked then
      let seq := d.recs.seq.get (256 * 0x70 + 0xFF) 0
      let d := d.postErrorNow { code := b.fatalCode, cls := 3, detail := b.fatalDetail } b.fatalTime b.fatalFollow 0
      { d with err := { d.err with latchSeq := some seq } }
    else d
  let d := if b.queueLost ≠ 0 then
      (d.postErrorNow { code := 0x0F03, cls := 0, detail := [⟨0, 4, b.queueLost⟩] } d.now 0 0).updErr
        fun e => { e with queueLost := 0 }
    else d
  let d := d.each b.changed fun d r =>
    let n := d.led.work.errors.count.get r 0
    let old := d.led.work.errors.reported.get r 0
    d.postErrorNow { code := 0x0F01, cls := 0, region := r, detail := [⟨0, 4, old⟩] } d.now 0 n
  let n := fun c => b.classCount.get c 0
  if (List.range 4).all fun c => n c = 0 then d
  else
    let top := if n 3 ≠ 0 then 3 else if n 2 ≠ 0 then 2 else if n 1 ≠ 0 then 1 else 0
    let fs := fieldsOf 4 0 4 4 n ++ fieldsOf 4 16 2 2 fun c => b.firstCode.get c 0
    (d.postErrorNow { code := 0x0F02, cls := top, detail := fs } d.now 0 0).updErr
      fun e => { e with classCount := {}, firstCode := {} }

end Sys2Proof.Machine
end

