-- ==== Sys2Proof/Machine/Commit.lean ====
section
/-!
DEFINITION. Machine/Commit.lean: the commit tick and the end of its write: changes that take effect, sealed events, tamper
log entries taken in, counter ceilings, snapshots captured, and the commit set (chapters 7, 11, 12, 14, 15 and 23).
-/
namespace Sys2Proof.Machine

/-! ### A changed parameter group takes effect -/

/-- A changed voltage calibration sets the Umpire's persistence to 0 and abandons a reference test, with a SELFTEST that
waits for it ending ABORTED (R255, R277). -/
def Dev.voltCalChanged (d : Dev) : Dev :=
  let cmd := d.volt.test.bind fun t => t.cmd
  let d := d.dropTest
  let d := d.setVolt { d.volt with persist := 0, rms := [] }
  match cmd with
  | some c => ({ d with test := none } : Dev).done c stAborted
  | none => d

/-- A CABINET block takes effect (Table 11.6). -/
def Dev.applyCabinet (d : Dev) (b : List Byte) : Dev :=
  let was := d
  let old := d.cal.cabinet
  let d := { d with cal := { d.cal with cabinet := b } }
  let d := if fieldAt old 0 4 ≠ fieldAt b 0 4 then d.voltCalChanged else d
  let d := if fieldAt old 4 2 ≠ fieldAt b 4 2 then { d with pq := { d.pq with ref := {}, refState := {} } } else d
  let d := d.each [0, 1, 2, 3] fun d x => if fieldAt old (8 + x) 1 ≠ fieldAt b (8 + x) 1 then d.reacquire x else d
  d.mclkEdges was

/-- A VOLTAGE block takes effect. -/
def Dev.applyVoltage (d : Dev) (conv : Nat) (b : List Byte) : Dev :=
  let old := d.voltBlk conv
  let d := { d with cal := { d.cal with volt := d.cal.volt.set conv b } }
  if old = b then d else d.voltCalChanged

/-- What depends on the line parameters in effect: a change moves the line network's epoch, and the physical layer takes it
up when it is free (R1011, R1082). `old` holds them as they were. -/
def Dev.lineChanged (d : Dev) (old : List Byte) : Dev := if d.lineParams = old then d else (d.bump 0x44).lineApply

/-- A package, or the fallback of one, is in effect from here (R620, R705, Table 12.12). -/
def Dev.takePackage (d : Dev) (p : Option (List Byte)) (fallback : Bool) : Dev :=
  let old := d.lineParams
  let d := { d with store := { d.store with package := p, packageFallback := fallback, packageDue := none }
                    tariff := { d.tariff with pkgChanged := true } }
  d.lineChanged old

/-- A group write whose DONE is programmed takes effect (R587, R783, R620, R534, R290, R1008). -/
def Dev.applyWrite (d : Dev) (w : GroupWrite) : Dev :=
  match w.group with
  | 0x02 => if w.key = 0 then d.applyCabinet w.block else d.applyVoltage (w.key - 1) w.block
  | 0x03 => { d with cal := { d.cal with chan := d.cal.chan.set w.key w.block } }
  | 0x04 => d.applyTenant w.key w.block w.clear
  | 0x05 => { d with pq := { d.pq with group := w.block } }
  | 0x06 => d.applyPulse w.key w.block
  | 0x07 => d.applyAux w.block
  | 0x08 => { d with host := { d.host with groupBytes := w.block } }
  | 0x09 =>
    let old := d.lineParams
    (d.setPhy { d.lphy with params := w.block }).lineChanged old
  | 0x0A =>
    let d := (d.takePackage (some w.block) false).bump 0x43
    d.setWork { d.led.work with sealBlk := { d.led.work.sealBlk with
      pkgVersion := max d.led.work.sealBlk.pkgVersion (fieldAt w.block 8 8) } }
  | _ => d

/-! ### Sealed recovery (R1116–R1118) -/

/-- In-filter energies in 2^−16 unit are filed as one sample energy, routed under their own signs (R370, R570, R1116). -/
def Dev.fileStored (d : Dev) (a ph : Nat) (p q p1 : Int) : Dev :=
  d.fileAll a ((routing (d.absolute a) p q 0 p1 (if ph ≤ 2 then [(ph, p, p1)] else [])).map fun x => (x.1, x.2.toNat * 2 ^ 16))

/-- The INFILTER fields of a LEGAL image are released, pair by pair. -/
def Dev.fileInfilter (d : Dev) (a : Nat) (t : Tbl Int) : Dev :=
  d.each [0, 1, 2] fun d k => d.fileStored a (d.pairPh a k) (t.get (3 * k) 0) (t.get (3 * k + 1) 0) (t.get (3 * k + 2) 0)

/-- Registers and residues of a candidate are added to the fresh ones. -/
def addLegals (c l : Legal) : Legal :=
  (List.range 16).foldl (fun (x : Legal) i =>
    let res := c.res.get i 0 + l.res.get i 0
    { x with reg := x.reg.set i (min (2 ^ 64 - 1) (c.reg.get i 0 + l.reg.get i 0 + res / 2 ^ 32))
             res := x.res.set i (res % 2 ^ 32) }) l

/-- The recovery pending for account `a` is applied, and LEGAL_RECOVERED is posted. -/
def Dev.applyRecovery (d : Dev) (a : Nat) (r : Recovery) : Dev :=
  let since := (d.legal a).freshSince
  let d := { d with accts := d.accts.set a { d.acct a with recover := none } }
  let d := match r with
    | .candidate n =>
      let c := d.led.work.recovery.get n {}
      (d.updLegal a fun l => addLegals c.image l).fileInfilter a c.image.infilter
    | .fresh => d
  let d := d.updLegal a fun l => { l with fresh := false, freshSince := 0 }
  let d := d.setWork { d.led.work with recovery := d.led.work.recovery.mapV fun c =>
    if c.account = a then { c with account := 0xFF } else c }
  let (cand, action) := match r with | .candidate n => (n, 1) | .fresh => (0xFF, 2)
  d.raise { ledgerErr 0x010C (0x0100 + a) false false 0 (d.led.lastSeqs.get (0x0100 + a) 0) 0 cand action since with account := a }

/-! ### Key commits at their tick (R676, R715) -/

/-- An accepted KEY_COMMIT at its tick: the pointer flips, or the command completes with STATE_MISMATCH where its key is
lost. `seq` numbers the commit. -/
def Dev.keyTick (d : Dev) (seq : Nat) (k : KeyCommit) : Dev :=
  let held := match d.keyRec k.owner k.slot with | some r => r.gen = k.gen | none => false
  if !held then
    let d := { d with keys := { d.keys with pend := d.keys.pend.erase k } }
    match k.cmd with | some c => d.done c stMismatch | none => d
  else
    let p := d.keyPtr k.owner
    let w := d.led.work
    let counters := if k.owner < 64 then { w.counters with tceil := w.counters.tceil.set k.owner 4096 }
      else if k.owner = 0x40 then { w.counters with lceil := 1024 } else w.counters
    let d := d.setWork { w with
      keyptr := w.keyptr.set k.owner { active := k.slot, gen := k.gen, commits := sat32 (p.commits + 1) }, counters := counters }
    ({ d with keys := { d.keys with pend := d.keys.pend.map fun x => if x = k then { k with commit := some seq } else x } } : Dev).bump
      0x46

/-- The commit that flipped a pointer is written: the counter is 0 from here, exhaustion ends, the line's tables move on, and
the command completes (R676, R677, R688, R714, R1070, R1071). -/
def Dev.keyDone (d : Dev) (k : KeyCommit) : Dev :=
  let d := { d with
    keys := { d.keys with
      pend := d.keys.pend.erase k
      counter := if k.owner ≤ 64 then d.keys.counter.set k.owner 0 else d.keys.counter
      exhausted := d.keys.exhausted.filter fun t => t ≠ k.owner }
    led := { d.led with countersLost := d.led.countersLost.filter fun t => t ≠ k.owner } }
  let d := if k.owner = 0x40 then { d with lnet := { d.lnet with
      highPrev := d.lnet.high, high := {}, keyChanged := some d.up, exhausted := false, keyreqAt := none } }
    else d
  match k.cmd with | some c => d.done c stOK | none => d

/-! ### Counter ceilings (R682, R685) -/

/-- The pointer of an owner has flipped and its commit is not written yet: its counter is 0 from then on (R676). -/
def Dev.keyFlips (d : Dev) (o : Nat) : Bool := d.keys.pend.any fun k => k.owner = o && k.commit.isSome

/-- Ceilings of counters in use that have come within half a reserve are raised; a tenant counter that reaches exhaustion
posts its error once. -/
def Dev.raiseCeilings (d : Dev) : Dev :=
  let c := d.led.work.counters
  let tc := (List.range 64).foldl (fun (t : Tbl Nat) i =>
    if (d.keyPtr i).active ≠ 0xFF && !d.keyFlips i && d.keys.counter.get i 0 + 2048 ≥ t.get i 0 then t.set i (min (2 ^ 48) (t.get i 0 + 4096))
    else t) c.tceil
  let lc := if (d.keyPtr 0x40).active ≠ 0xFF && !d.keyFlips 0x40 && d.keys.counter.get 0x40 0 + 512 ≥ c.lceil then min (2 ^ 32) (c.lceil + 1024)
    else c.lceil
  let d := d.setWork { d.led.work with counters := { c with tceil := tc, lceil := lc } }
  d.each ((List.range 64).filter fun t => d.keys.counter.get t 0 ≥ 2 ^ 48 - 4096 && !d.keys.exhausted.contains t) fun d t =>
    ({ d with keys := { d.keys with exhausted := d.keys.exhausted ++ [t] } } : Dev).raise
      { code := 0x0502, cls := 1, detail := [⟨0, 1, t⟩, ⟨1, 1, (d.keyPtr t).active⟩, ⟨4, 4, (d.keyPtr t).gen⟩,
        ⟨8, 8, d.keys.counter.get t 0⟩] }

/-! ### The tamper log (R738–R740) -/

/-- Log entries in the order in which a commit takes them in: the earlier FIRST first. -/
def byFirst (e : TamEntry) : List TamEntry → List TamEntry
  | [] => [e]
  | x :: t => if e.first < x.first then e :: x :: t else x :: byFirst e t

/-- The log entries not taken yet go into the working TAMPER slots, and the starts they hold are announced (R738, R744). -/
def Dev.takeLog (d : Dev) (seq : Nat) : Dev :=
  let new := (d.tam.log.filter fun e => !e.taken).foldr byFirst []
  let d := d.each new fun d e =>
    let k := tamperSlot e.kind e.index
    d.setTamper k ((d.led.work.tamper.get k {}).take e.count e.first e.last)
  let d := { d with tam := { d.tam with
    log := d.tam.log.map fun (e : TamEntry) => if e.taken then e else { e with taken := true, pseq := seq % 2 ^ 32 } } }
  let starts := d.tam.starts
  let d := { d with tam := { d.tam with starts := [] } }
  d.each starts fun d s => d.announce s.1 s.2.1 s.2.2.1 s.2.2.2

/-! ### Sealed events and the SEAL block (R528, R529, R592, R1117, R1211) -/

/-- The sealed groups whose slot in use differs from the SEAL block by its PCRC (R592). -/
def Dev.sealDiffers (d : Dev) : List Nat :=
  [0, 1, 2].filter fun j => (d.slotMark (2 + j)).2 ≠ d.led.work.sealBlk.grpPcrc.get j 0

/-- The SEAL block takes SSEQ and PCRC of the slot in use of sealed group 2 + `j`. -/
def SealBlk.mark (b : SealBlk) (j : Nat) (m : Nat × Nat) : SealBlk :=
  { b with grpSseq := b.grpSseq.set j m.1, grpPcrc := b.grpPcrc.set j m.2 }

/-- GRP fields at a commit: groups changed at it, every group at the repair commit, and the new SSEQ of a refreshed slot. -/
def Dev.markGroups (d : Dev) (changed : List Nat) (repair : Bool) : Dev :=
  let b := [0, 1, 2].foldl (fun (b : SealBlk) j =>
    let m := d.slotMark (2 + j)
    if repair || changed.contains (2 + j) || (m.2 = b.grpPcrc.get j 0 && m.1 > b.grpSseq.get j 0) then
      (if m.1 = b.grpSseq.get j 0 && m.2 = b.grpPcrc.get j 0 then b else b.mark j m)
    else b) d.led.work.sealBlk
  d.setWork { d.led.work with sealBlk := b }

/-- One or more sealed changes take effect at this commit: CAL_EVENTS counts by exactly 1, CAL_ENABLE with index 1 is
recorded, and LAST_CHANGE is set. -/
def Dev.sealEvent (d : Dev) : Dev :=
  let b := d.led.work.sealBlk
  (d.setWork { d.led.work with sealBlk := { b with calEvents := sat32 (b.calEvents + 1), lastChange := d.now } }).tamper 0x06 1 d.now

/-! ### Every change that takes effect (R76, R333, R336, R587) -/

/-- Accounts whose changes take effect at this tick. -/
def Dev.changedAccounts (d : Dev) : List Nat :=
  (d.store.due.filter fun w => w.group = 0x04).map (fun w => w.key) ++
    d.accts.keys.filter fun a => (d.acct a).pend.isSome || (d.acct a).recover.isSome

/-- The changes accepted and not yet in effect take effect, in the order in which they were accepted, one sealed event for
all; accounts then take their states, each with at most one step of its epoch (R338). -/
def Dev.takeChanges (d : Dev) (seq : Nat) : Dev :=
  let before := fun a => d.epoch a
  let changed := d.changedAccounts
  let due := d.store.due
  let repair := d.led.repairDue
  let sealed := (due.any fun w => w.sealChange) || (d.accts.keys.any fun a => (d.acct a).recover.isSome) ||
    (repair && !d.sealDiffers.isEmpty)
  let d := { d with store := { d.store with due := [] } }
  let d := if changed.isEmpty then d else { d with pq := { d.pq with secTouched := true } }
  let d := d.each due Dev.applyWrite
  let d := match d.store.packageDue with | some p => d.takePackage p true | none => d
  let d := d.each (d.accts.keys.filter fun a => (d.acct a).pend.isSome) fun d a =>
    let p := (d.acct a).pend
    let d := { d with accts := d.accts.set a { d.acct a with pend := none } }
    if p = some .suspend then d.applySuspend a else d.applyResume a
  let d := d.each d.accts.keys fun d a => match (d.acct a).recover with | some r => d.applyRecovery a r | none => d
  let d := d.each d.pulses.keys fun d o => match (d.pulse o).pend with | some b => d.applyPulse o b | none => d
  let d := d.each (d.keys.pend.filter fun k => k.commit.isNone) fun d k => d.keyTick seq k
  let d := d.markGroups (due.map fun w => w.group) repair
  let d := if sealed then d.sealEvent else d
  d.each accounts fun d a =>
    let (d, ch) := d.takeState a
    if (ch || changed.contains a) && d.epoch a = before a then d.touch a else d

/-! ### Snapshots (R695, Table 14.9) -/

/-- The sum of the tamper counts but for REVERSE_CURRENT, saturating. -/
def Dev.tamperTotal (d : Dev) : Nat :=
  sat32 (sumOn (d.led.work.tamper.cells.filter fun p => p.1 < 26 || 220 < p.1) fun p => p.2.count)

/-- SFLAGS of a snapshot of account `a`. -/
def Dev.snapFlags (d : Dev) (a : Nat) : Nat :=
  b2n (d.faultHold a) + 2 * b2n d.pwr.timeInvalid + 4 * b2n (d.volt.serving = 1) + 8 * b2n (!d.cal.sealed)

/-- Bytes 0–223 of a snapshot of account `a`, as the commit `seq` captures them. -/
def Dev.snapBytes (d : Dev) (a seq : Nat) : List Byte :=
  let l := d.legal a
  let o := d.openBlk a
  let gen := if a < 64 && (d.keyRec a (d.keyPtr a).active).isSome then (d.keyPtr a).gen else 0
  layout 224 ([⟨0, 1, 1⟩, ⟨1, 1, a⟩, ⟨2, 1, (d.acct a).shown⟩, ⟨3, 1, d.snapFlags a⟩,
      ⟨4, 4, d.led.work.counters.snapSeq.get a 0⟩, ⟨8, 8, Config.deviceId⟩, ⟨16, 8, identValue.toNat⟩, ⟨24, 8, d.now⟩, ⟨32, 8, seq⟩,
      ⟨40, 4, d.led.work.sealBlk.calEvents⟩, ⟨44, 1, o.epoch⟩, ⟨48, 8, d.led.work.sealBlk.pkgVersion⟩,
      ⟨184, 8, o.unmetered⟩, ⟨192, 4, d.tamperTotal⟩, ⟨208, 4, gen⟩] ++
    fieldsOf 16 56 8 8 (fun i => l.reg.get i 0) ++
    fieldsOf 3 196 4 4 fun p => (d.led.work.tamper.get (tamperSlot 0x07 (3 * a + p)) {}).count)

/-- The pending snapshots not taken yet are captured at this commit: SNAP_SEQ counts, and the values are taken. -/
def Dev.takeSnaps (d : Dev) (seq : Nat) : Dev :=
  let n := d.keys.snaps.length
  (List.range n).foldl (fun (d : Dev) i =>
    match d.keys.snaps[i]? with
    | some w =>
      if w.taken.isSome then d
      else
        let c := d.led.work.counters
        let d := d.setWork { d.led.work with counters :=
          { c with snapSeq := c.snapSeq.upd w.account 0 fun n => wrap 32 (n + 1) } }
        let w := { w with taken := some (d.snapBytes w.account seq), commit := seq, time := d.now }
        { d with keys := { d.keys with snaps := d.keys.snaps.set i w } }
    | none => d) d

/-! ### The commit set and its write (R564–R569) -/

/-- A block of image `n` holds the same value as in `m`. -/
def Image.same (m n : Image) (id : Nat) : Bool :=
  (if id = 0x0002 then m.sealBlk = n.sealBlk
   else if id = 0x0003 then m.device = n.device
   else if id = 0x0004 then m.pulse = n.pulse
   else if id = 0x0005 then m.errors = n.errors
   else if id = 0x0006 then m.counters = n.counters
   else if id = 0x0007 then m.keyptr = n.keyptr
   else if id = 0x0008 then m.tamper = n.tamper
   else if id < 0x0200 then m.legal.get? (id - 0x0100) = n.legal.get? (id - 0x0100)
   else if id < 0x0300 then m.opens.get? (id - 0x0200) = n.opens.get? (id - 0x0200)
   else m.recovery.get? (id - 0x0300) = n.recovery.get? (id - 0x0300)) || m.bytes id 0 = n.bytes id 0

/-- One block of image `m` replaced by that of `n`. -/
def Image.put (m n : Image) (id : Nat) : Image :=
  if id = 0x0002 then { m with sealBlk := n.sealBlk }
  else if id = 0x0003 then { m with device := n.device }
  else if id = 0x0004 then { m with pulse := n.pulse }
  else if id = 0x0005 then { m with errors := n.errors }
  else if id = 0x0006 then { m with counters := n.counters }
  else if id = 0x0007 then { m with keyptr := n.keyptr }
  else if id = 0x0008 then { m with tamper := n.tamper }
  else if id < 0x0200 then { m with legal := m.legal.set (id - 0x0100) (n.legal.get (id - 0x0100) {}) }
  else if id < 0x0300 then { m with opens := m.opens.set (id - 0x0200) (n.opens.get (id - 0x0200) {}) }
  else { m with recovery := m.recovery.set (id - 0x0300) (n.recovery.get (id - 0x0300) {}) }

/-- One block of a commit is written into a copy; block 0x0001 stands for COMMIT. -/
def Copy.write (c : Copy) (w : Commit) (id : Nat) : Copy :=
  let c := { c with hard := c.hard.filter fun b => b ≠ id, crcBad := c.crcBad.filter fun b => b ≠ id }
  if id = 0x0001 then { c with seq := w.seq, final := w.final, time := w.time, reason := w.reason }
  else { c with img := c.img.put w.img id, seqs := c.seqs.set id w.seq }

/-- A whole commit set is written into a copy, COMMIT last (R566). -/
def Copy.writeAll (c : Copy) (w : Commit) : Copy := (w.blocks ++ [0x0001]).foldl (fun c id => c.write w id) c

/-- INFILTER fields of every account as they stand (R569). -/
def Dev.storeInfilter (d : Dev) : Dev :=
  d.each d.accts.keys fun d a =>
    let t := (d.pairsOf a).foldl (fun (t : Tbl Int) k => (List.range 3).foldl (fun t q =>
      let x := d.inFilterField a k q
      if x = 0 then t else t.set (3 * k + q) x) t) ({} : Tbl Int)
    if (d.legal a).infilter = t then d else d.updLegal a fun l => { l with infilter := t }

/-- A commit begins: its set is every block that differs from the last commit, and every block at a repair (R565, Table
12.8). -/
def Dev.beginCommit (d : Dev) (seq : Nat) (final : Bool) (time : DevTime) : Dev :=
  let repair := d.led.repairDue && !final
  let ids := if d.led.repairDue then blockIds
    else blockIds.filter fun id => d.led.rewrite.contains id || !(d.led.work.same d.led.last id)
  { d with led := { d.led with
    writing := some { img := d.led.work, seq := seq, final := final, reason := if final then 1 else if repair then 2 else 0
                      time := time, blocks := ids, recs := d.recs.afterCommit.length }
    rewrite := [], repairDue := false } }

/-! ### COMMIT_COMPLETE -/

/-- Copies for one ring that waited for a ceiling are posted once it is committed, a preview and its follow-up into their reserved
entries; a preview whose Tp lies more than 5 µs back is late (Table 9.5, R683, R954; DEDUCED, assumption 148). -/
def Dev.drainCeil (d : Dev) : Dev :=
  let l := d.recs.ceilWait
  let d := { d with recs := { d.recs with ceilWait := [] } }
  d.each l fun d x =>
    let g := d.ring x.1
    if g.state != .started && g.state != .stopping then d
    else if 1 ≤ x.2.ty && x.2.ty ≤ 3 then
      let late := x.2.ty = 1 && match d.trk.tp with | some t => d.since t (us 5) | none => true
      let d := d.setTrk { d.trk with previewLate := sat32 (d.trk.previewLate + b2n late) }
      if d.masters (fnOfOwner (d.ringOwner x.1)) then (d.setRing x.1 { g with owed := g.owed - 1 }).writeRec x.1 x.2
      else d.setRing x.1 { g with late := g.late ++ [x.2] }
    else if d.masters (fnOfOwner (d.ringOwner x.1)) && d.roomForRec x.1 then d.writeRec x.1 x.2
    else d.holdOrDrop x.1 x.2

/-- FENCEs with TICK whose commit is written complete with its SEQ (R900). -/
def Dev.fencesDone (d : Dev) (seq : Nat) : Dev :=
  let ready := d.eng.fences.filter fun f => match f.commit with | some n => n ≤ seq | none => false
  let d := { d with eng := { d.eng with fences := d.eng.fences.filter fun f => !ready.contains f } }
  d.each ready fun d f => d.doneWith f.cmd seq

/-- The write of a commit to both copies has completed (R567): its values are the last commit's, the log entries it took in
are cleared, key commits and fences complete, and the records that waited for it are posted (R677, R738, R900, R946). -/
def Dev.commitDone (d : Dev) : Dev :=
  match d.led.writing with
  | none => d
  | some w =>
    let d := { d with led := { d.led with
      a := d.led.a.writeAll w, b := d.led.b.writeAll w, last := w.img, lastSeq := w.seq, writing := none
      lastSeqs := w.blocks.foldl (fun (t : Tbl Nat) id => t.set id w.seq) d.led.lastSeqs } }
    let d := { d with tam := { d.tam with log := d.tam.log.filter fun e => !e.taken } }
    let d := d.each (d.keys.pend.filter fun k => k.commit.any fun n => n ≤ w.seq) Dev.keyDone
    let recs := d.recs.afterCommit.take w.recs
    let d := { d with recs := { d.recs with afterCommit := d.recs.afterCommit.drop w.recs } }
    let d := (d.drainCeil.each recs fun d b => d.route b).fencesDone w.seq
    if d.serving then d.serveAll else d

/-- COMMIT_COMPLETE: the commit tick's write of both copies has completed, within 0.55 ms of the tick. -/
def execCommitComplete (s : State) : Host.Outcome State Fault Refusal :=
  let d := s.dev
  match d.led.writing with
  | some w => s.ok (if w.final || !d.units then d else d.commitDone)
  | none => s.ok d

/-! ### COMMIT_TICK -/

/-- Calibration mode ends at the first tick after the seal has closed: the output goes to normal mode (R551). -/
def Dev.forceModes (d : Dev) : Dev :=
  if !d.cal.sealed then d
  else d.each (d.pulses.keys.filter fun o => plsCal (d.pulse o).block) fun d o =>
    let b := (d.pulse o).block
    let d := d.updPulse o fun p => { p with block := pasteAt b 3 [BitVec.ofNat 8 (fieldAt b 3 1 / 2 * 2)] }
    d.postPulse 0x74 [⟨2, 1, o⟩]

/-- The accepted set governs the metrology units from this tick (R786); without AUX_SEQ the sequencer stops (R292). -/
def Dev.takeAccepted (d : Dev) : Dev :=
  let had := d.auxRefused
  let d := { d with host := { d.host with acceptedMet := d.host.accepted } }
  if !had && d.auxRefused then d.auxHalt else d

/-- At the first commit after an always-on power-on reset, BATTERY_LOST is recorded once (R735). -/
def Dev.batteryOwed (d : Dev) : Dev :=
  if d.tam.batOwed then
    let d := { d with tam := { d.tam with batOwed := false } }
    d.tamper 0x0C 0 d.now
  else d

/-- Outputs are driven from the first commit tick after config recall on: an output with ACTIVE_LOW goes to its inactive level,
high (R535). -/
def Dev.firstLevels (d : Dev) : Dev :=
  if !d.led.repairDue then d
  else d.each (d.pulses.keys.filter fun o => plsLow (d.pulse o).block) fun d o => d.emit (.pulse o false true)

/-- What a commit holds beyond the working values: the latch's acknowledgement, the log, the ceilings, the snapshots, and the
in-filter energies (R1111, R738, R682, R695, R569). -/
def Dev.gather (d : Dev) (seq : Nat) : Dev :=
  let d := if d.err.ackDue then
      ({ d with err := { d.err with ackDue := false } } : Dev).updErr fun b => { b with fatalAcked := true }
    else d
  let d := d.each d.accts.keys Dev.countUnmetered
  (d.batteryOwed.takeLog seq).raiseCeilings.storeInfilter

/-- COMMIT_TICK: every 10 ms of the metrology clock: changes take effect, the tariff engine evaluates every account, and the
ledger controller begins the commit (R35, R42, R564, R614). A write still under way ends first. -/
def execCommitTick (s : State) : Host.Outcome State Fault Refusal :=
  let d := s.dev
  if !d.units || d.pwr.tickSmps < 160 then s.ok d
  else
    let d := ({ d with pwr := { d.pwr with tickSmps := d.pwr.tickSmps % 160 } } : Dev).commitDone
    let seq := d.led.lastSeq + 1
    let d := d.oneClock fun d =>
      let d := d.secondEnd.takeAccepted.firstLevels.takeChanges seq
      (d.forceModes.tariffTick.reversalTick.lowVoltTick.umpireTick.secondTick).gather seq
    s.ok ((d.takeSnaps seq).beginCommit seq false d.now).startWrite

end Sys2Proof.Machine
end

