-- ==== Sys2Proof/Machine/Errors.lean ====
section
/-!
DEFINITION. Machine/Errors.lean: handling windows, ERROR_SUMMARY, ERROR_ACK and sealed recovery (chapters 18 and 23).
-/
namespace Sys2Proof.Machine

/-- SLOT_WINDOW_CLOSE: the window of the open slot has run, and the slot closes into one ERROR record (R1101). -/
def execSlotWindowClose (s : State) : Host.Outcome State Fault Refusal :=
  let d := s.dev
  match d.err.slot with
  | some t => if d.errRuns && t.err.cls < 3 && d.since t.since (errWindow t.err.cls) then s.ok (d.wake.closeSlot false) else s.ok d
  | none => s.ok d

/-- ERROR_SUMMARY: every 15 minutes in RUN (R1109, Table 23.4). -/
def execErrorSummary (s : State) : Host.Outcome State Fault Refusal :=
  let d := s.dev
  if d.errRuns && d.pwr.pstate = .run && d.quarterDue 0x70 then
    s.ok (((d.wake.quarter 0x70).postErrorNow { code := 0x0F04, cls := 0, detail := fieldsOf 4 0 4 4 (fun c => d.err.totals.get c 0) ++
      [⟨16, 1, d.err.unacked⟩, ⟨17, 1, d.err.queuePeak⟩, ⟨20, 4, d.err.unackList.headD 0⟩] } d.now 0 0))
  else s.ok d

/-- ERROR_ACK (0x00E0): the common checks, with the account named as the entry for ACTION 1 and 2 (Table 18.5). -/
def Dev.ackCommand (d : Dev) (x : Desc) (k : Dev → Dev) : Dev :=
  let action := x.arg 24 1
  let a := x.arg 26 1
  d.command x { opcode := 0x00E0, entry := if (action = 1 || action = 2) && a ≤ 64 then some a else none }
    (fun d _ => (d.acct a).shown) fun d _ => k d

/-- ERROR_ACK with ACTION 0: ERR_SEQ leaves the list, and the latch's record is acknowledged by the next commit (R1111); an
undefined ACTION completes with BAD_ARG. -/
def execErrorAck (x : Desc) (s : State) : Host.Outcome State Fault Refusal :=
  let d := s.dev
  if x.arg 24 1 = 1 || x.arg 24 1 = 2 then s.ok d
  else s.ok (d.ackCommand x fun d =>
    let n := x.arg 28 4
    if x.arg 24 1 ≠ 0 || n ≥ d.recs.seq.get (256 * 0x70 + 0xFF) 0 then d.done x.ref stBadArg
    else
      let d := { d with err := { d.err with
        unackList := d.err.unackList.erase n, ackDue := d.err.ackDue || d.err.latchSeq = some n } }
      d.done x.ref stOK)

/-- The checks of a sealed recovery, in their order: SEALED, STATE_MISMATCH, BUSY (Table 18.9); it is then pending until the next
commit tick (R1116). -/
def Dev.recoverWith (d : Dev) (x : Desc) (fits : Bool) (r : Recovery) : Dev :=
  let a := x.arg 26 1
  if d.cal.sealed then d.done x.ref stSealed
  else if !d.faultHold a || !fits then d.done x.ref stMismatch
  else if (d.acct a).recover.isSome then d.done x.ref stBusy
  else ({ d with accts := d.accts.set a { d.acct a with recover := some r } } : Dev).done x.ref stOK

/-- RECOVER_CANDIDATE: ERROR_ACK with ACTION 1, from a candidate of the account. -/
def execRecoverCandidate (x : Desc) (s : State) : Host.Outcome State Fault Refusal :=
  let d := s.dev
  if x.arg 24 1 ≠ 1 then s.ok d
  else s.ok (d.ackCommand x fun d =>
    let a := x.arg 26 1
    let n := x.arg 25 1
    if a > 64 || n > 3 then d.done x.ref stBadArg
    else d.recoverWith x ((d.led.work.recovery.get n {}).account = a) (.candidate n))

/-- RECOVER_FRESH: ERROR_ACK with ACTION 2: the fresh registers are to stand. -/
def execRecoverFresh (x : Desc) (s : State) : Host.Outcome State Fault Refusal :=
  let d := s.dev
  if x.arg 24 1 ≠ 2 then s.ok d
  else s.ok (d.ackCommand x fun d =>
    if x.arg 26 1 > 64 then d.done x.ref stBadArg else d.recoverWith x true .fresh)

end Sys2Proof.Machine
end

