-- ==== Sys2Proof/Machine/Rings.lean ====
section
/-!
DEFINITION. Machine/Rings.lean: rings, doorbells, fetching, the mover and the ring commands (chapters 17 and 18).
-/
namespace Sys2Proof.Machine

/-! ### Contexts -/

/-- CHECK: the CRC-8 of R157 over context bytes 0–31 as last read (R825). -/
def ctxCheck (bs : List Byte) : Nat := (crcBits 0x07#8 0xFF#8 ((bs.take 32).flatMap bitsMsb)).toNat

/-- The host-owned fields of a context (Table 17.1, bytes 0–31) taken into a ring. -/
def Ring.load (g : Ring) (bs : List Byte) : Ring :=
  { g with base := fieldAt bs 0 8, log2 := fieldAt bs 8 1, ty := fieldAt bs 9 1, cflags := fieldAt bs 10 1,
           weight := fieldAt bs 11 1, partner := fieldAt bs 12 2, accounts := fieldAt bs 16 8, types := fieldAt bs 24 4,
           check := ctxCheck bs, cached := true, stalled := false }

/-- A context is pinned in the cache (R824). -/
def Dev.pinned (d : Dev) (r : Nat) : Bool :=
  let g := d.ring r
  r ≤ 2 || d.isPreview g || g.state = .stopping || d.inflight r ≠ 0 || !g.held.isEmpty

/-- The rings whose contexts the cache holds. -/
def Dev.cachedRings (d : Dev) : List Nat := (d.eng.rings.cells.filter fun p => p.2.cached && p.2.state != .absent).map Prod.fst

/-- The cache has a free entry among its 1,024 (R824). -/
def Dev.cacheFree (d : Dev) : Bool := d.cachedRings.length < 1024

/-- Room is made in the cache of 1,024 contexts: an unpinned context is evicted, its fields written back; which one,
the spec leaves open, so a free value picks it (R823, R824). With every entry pinned there is no room. -/
def Dev.makeCacheRoom (d : Dev) : Dev :=
  if d.cacheFree then d
  else
    let cand := d.cachedRings.filter fun r => !d.pinned r
    match cand with
    | [] => d
    | r0 :: _ =>
      let (d, v) := d.draw
      let r := cand.getD (v % cand.length) r0
      (d.writeBack r).updRing r fun g => { g with cached := false }

/-- The checks of R829 on the context of ring `r` as read; `start` is RING_START, which does not judge the doorbell's
index. -/
def Dev.ctxOk (d : Dev) (r : Nat) (g : Ring) (bell : Nat) (start : Bool) : Bool :=
  let o := d.ringOwner r
  let p := d.ring g.partner
  let align := if g.entryBytes * g.size > 4096 then 4096 else g.entryBytes * g.size
  r < d.ringCount && o ≠ 0xFE && 4 ≤ g.log2 && g.log2 ≤ 16 && g.ty ≤ 3 && g.base % align = 0 &&
    (g.ty ≠ 0 || (g.partner < d.ringCount && p.ty = 1 && p.state != .absent && d.ringOwner g.partner = o)) &&
    (g.ty ≠ 2 || g.partner = 0xFFFF ||
      (g.partner < d.ringCount && p.ty = 3 && p.state != .absent && d.ringOwner g.partner = o)) &&
    (o = 0xFF || g.ty ≠ 2 || (g.accounts = 2 ^ o && !g.cflags.testBit 3)) && (start || bell = 0)

/-! ### Doorbells (R836–R840, R878, R882) -/

/-- INDEX lies outside the window of the ring (R837). -/
def Ring.outOfRange (g : Ring) (idx : Nat) : Bool :=
  if g.ty = 0 || g.ty = 3 then (idx + 2 ^ 32 - g.devIndex) % 2 ^ 32 > g.size
  else (g.devIndex + 2 ^ 32 - idx) % 2 ^ 32 > g.size

/-- A free-buffer entry is usable: LEN 256–65,536 in steps of 256, ADDR 256-byte aligned (R854, R855). -/
def RawBuf.ok (b : RawBuf) : Bool := b.addr % 256 = 0 && 256 ≤ b.len && b.len ≤ 65536 && b.len % 256 = 0

/-- The entries of a free-buffer ring that are written for their lap, in order from index `i` (R832). -/
def lapBufs (g : Ring) : Nat → List RawBuf → List RawBuf
  | _, [] => []
  | i, b :: t => if b.phase = g.phase i then b :: lapBufs g (i + 1) t else []

/-- A ring whose doorbell has been read: a failed read, a changed context and an index out of range put it into ERROR;
otherwise its host index and NO_IRQ are taken and what waits for it is served (R826, R831, R836–R840). A ring whose context finds no
free entry in the cache waits for one (R824). -/
def Dev.serveBell (d : Dev) (b : BellRead) : Dev :=
  let r := b.ring
  let d := if (d.ring r).cached then d else d.makeCacheRoom
  let g := d.ring r
  if (g.state ≠ .started && g.state ≠ .stopping) || (!g.cached && !d.cacheFree) then d
  else match b.bell with
    | none => d.ringFault r 2
    | some w =>
      if !g.cached && ctxCheck w.ctx ≠ g.check then d.ringFault r 3
      else if g.outOfRange w.index then d.ringFault r 1
      else
        let d := d.setRing r { g with
          hostIndex := wrap 32 w.index, noIrq := w.noIrq, cached := true, stalled := false, bellAt := d.up, short := false }
        if g.ty = 3 then
          let fresh := lapBufs g (g.bufIndex + g.bufs.length)
            (w.bufs.take ((w.index + 2 ^ 32 - (g.devIndex + g.bufs.length)) % 2 ^ 32))
          if fresh.all RawBuf.ok then
            d.updRing r fun g => { g with bufs := g.bufs ++ fresh.map fun x => ⟨x.addr, x.len, x.bufId⟩ }
          else d.ringFault r 1
        else if g.ty = 0 then d
        else d.serveFilled r

/-- KICK of a ring, a host access in any case (R105; R774, R778, R812, R840): ignored before negotiation, beyond the ring count, with SRIOV not
accepted on a VF, or while mastering is stopped; a VF's kick of another owner's ring is counted in KICK_REJECTED. -/
def Dev.kick (d : Dev) (f : Nat) (b : BellRead) : Dev :=
  let d := d.wake
  if !d.host.negotiated || b.ring ≥ d.ringCount then d
  else if f ≠ 0 && (!d.has 1 || !d.vfExists f) then d
  else if f ≠ 0 && d.ringOwner b.ring ≠ f - 1 then
    let x := d.fn f
    d.setFn f { x with kickRejected := sat32 (x.kickRejected + 1) }
  else if !d.serving || !d.masters f then d
  else d.serveBell b

/-- KICK. A write to KICK makes the LY64 read the named ring's doorbell and serve it. -/
def execKick (path : Path) (b : BellRead) (s : State) : Host.Outcome State Fault Refusal :=
  s.ok (match path with
    | .pcie f => if s.dev.barAlive f then s.dev.kick f b else s.dev
    | .twt => s.dev)

/-- SCAN_ALL: the doorbells of every started ring of the writing function are read (R778, R838). -/
def execScanAll (path : Path) (bs : List BellRead) (s : State) : Host.Outcome State Fault Refusal :=
  s.ok (match path with
    | .pcie f =>
      if !s.dev.barAlive f then s.dev
      else
      let d := s.dev.wake
      if !d.host.negotiated || !d.serving || !d.masters f || (f ≠ 0 && (!d.has 1 || !d.vfExists f)) then d
      else d.each bs fun d b => if fnOfOwner (d.ringOwner b.ring) = f then d.serveBell b else d
    | .twt => s.dev)

/-- SCAN_US: how often doorbells are scanned, in µs (Table 16.10). -/
def Dev.scanUs (d : Dev) : Nat := fieldAt d.host.groupBytes 32 2

/-- DOORBELL_SCAN: with DOORBELL_POLL accepted a scan falls due every SCAN_US, which wakes the fast domain. The doorbell pages of
blocks with a started COMMAND or FREE_BUFFER ring are read where mastering allows, and each such ring whose INDEX has changed is
served as if kicked, which is activity; a scan that finds no change is none (R83, R106, R801, R839). -/
def execDoorbellScan (bs : List BellRead) (s : State) : Host.Outcome State Fault Refusal :=
  let d := s.dev
  if d.serving && d.has 12 && d.since d.eng.scanAt (us d.scanUs) then
    let d := ({ d with eng := { d.eng with scanAt := d.up } } : Dev).rouse
    s.ok (d.each bs fun d b =>
      let g := d.ring b.ring
      let changed := match b.bell with | some w => wrap 32 w.index ≠ g.hostIndex | none => true
      if (g.ty = 0 || g.ty = 3) && g.state = .started && changed && d.masters (fnOfOwner (d.ringOwner b.ring)) then d.wake.serveBell b
      else d)
  else s.ok d

/-- Why the LY64 reads a doorbell of itself: records are held for the ring, 100 µs after the last read; an entry has found no room, or
the next would find none, 2 µs after it; a free-buffer ring has no buffer fetched (R838). -/
def Dev.bellDue (d : Dev) (r : Nat) : Bool :=
  let g := d.ring r
  let waits := !g.held.isEmpty || (r = 2 && !d.err.queue.isEmpty)
  if g.ty = 3 then g.bufs.isEmpty
  else if g.ty = 0 then false
  else (waits && d.since g.bellAt (us 100)) ||
    ((g.short || !d.roomForRec r || g.room < g.owed + 2) && d.since g.bellAt (us 2))

/-- HELD_RECHECK: the LY64 reads a ring's doorbell again of itself, every 100 µs while records are held, and where an entry lacks
room, at most once every 2 µs; held records, and for ring 2 the queued ERROR records, are posted as room has appeared. The read that a
record without room prompts comes ahead of that record (R838, R848, R1102; DESIGN CHOICE, assumption 144). -/
def execHeldRecheck (b : BellRead) (s : State) : Host.Outcome State Fault Refusal :=
  let d := s.dev
  if d.serving && d.masters (fnOfOwner (d.ringOwner b.ring)) && d.bellDue b.ring then s.ok (d.wake.serveBell b)
  else s.ok d

/-- CONTEXT_WRITEBACK: a started ring's device fields are written back when DEV_INDEX has changed (R823). -/
def execContextWriteback (r : Nat) (s : State) : Host.Outcome State Fault Refusal :=
  let d := s.dev
  let g := d.ring r
  if d.serving && g.state = .started && g.devIndex ≠ g.wbIndex && d.masters 0 then s.ok (d.writeBack r) else s.ok d

/-! ### Fetching (R841–R843) -/

/-- Descriptors in flight for tenant `t`, and for all tenants. -/
def Dev.tenantFlights (d : Dev) (t : Nat) : Nat := (d.eng.flights.filter fun f => d.ringOwner f.ring = t).length

/-- Another descriptor of ring `r` may be fetched: the limits of R841 and the completion slots of R842. -/
def Dev.mayFetch (d : Dev) (r : Nat) : Bool :=
  let g := d.ring r
  let o := d.ringOwner r
  let all := d.eng.flights.length
  let tenants := (d.eng.flights.filter fun f => d.ringOwner f.ring < 64).length
  let c := d.ring g.partner
  d.inflight r < min (g.size / 2) 256 && all < 16384 && (o ≥ 64 || (d.tenantFlights o < 1024 && tenants < 12288)) &&
    c.state = .started && 8 * (d.inflightAgainst g.partner + 1) ≤ c.room

/-- One descriptor is taken in flight; one with an undefined opcode completes with BAD_OPCODE, its TAG copied (R922). -/
def Dev.takeDesc (d : Dev) (r : Nat) (x : RawDesc) : Dev :=
  let g := d.ring r
  let d := d.setRing r { g with devIndex := wrap 32 (g.devIndex + 1) }
  let d := { d with eng := { d.eng with
    flights := d.eng.flights ++ [x.flight d.eng.fetchNo r], fetchNo := d.eng.fetchNo + 1 } }
  if opcodes.contains x.opcode then d else d.done ⟨.ring r, x.tag, x.irq⟩ stBadOpcode

/-- Descriptors from DEV_INDEX up to the doorbell's index, while the limits allow, at most `n`; one whose phase does
not match its lap stops the fetch (R841, R843). -/
def Dev.fetchLoop (d : Dev) (r : Nat) : Nat → List RawDesc → Dev
  | 0, _ => d
  | _, [] => d
  | n + 1, x :: t =>
    let g := d.ring r
    if g.state = .started && g.devIndex ≠ g.hostIndex && d.mayFetch r then
      if x.phase = g.phase g.devIndex then Dev.fetchLoop (d.takeDesc r x) r n t else d.setRing r { g with stalled := true }
    else d

/-- A command ring has work that a service turn can take (R841–R843). -/
def Dev.hasWork (d : Dev) (r : Nat) : Bool :=
  let g := d.ring r
  g.state = .started && g.ty = 0 && g.devIndex ≠ g.hostIndex && !g.stalled && d.masters (fnOfOwner (d.ringOwner r)) &&
    (r ≠ 0 || d.eng.bootLeft = 0) && d.mayFetch r

/-- The place of a ring in a service turn that starts from a tenant: supervisor rings first, then tenants in turn, by ring ID. -/
def Dev.turnPlace (d : Dev) (start r : Nat) : Nat :=
  let o := d.ringOwner r
  if o < 64 then 65536 * (1 + (o + 64 - start) % 64) + r else r

/-- The ring of a list that comes first in a turn, among those behind a place. -/
def Dev.firstInTurn (d : Dev) (start : Nat) (behind : Option Nat) (rs : List Nat) : Option Nat :=
  rs.foldl (fun best r =>
    if behind.any fun p => decide (d.turnPlace start r ≤ p) then best
    else match best with
      | none => some r
      | some b => if d.turnPlace start r < d.turnPlace start b then some r else best) none

/-- The ring served next, and the engine with its turn begun anew where the running turn has come to its end (R843). -/
def Dev.nextService (d : Dev) : RingEngine × Option Nat :=
  let e := d.eng
  let work := e.rings.keys.filter d.hasWork
  match d.firstInTurn e.turn e.turnAt work with
  | some r => (e, some r)
  | none =>
    let start := match e.turnFirst with | some t => (t + 1) % 64 | none => e.turn
    ({ e with turn := start, turnFirst := none, turnAt := none }, d.firstInTurn start none work)

/-- Ring `r` takes its place in the service turn. -/
def RingEngine.served (e : RingEngine) (owner place : Nat) : RingEngine :=
  { e with turnAt := some place, turnFirst := if owner < 64 && e.turnFirst.isNone then some owner else e.turnFirst }

/-- DESCRIPTOR_FETCH: descriptors read from a command ring arrive, up to WEIGHT of them in one service turn; a failed
read of them puts the ring into ERROR (R831, R841–R843, R910). A ring whose turn it is not is not fetched from. -/
def execDescriptorFetch (r : Nat) (xs : Option (List RawDesc)) (s : State) : Host.Outcome State Fault Refusal :=
  let d := s.dev
  let (e, q) := d.nextService
  if d.serving && !d.host.quiesce && q = some r then
    let d := ({ d with eng := e.served (d.ringOwner r) (d.turnPlace e.turn r) } : Dev).wake
    match xs with
    | none => s.ok (d.ringFault r 2)
    | some l => s.ok (d.fetchLoop r (max 1 (min 64 (d.ring r).weight)) l)
  else s.ok d

/-- COMPLETION_TIMEOUT: a memory read for a ring times out, and the ring enters ERROR with ERR = DMA (R831). -/
def execCompletionTimeout (r : Nat) (s : State) : Host.Outcome State Fault Refusal :=
  let d := s.dev
  let g := d.ring r
  if d.serving && (g.state = .started || g.state = .stopping) then s.ok (d.wake.ringFault r 2) else s.ok d

/-! ### The mover (R858–R863, R884) -/

/-- The device range of a transfer lies wholly inside one range of Table 17.10 with the access DIR needs. -/
def moverRangeOk (dir : Bool) (a n : Nat) : Bool :=
  if dir then (0x40000000 ≤ a && a + n ≤ 0x40020000) || (0x50000000 ≤ a && a + n ≤ 0x50040000)
  else 0x60000000 ≤ a && a + n ≤ 0x60010000

/-- MOVECTL.GO: a transfer starts, or fails at once moving nothing; a GO while a transfer runs is ignored (R859, R43,
R576). DIR and COUNT are as the write leaves them. -/
def Dev.moverGo (d : Dev) : Dev :=
  if d.host.mover.isSome then d
  else
    let n := d.host.moveCount.toNat
    let src := d.host.movesrc.toNat
    let dst := d.host.movedst.toNat
    let dev := if d.host.moveDir then src else dst
    let bad := n = 0 || n % 8 ≠ 0 || src % 8 ≠ 0 || dst % 8 ≠ 0 || !moverRangeOk d.host.moveDir dev n ||
      !d.masters 0 || (d.pwr.backstop && d.pwr.cause ≠ 1) || !d.units
    let d := { d with host := { d.host with moveDone := false, moveFail := bad } }
    if bad then d
    else ({ d with host := { d.host with mover := some ⟨d.host.moveDir, src, dst, n, 0⟩ } } : Dev).wake

/-- A write of the halves of MOVECTL: COUNT in the low half; DIR, GO and DROP in the high half (Table 16.8). -/
def Dev.writeMovectl (d : Dev) (w : RegVal) : Dev :=
  let run := d.host.mover.isSome
  let d := if w.lo && !run then { d with host := { d.host with moveCount := w.value.setWidth 32 } } else d
  let d := if w.hi && !run then { d with host := { d.host with moveDir := w.value.getLsbD 34 } } else d
  let d := if w.hi && w.value.getLsbD 33 then d.moverDrop else d
  if w.hi && w.value.getLsbD 32 then d.moverGo else d

/-- MOVECTL_GO: a write of MOVECTL with GO set. -/
def execMovectlGo (w : RegVal) (s : State) : Host.Outcome State Fault Refusal :=
  let d := s.dev
  if d.pfWrite w.path then s.stored (d.wake.writeMovectl { w with hi := true, value := w.value ||| (1#64 <<< 32) }) else s.stored d

/-- MOVECTL_DROP: the transfer in progress is discarded at once; MOVESRC, MOVEDST and COUNT then hold free values, and
so does the destination range (R862). -/
def execMovectlDrop (w : RegVal) (s : State) : Host.Outcome State Fault Refusal :=
  let d := s.dev
  if d.pfWrite w.path then s.stored (d.wake.writeMovectl { w with hi := true, value := w.value ||| (1#64 <<< 33) }) else s.stored d

/-- MOVE_DONE: bytes have moved. Of `data`, as read from host memory (DIR 0) or as long as what was written there
(DIR 1), the bytes moved stay moved; `okay` says whether every request succeeded (R860, R884). A word of the ledger
window found uncorrectable is named in `bad`, and handled as a scrubber finding (R576, R599). -/
def execMoveDone (data : List Byte) (okay : Bool) (bad : List ScrubFind) (s : State) :
    Host.Outcome State Fault Refusal :=
  let d := s.dev
  match d.host.mover.filter fun _ => d.units with
  | none => s.stored d
  | some m =>
    let d := d.wake
    let n := if okay then m.left else max m.moved (min m.left data.length)
    let d := if m.dir then
        let bytes := (List.range n).map fun i => d.windowByte (m.src + i)
        d.emit (.hostWrite m.dst bytes)
      else d.storeBytes m.dst (data.take n ++ List.replicate (n - data.length) 0#8)
    let d := { d with host := { d.host with
      mover := none, moveDone := okay, moveFail := !okay
      movesrc := BitVec.ofNat 64 (m.src + n), movedst := BitVec.ofNat 64 (m.dst + n)
      moveCount := BitVec.ofNat 32 (m.left - n) } }
    let d := if d.pwr.backstop then { d with pwr := { d.pwr with fastOn := false } } else d
    s.stored (d.each (if m.dir then bad else []) fun d x => d.ledgerFinding x 2)

/-! ### Ring commands (R819, R828–R830, R849, R901–R903) -/

/-- RING_ID of a descriptor. -/
def Desc.ringId (x : Desc) : Nat := x.arg 24 2

/-- RING_ADD (opcode 0x0010): the context, and after it the doorbell word, are read; a ring that passes R829 goes from
ABSENT to STOPPED with DEV_INDEX 0. -/
def execRingAdd (x : Desc) (s : State) : Host.Outcome State Fault Refusal :=
  s.ok (s.dev.command x { opcode := 0x0010, entry := some 0x47, hostOnly := true } (fun _ _ => 0) fun d _ =>
    let r := x.ringId
    if r ≤ 2 || r ≥ d.ringCount || d.ringOwner r = 0xFE then d.done x.ref stBadArg
    else d.withInput x fun bs =>
      let g := ({} : Ring).load bs
      if !d.ctxOk r g (fieldAt bs 32 4) false then d.done x.ref stBadArg
      else if (d.ring r).state ≠ .absent then d.done x.ref stMismatch
      else
        let d := d.makeCacheRoom
        let d := d.setRing r { g with noIrq := bitOf (fieldAt bs 36 1) 0, cached := d.cacheFree }
        ((d.ringState r .stopped).bump 0x47).done x.ref stOK)

/-- RING_DEL (0x0011): a STOPPED or ERROR ring that no other ring names as PARTNER becomes ABSENT (R830). -/
def execRingDel (x : Desc) (s : State) : Host.Outcome State Fault Refusal :=
  s.ok (s.dev.command x { opcode := 0x0011, entry := some 0x47, hostOnly := true } (fun _ _ => 0) fun d _ =>
    let r := x.ringId
    if r ≤ 2 || r ≥ d.ringCount then d.done x.ref stBadArg
    else if (d.ring r).state = .started || (d.ring r).state = .stopping || (d.ring r).state = .absent ||
        d.eng.rings.cells.any (fun p => p.1 ≠ r && p.2.state != .absent && p.2.partner = r && (p.2.ty = 0 || p.2.ty = 2))
      then d.done x.ref stMismatch
    else ((d.ringState r .absent).bump 0x47).done x.ref stOK)

/-- RING_STOP (0x0012): a started ring goes to STOPPING; it completes when it reaches STOPPED (R437, R849, R902). For
a free-buffer ring, buffers fetched and not taken are given up. -/
def execRingStop (x : Desc) (s : State) : Host.Outcome State Fault Refusal :=
  s.ok (s.dev.command x { opcode := 0x0012, entry := some 0x47, hostOnly := true } (fun _ _ => 0) fun d _ =>
    let r := x.ringId
    if r ≤ 2 || r ≥ d.ringCount then d.done x.ref stBadArg
    else if (d.ring r).state ≠ .started then d.done x.ref stMismatch
    else
      let d := d.updRing r fun g =>
        { g with dropped := if g.ty = 0 then g.dropped else wrap 16 (g.dropped + g.held.length), held := [], bufs := [] }
      let d := (d.ringState r .stopping).bump 0x47
      ({ d with eng := { d.eng with stops := d.eng.stops ++ [(r, x.ref)] } } : Dev).settle)

/-- RING_START (0x0013): the context is read again; a STOPPED ring that passes R829 starts with DEV_INDEX kept. A
tenant's ring with SRIOV not accepted completes with BAD_TENANT (R868). -/
def execRingStart (x : Desc) (s : State) : Host.Outcome State Fault Refusal :=
  s.ok (s.dev.command x { opcode := 0x0013, entry := some 0x47, hostOnly := true } (fun _ _ => 0) fun d _ =>
    let r := x.ringId
    if r ≤ 2 || r ≥ d.ringCount || d.ringOwner r = 0xFE then d.done x.ref stBadArg
    else d.withInput x fun bs =>
      let g := (d.ring r).load bs
      if d.ringOwner r < 64 && !d.has 1 then d.done x.ref stBadTenant
      else if !d.ctxOk r g 0 true then d.done x.ref stBadArg
      else if (d.ring r).state ≠ .stopped then d.done x.ref stMismatch
      else
        let was := (d.ring r).cached
        let d := if was then d else d.makeCacheRoom
        let d := ((d.setRing r { g with bufIndex := g.devIndex, cached := was || d.cacheFree }).ringState r .started).bump 0x47
        (d.drainOwed r d.eng.owedDone.length).done x.ref stOK)

/-- RING_QUERY (0x0014): the write-back of R823, then the block of Table 18.6. -/
def execRingQuery (x : Desc) (s : State) : Host.Outcome State Fault Refusal :=
  s.ok (s.dev.command x { opcode := 0x0014, hostOnly := true } (fun _ _ => 0) fun d _ =>
    let r := x.ringId
    if r ≥ d.ringCount || x.len < 48 then d.done x.ref stBadArg
    else
      let fs := d.deviceFields r
      let g := d.ring r
      let d := (d.writeBack r).output x (layout 48 (fs ++
        [⟨32, 4, (d.fn (fnOfOwner (d.ringOwner r))).kickRejected⟩, ⟨36, 1, b2n g.cached⟩, ⟨37, 1, b2n (d.pinned r)⟩]))
      d.doneWith x.ref (g.devIndex + 2 ^ 32 * stateCode g.state))

/-- RING_BLOCK_ASSIGN (0x0015): the block's doorbell page is zeroed and the block given to its owner (R819). -/
def execRingBlockAssign (x : Desc) (s : State) : Host.Outcome State Fault Refusal :=
  s.ok (s.dev.command x { opcode := 0x0015, entry := some 0x47, hostOnly := true } (fun _ _ => 0) fun d _ =>
    let b := x.arg 24 2
    let o := x.arg 26 1
    if b = 0 || 512 * b ≥ d.ringCount || (o ≥ 64 && o ≠ 0xFF) then d.done x.ref stBadArg
    else if o < 64 && (!d.has 1 || !d.vfExists (o + 1)) then d.done x.ref stBadTenant
    else if d.eng.rings.cells.any (fun p => p.1 / 512 = b && p.2.state != .absent) then d.done x.ref stMismatch
    else
      let d := d.emit (.hostZero (d.host.doorbase.toNat / 4096 * 4096 + 4096 * b) 4096)
      let d := { d with eng := { d.eng with blocks := d.eng.blocks.set b o } }
      (d.bump 0x47).done x.ref stOK)

/-- BUF_REASSIGN (0x0021): the buffer named is zeroed for its new owner (R857, R903). -/
def execBufReassign (x : Desc) (s : State) : Host.Outcome State Fault Refusal :=
  s.ok (s.dev.command x { opcode := 0x0021, anyTenant := true, hostOnly := true } (fun _ _ => 0) fun d _ =>
    if x.tenant < 64 && (!d.has 1 || !d.vfExists (x.tenant + 1)) then d.done x.ref stBadTenant
    else if x.addr % 256 ≠ 0 || x.len < 256 || x.len > 16777216 || x.len % 256 ≠ 0 then d.done x.ref stBadArg
    else (d.emit (.hostZero x.addr x.len)).done x.ref stOK)

/-! ### NOP and FENCE (R897, R900) -/

/-- NOP (0x0001) completes with OK and has no effect. -/
def execNop (x : Desc) (s : State) : Host.Outcome State Fault Refusal :=
  s.ok (s.dev.command x { opcode := 0x0001, tenantMay := true } (fun _ _ => 0) fun d _ =>
    d.done x.ref stOK)

/-- FENCE (0x0002) waits for the descriptors fetched before it from its ring and, with TICK, for the commit that
carries their changes; its RESULT is then that commit's SEQ (R900, R917). -/
def execFence (x : Desc) (s : State) : Host.Outcome State Fault Refusal :=
  s.ok (s.dev.command { x with fence := false } { opcode := 0x0002, tenantMay := true } (fun _ _ => 0) fun d _ =>
    let no := match d.eng.flights.find? fun f => f.ring = x.ref.ring && f.tag = x.tag && f.begun with
      | some f => f.no
      | none => d.eng.fetchNo
    ({ d with eng := { d.eng with
      fences := d.eng.fences ++ [⟨x.ref, x.ref.ring, no, bitOf (x.arg 24 1) 0, none⟩] } } : Dev).settle)

end Sys2Proof.Machine
end

