-- ==== Sys2Proof/Machine/HostPort.lean ====
section
/-!
DEFINITION. Machine/HostPort.lean: the twelve set-up registers, negotiation, interrupts, resets of the host side and
the link (chapter 16), and leaving Backstop (chapters 1, 23 and 24).
-/
namespace Sys2Proof.Machine

/-! ### CONTROL and negotiation (R771, R775, R783–R786, R796, R809, R810, R1112, R1113, R1133) -/

/-- The checks of Table 16.11 on the state at the GO; checks 5–7 only with HOSTMODE high (R784, R800). -/
def Dev.goPasses (d : Dev) : Bool :=
  let a := d.host.accept
  (a &&& ~~~d.features) = 0#64 && a.getLsbD 0 && d.host.enable && (!d.host.negotiated || d.quiesced) &&
    (!d.pwr.hostmode ||
      (d.tableBase ≠ 0 && 4 ≤ d.log2Rings && d.log2Rings ≤ 16 && (d.log2Rings ≤ 12 || a.getLsbD 13) &&
        d.host.doorbase.toNat / 4096 ≠ 0))

/-- A GO is judged: it starts a negotiation, or sets NEG_FAIL and the PF POWER cause and changes nothing else; one
written while a negotiation is in progress is ignored (R784). -/
def Dev.judgeGo (d : Dev) : Dev :=
  if d.host.negotiating.isSome then d
  else if d.goPasses then { d with host := { d.host with negotiating := some d.host.accept } }
  else ({ d with host := { d.host with negFail := true } } : Dev).occur 0 3

/-- SOFT_RESET: the host side is reset as Table 16.12 states and the LY64 enters Backstop with cause 0x01, keeping a cause 0x02 or
0x03 (R796, R53, R867); a cause 0x04 becomes 0x01 by R796, which R799 does not name (DEDUCED, assumption 117). -/
def Dev.softReset (d : Dev) (flr : Bool) : Dev :=
  let fatal := d.pwr.backstop && (d.pwr.cause = 2 || d.pwr.cause = 3)
  let running := d.host.mover.isSome
  let d := d.enterBackstop (if fatal then d.pwr.cause else 1) true
  let d := { d with pwr := { d.pwr with softSeen := true, checking := false } }
  let d := { d with host := { d.host with
    enable := false, quiesce := false, twtLock := if flr then false else d.host.twtLock
    negotiated := false, negFail := false, negotiating := none
    tablebase := 0#64, doorbase := 0#64, shadowBase := 0#64, movesrc := 0#64, movedst := 0#64, moveCount := 0#32, moveDir := false
    moveDone := false, moveFail := running, mover := none
    fns := d.host.fns.mapV fun x => { x with cause := 0#4, mask := 0xF#4, win := {} } } }
  d.clearBootCount

/-- The fields of CONTROL that a write of its halves leaves (Table 16.4). -/
def HostPort.controlWrite (h : HostPort) (w : RegVal) (hostmode : Bool) : HostPort :=
  { h with
    enable := if w.lo then w.value.getLsbD 0 else h.enable
    quiesce := if w.lo then w.value.getLsbD 2 else h.quiesce
    wakeHold := if w.lo then w.value.getLsbD 4 else h.wakeHold
    twtLock := if w.lo then w.value.getLsbD 5 && hostmode else h.twtLock
    dozeIdle := if w.hi then (w.value >>> 32).setWidth 32 else h.dozeIdle
    twtLast := w.path = Path.twt }

/-- The record of R775, and on the target port the PF's POWER cause. -/
@[noinline] def Dev.controlWritten (d : Dev) (p : Path) : Dev :=
  let d := d.postPower 0x17 [⟨1, 1, if p = Path.twt then 1 else 0⟩, ⟨8, 8, d.control⟩]
  if p = Path.twt then d.occur 0 3 else d

/-- The triggers of a write to CONTROL's low half: SOFT_RESET hides a GO of the same write (R809); a GO before READY is
held (R1133). -/
@[noinline] def Dev.controlTriggers (d : Dev) (w : RegVal) : Dev :=
  if w.lo && w.value.getLsbD 3 then d.softReset false
  else if w.lo && w.value.getLsbD 1 then
    (if d.pwr.step = .ready then d.judgeGo else { d with host := { d.host with goHeld := true } })
  else d

/-- A write of the halves of CONTROL (Table 16.4): fields, then the record of R775, then the triggers. A write over PCIe
or TWT ends DOZE (R139). -/
def Dev.writeControl (d : Dev) (w : RegVal) : Dev :=
  let d := d.wake
  let d := { d with host := d.host.controlWrite w d.pwr.hostmode }
  ((d.controlWritten w.path).masteringChanged).controlTriggers w

/-- GO: a write of CONTROL with GO set. -/
def execGo (w : RegVal) (s : State) : Host.Outcome State Fault Refusal :=
  let d := s.dev
  if d.regWrite w.path then s.stored (d.writeControl { w with lo := true, value := w.value ||| 2#64 }) else s.stored d

/-- SOFT_RESET: a write of CONTROL with SOFT_RESET set. -/
def execSoftReset (w : RegVal) (s : State) : Host.Outcome State Fault Refusal :=
  let d := s.dev
  if d.regWrite w.path then s.stored (d.writeControl { w with lo := true, value := w.value ||| 8#64 }) else s.stored d

/-- A write of CAUSE of function `f` (R780, R781, R811): the low half clears the bits written as 1 (FAULT stays 1 while
an error waits in the queue), the high half sets MASK; a mask set ends a window in progress, for its cause then sends no message, and
a mask cleared over a cause that is 1 opens one. -/
def Dev.writeCause (d : Dev) (f : Nat) (w : RegVal) : Dev :=
  let x := d.fn f
  let keep : BitVec 4 := if f = 0 && !d.err.queue.isEmpty then 4#4 else 0#4
  let clr : BitVec 4 := if w.lo then w.value.setWidth 4 &&& ~~~keep else 0#4
  let cause := x.cause &&& ~~~clr
  let mask : BitVec 4 := if w.hi then (w.value >>> 32).setWidth 4 else x.mask
  let win := (List.range 4).foldl (fun t v => if clr.getLsbD v then t.set v ({} : Win) else t) x.win
  let d := d.setFn f { x with cause := cause, mask := mask, win := win }
  d.each (List.range 4) fun d v =>
    if !x.mask.getLsbD v && mask.getLsbD v then
      (if (win.get v {}).opened then d.setFn f { d.fn f with win := (d.fn f).win.set v ({} : Win) } else d)
    else if x.mask.getLsbD v && !mask.getLsbD v && cause.getLsbD v && !(win.get v {}).sent then d.openWindow f v 1 else d

/-- CAUSE_W1C: a write to CAUSE clears cause bits and changes masks. -/
def execCauseW1c (w : RegVal) (s : State) : Host.Outcome State Fault Refusal :=
  let d := s.dev
  match w.path with
  | .pcie f => if d.barAlive f then s.ok (d.wake.writeCause f w) else s.ok d
  | .twt => if d.regWrite .twt then s.ok (d.writeCause 0 w) else s.ok d

/-- The halves of a register replaced by a write. -/
def RegVal.into (w : RegVal) (old : W64) : W64 :=
  let m : W64 := (if w.lo then 0xFFFFFFFF#64 else 0#64) ||| (if w.hi then 0xFFFFFFFF00000000#64 else 0#64)
  (old &&& ~~~m) ||| (w.value &&& m)

/-- REGISTER_WRITE: a naturally aligned 4- or 8-byte write at an offset of a register BAR or of the target port's map
(R768, R769, R773, R776, R777, R985–R991). `wellFormed` is false for a write of another size, alignment or byte
enables, or with poisoned data, which is discarded. Reserved bits keep 0 (R12). -/
def Dev.registerWrite (d : Dev) (off : Nat) (w : RegVal) : Dev :=
  match w.path, off with
  | .pcie 0, 0x10 | .twt, 0x10 => { d with host := { d.host with accept := w.into d.host.accept } }
  | .pcie 0, 0x18 | .twt, 0x18 => d.writeControl w
  | .twt, 0x28 => d.writeCause 0 w
  | .pcie f, 0x28 => d.writeCause f w
  | .pcie 0, 0x30 =>
    if d.host.negotiated then d
    else { d with host := { d.host with tablebase := w.into d.host.tablebase &&& 0xFFFFFFFFFFFFF01F#64 } }
  | .pcie 0, 0x38 =>
    if d.host.negotiated then d
    else { d with host := { d.host with doorbase := w.into d.host.doorbase &&& 0xFFFFFFFFFFFFF000#64 } }
  | .pcie 0, 0x48 => if d.host.mover.isSome then d else { d with host := { d.host with movesrc := w.into d.host.movesrc } }
  | .pcie 0, 0x50 => if d.host.mover.isSome then d else { d with host := { d.host with movedst := w.into d.host.movedst } }
  | .pcie 0, 0x58 => d.writeMovectl w
  | _, _ => d

/-- REGISTER_WRITE. Over PCIe the access ends DOZE (R105, R770). -/
def execRegisterWrite (off : Nat) (wellFormed : Bool) (w : RegVal) (s : State) : Host.Outcome State Fault Refusal :=
  let d := s.dev
  match w.path with
  | .pcie f =>
    if d.barAlive f then
      s.stored (if wellFormed then d.wake.registerWrite off w else d.wake)
    else s.stored d
  | .twt => if d.regWrite .twt && wellFormed then s.stored (d.registerWrite off w) else s.stored d

/-- An item of function `f`'s configuration space as read; where the manual gives none, as the PCI Express Base Specification has it
(Tables 16.1 and 16.2, R764, R789). -/
def Dev.configItem (d : Dev) (f : Nat) (i : CfgItem) : Nat :=
  match i with
  | .vendorId | .subVendorId => 0x1E5C
  | .deviceId => if f = 0 then 0x6400 else 0x6401
  | .vfDeviceId => 0x6401
  | .revisionId => 0xA1
  | .classCode => 0x118000
  | .subsystemId => 0x0064
  | .headerType | .interruptPin | .bar45 => 0
  | .msixTableSize => 4
  | .noSoftReset => 1
  | .serialNumber => Config.deviceId
  | .initialVfs | .totalVfs => 64
  | .numVfs => d.host.numVfs
  | .pageSizes => 1
  | .firstVfOffset => if d.host.ari then 1 else 8
  | .vfStride => 1
  | .maxPayload => 256
  | .l1ExitLatency => 8
  | .commonModeRestore => 30
  | .powerOnTime => 70
  | .other off => Config.configWord f off

/-- Bytes of the transfer in progress have moved since the registers were last read, how many is open (R860). -/
def Dev.moverLook (d : Dev) : Dev :=
  match d.host.mover with
  | none => d
  | some m =>
    let (d, n) := d.draw
    { d with host := { d.host with mover := some { m with moved := m.moved + n % (m.left - m.moved + 1) } } }

/-- REGISTER_READ: a register read, or another host access, over PCIe: in DOZE it moves the LY64 to RUN; the value
returned has no side effect (R105, R768–R770). Configuration requests receive retry status until step 5 (R767), and with ASPM L1 and
LTR enabled there DOZE is open and LTR messages are sent (R788, R789). -/
def execRegisterRead (f : Nat) (a : HostAccess) (s : State) : Host.Outcome State Fault Refusal :=
  let d := s.dev
  if !d.pwr.hostmode || !d.awake || !d.pwr.metClock || !d.host.linkUp || !(f = 0 || d.vfExists f) then s.ok d
  else match a with
    | .read off =>
      if !d.barAlive f then s.ok d
      else
        let d := if 0x48 ≤ off && f = 0 then d.wake.moverLook else d.wake
        s.ok (d.emit (.readData (BitVec.ofNat 64 (d.regOf f (off / 8 * 8)))))
    | .config i => s.ok (if d.pwr.step = .ready then d.wake.emit (.configAnswer f i (d.configItem f i)) else d.emit .retryStatus)
    | .linkControl l1 ltr =>
      s.ok (if d.pwr.step = .ready then
          (if f = 0 then { d.wake with host := { d.wake.host with aspmL1 := l1, ltrEn := ltr } } else d.wake)
        else d.emit .retryStatus)

/-! ### MSI-X (R780) -/

/-- MSIX_HOLDOFF: a vector's HOLDOFF has expired in its window, and its message is sent. -/
def execMsixHoldoff (f v : Nat) (s : State) : Host.Outcome State Fault Refusal :=
  let d := s.dev
  let w := (d.fn f).win.get v {}
  if d.units && w.opened && d.since w.since (us (d.holdoff f v)) then s.ok (d.wake.sendMsix f v) else s.ok d

/-- MSIX_UNMASK: MSI-X Enable, the function mask and the vector masks of a function are written; messages they blocked
and now allow are sent. -/
def execMsixUnmask (f : Nat) (en fmask : Bool) (vmask : BitVec 4) (s : State) : Host.Outcome State Fault Refusal :=
  let d := s.dev
  if d.hostAlive && (f = 0 || d.vfExists f) then
    let d := d.wake.setFn f { d.fn f with msixEn := en, fmask := fmask, vmask := vmask }
    s.ok (d.each (List.range 4) fun d v => if ((d.fn f).win.get v {}).pending then d.sendMsix f v else d)
  else s.ok d

/-! ### The link, D-states and functions (R791–R798, R801–R803, R815) -/

/-- The configuration space returns to its reset values (R795, R797). -/
def Dev.resetConfigSpace (d : Dev) : Dev :=
  { d with host := { d.host with
    numVfs := 0, vfEnable := false, ari := false, d3hot := false, aspmL1 := false, ltrEn := false
    fns := d.host.fns.mapV fun x => { x with
      bme := false, msixEn := false, fmask := false, vmask := 0xF#4
      win := x.win.mapV fun w => { w with pending := false } } } }

/-- HOST_PORT_DOWN: PERST_N is asserted or the data link layer goes down; the configuration space resets, and the
twelve registers and every ring stay (R795). It counts while the final commit of a HOLD runs as well (R72). -/
def execHostPortDown (s : State) : Host.Outcome State Fault Refusal :=
  let d := s.dev
  if d.pwr.hostmode && d.metRuns && d.host.linkUp then
    s.ok ({ d with host := { d.host with linkUp := false, downSince := d.up } } : Dev).resetConfigSpace
  else s.ok d

/-- HOST_PORT_FAIL: the host port has been down for 1 ms, and Backstop with cause 0x04 is entered, in HOLD as well while its final
commit runs; a Backstop in progress keeps its cause (R51, R72, R794, R799). -/
def execHostPortFail (s : State) : Host.Outcome State Fault Refusal :=
  let d := s.dev
  if d.pwr.hostmode && d.metRuns && d.pwr.step = .ready && !d.host.linkUp && d.since d.host.downSince (ms 1) && !d.pwr.backstop then
    s.ok (d.enterBackstop 4 false)
  else s.ok d

/-- HOST_PORT_UP: the link is up, in RUN or DOZE, where the host port domain runs (R30, R110). -/
def execHostPortUp (s : State) : Host.Outcome State Fault Refusal :=
  let d := s.dev
  if d.pwr.hostmode && d.awake && d.pwr.metClock then s.ok { d with host := { d.host with linkUp := true } } else s.ok d

/-- PF_FLR acts as SOFT_RESET and resets every function's configuration space (R797). -/
def execPfFlr (s : State) : Host.Outcome State Fault Refusal :=
  let d := s.dev
  if d.hostAlive then s.stored (d.wake.softReset true).resetConfigSpace else s.stored d

/-- The host side of tenant `t` is reset (R798, R885, R920): its rings stop, its flights are abandoned, its held
records are discarded, and its VF's CAUSE and MSI-X state reset; follow-ups owed are still posted. -/
def Dev.resetVf (d : Dev) (t : Nat) : Dev :=
  let mine := (d.eng.rings.cells.filter fun p => d.ringOwner p.1 = t &&
    (p.2.state = .started || p.2.state = .stopping)).map Prod.fst
  let own := fun (r : Nat) => d.ringOwner r = t
  let d := { d with eng := { d.eng with
    flights := d.eng.flights.filter fun f => !own f.ring
    fences := d.eng.fences.filter fun f => !own f.ring
    owedDone := d.eng.owedDone.filter fun o => !own o.cmd.ring
    behind := d.eng.behind.filter fun b => match b with | .record r x => !own r || x.ty = 2 || x.ty = 3 | .completion o => !own o.cmd.ring } }
  let d := d.abandonOf own
  let d := d.each mine fun d r =>
    let g := d.ring r
    let d := d.setRing r { g with dropped := wrap 16 (g.dropped + g.held.length), held := [] }
    d.ringState r (if g.owed = 0 then .stopped else .stopping)
  let x := d.fn (t + 1)
  let d := d.setFn (t + 1) { x with cause := 0#4, mask := 0xF#4, win := {}, msixEn := false, fmask := false, vmask := 0xF#4 }
  ({ d with host := { d.host with flrWait := d.host.flrWait ++ [t] } } : Dev).settle

/-- VF_FLR: a VF function-level reset of tenant `t`'s VF. -/
def execVfFlr (t : Fin 64) (s : State) : Host.Outcome State Fault Refusal :=
  let d := s.dev
  if d.hostAlive && d.vfExists (t.val + 1) then s.ok (d.wake.resetVf t.val) else s.ok d

/-- VF_FLR_DONE: every follow-up owed on the tenant's rings has been posted; its stopping rings become STOPPED. -/
def execVfFlrDone (t : Fin 64) (s : State) : Host.Outcome State Fault Refusal :=
  let d := s.dev
  if d.host.flrWait.contains t.val then
    let rs := (d.eng.rings.cells.filter fun p => d.ringOwner p.1 = t.val && p.2.state = .stopping).map Prod.fst
    if rs.all fun r => (d.ring r).owed = 0 then
      let d := d.each rs fun d r => d.ringState r .stopped
      s.ok ({ d with host := { d.host with flrWait := d.host.flrWait.erase t.val } } : Dev).settle
    else s.ok d
  else s.ok d

/-- VF_ENABLE: VF Enable, NumVFs and ARI Capable Hierarchy are written; VFs 1 to n exist for tenants 0 to n−1, and a VF removed is
reset (R764, R765, R798). -/
def execVfEnable (n : Fin 65) (on ari : Bool) (s : State) : Host.Outcome State Fault Refusal :=
  let d := s.dev
  if d.hostAlive then
    let before := if d.host.vfEnable then d.host.numVfs else 0
    let after := if on then n.val else 0
    let d := d.wake
    let d := { d with host := { d.host with numVfs := n.val, vfEnable := on, ari := ari } }
    s.ok (d.each (span after (before - after)) fun d t => d.resetVf t)
  else s.ok d

/-- BUS_MASTER_ENABLE of function `f` changes: mastering stops, or resumes with owed follow-ups first (R801, R803). -/
def execBusMasterEnable (f : Nat) (on : Bool) (s : State) : Host.Outcome State Fault Refusal :=
  let d := s.dev
  if d.hostAlive && (f = 0 || d.vfExists f) then
    s.ok (d.wake.setFn f { d.fn f with bme := on }).masteringChanged
  else s.ok d

/-- D3HOT: the PF moves between D0 and D3hot (R791, R801). -/
def execD3hot (on : Bool) (s : State) : Host.Outcome State Fault Refusal :=
  let d := s.dev
  if d.hostAlive then s.ok (({ d with host := { d.host with d3hot := on } } : Dev).wake).masteringChanged else s.ok d

/-! ### Negotiation ends (R54, R55, R785–R787, R825, R864–R868, R1109) -/

/-- A renegotiation drops every cached context; those of rings 0–2 are loaded again (R787). -/
def Dev.dropContexts (d : Dev) : Dev :=
  { d with eng := { d.eng with rings := d.eng.rings.mapV fun g => { g with cached := false } } }

/-- The feature change a negotiation brings, as the host side sees it (R785–R787, R868); margin passes count from the first
negotiation (R595). -/
def Dev.takeAccept (d : Dev) (a : W64) : Dev :=
  let d := { d with host := { d.host with
    negotiating := none, negFail := false, negotiated := true, accepted := a }
                    store := { d.store with firstNeg := some (d.store.firstNeg.getD d.pwr.runTicks) } }
  let d := d.bump 0x47
  if a.getLsbD 1 then d
  else
    let rs := (d.eng.rings.cells.filter fun p => d.ringOwner p.1 < 64 &&
      (p.2.state = .started || p.2.state = .stopping)).map Prod.fst
    d.each rs fun d r => (d.discardHeld r).ringState r .stopped

/-- The ring shadow is taken out of the general pool where R825 asks for it. -/
def Dev.takeShadow (d : Dev) (fresh : Bool) : Dev :=
  if fresh && (d.eng.shadowBlocks = 0 || d.host.shadowBase.toNat / 4096 ≠ d.host.tablebase.toNat / 4096) then
    { d with eng := { d.eng with shadowBlocks := (8 * d.ringCount + 2047) / 2048 }
             host := { d.host with shadowBase := d.host.tablebase } }
  else d

/-- Rings 0–2 are loaded, checked under R829 and R865, and started; one that fails goes to ERROR with ERR = FIXED.
`ctx` gives each context's bytes 0–31 as read. -/
def Dev.startFixed (d : Dev) (ctx : List HostRead) : Dev :=
  let load (i : Nat) : Ring := match ctx.getD i .failed with
    | .ok bs => (d.ring i).load bs
    | .failed => d.ring i
  let read (i : Nat) : Bool := match ctx.getD i .failed with | .ok _ => true | .failed => false
  let sized (g : Ring) : Bool :=
    4 ≤ g.log2 && g.log2 ≤ 16 && g.base % (if g.entryBytes * g.size > 4096 then 4096 else g.entryBytes * g.size) = 0
  let ok (i : Nat) : Bool := read i && sized (load i) &&
    (match i with | 0 => (load 0).ty = 0 && (load 0).partner = 1 | 1 => (load 1).ty = 1 | _ => (load 2).ty = 4)
  d.each [1, 2, 0] fun d i =>
    let g := d.ring i
    let keep := load i
    let h := { keep with devIndex := g.devIndex, hostIndex := g.hostIndex, dropped := g.dropped, held := g.held }
    if ok i then (d.setRing i { h with err := 0 }).ringState i .started
    else if read i then (d.setRing i h).ringFault i 5 else d.ringFault i 2

/-- What a negotiation posts first when it ends Backstop or follows power-up: BACKSTOP_END, the owed POWER records, the
tamper catch-up, and the error catch-up (R54, R744, R945, R1109). The harmonic window that runs, or the first to open, is
INCOMPLETE, and one that closed in Backstop is not computed (R55). -/
def Dev.endBackstop (d : Dev) : Dev :=
  let cause := d.pwr.cause
  let since := d.pwr.backSince
  let d := { d with pwr := { d.pwr with
    backstop := false, softSeen := false, checking := false, cyclesSinceBackstop := 0, failedLocks := 0 }
                    pq := { d.pq with harm := { d.pq.harm with
    closed := none, win := d.pq.harm.win.map fun (w : HarmWin) => { w with incomplete := true }, incomplete := d.pq.harm.win.isNone } } }
  let d := d.wake
  let d := d.postPower 0x01 [⟨1, 1, cause⟩, ⟨8, 8, (timeDiff d.now since).toNat⟩]
  let owed := d.pwr.owed
  let d := { d with pwr := { d.pwr with owed := [] } }
  let d := d.each owed fun d o => d.post { ty := 0x7F, epoch := d.epoch 0x47, time := o.time, pay := ⟨0, 1, o.event⟩ :: o.fields }
  let d := d.tamperCatchUp
  let d := d.errorCatchUp.lineRestart
  if cause = 4 then d.raise { code := 0x0603, cls := 1, detail := [⟨0, 2, 0xFFFF⟩,
    ⟨12, 8, (timeDiff d.now since).toNat⟩] } else d

/-- The boot image area as a negotiation finds it: where a transfer is still writing, undefined (R884). -/
def Dev.bootFound (d : Dev) (m : List Host.Cell) : Dev × List Host.Cell :=
  match d.host.mover with
  | some v =>
    if v.dir then (d, m)
    else
      let d := d.freeRange v.dst v.left
      (d, storeCells d.stores m)
  | none => (d, m)

/-- The boot image in `m` runs: its descriptors are taken in flight ahead of ring 0, in order; above 2,047 none runs and one
completion says so; COUNT becomes 0 (R864, R884, R1134). -/
def Dev.runBootImage (d : Dev) (m : List Host.Cell) : Dev :=
  let (d, m) := d.bootFound m
  let n := fieldAt (loadBytes m 0x60000000 4) 0 4
  let d := d.clearBootCount
  if n = 0 then d
  else if n > 2047 then d.done ⟨.boot, 0xFFFFFFFF, false⟩ stBadArg
  else
    let d := { d with eng := { d.eng with bootLeft := n } }
    d.each (List.range n) fun d i =>
      let bs := loadBytes m (0x60000020 + 32 * i) 32
      let op := fieldAt bs 0 2
      let tag := fieldAt bs 4 4
      let d := { d with eng := { d.eng with
        flights := d.eng.flights ++ [RawDesc.flight ⟨true, op, tag, false, fieldAt bs 3 1, fieldAt bs 24 8⟩ d.eng.fetchNo 0], fetchNo := d.eng.fetchNo + 1 } }
      if opcodes.contains op then d else d.done ⟨.boot, tag, bitOf (fieldAt bs 2 1) 2⟩ stBadOpcode

/-- Backstop ends now if its cause allows it after a negotiation (Table 1.4, R74, R1112, R1113): at once for cause 0x01, and for 0x04
with the link up; for 0x02 and 0x03 only after a SOFT_RESET, when a restart check begins. A negotiation that succeeds in a cause
0x04 Backstop while the link is down does not end it, nor does the link's return alone (DEDUCED, assumption 117). -/
def Dev.afterNegotiation (d : Dev) : Dev :=
  if !d.pwr.backstop then d
  else if d.pwr.cause = 2 || d.pwr.cause = 3 then
    if d.pwr.softSeen then { d with pwr := { d.pwr with checking := true } } else d
  else if d.pwr.cause = 4 && !d.host.linkUp then d
  else d.endBackstop

/-- NEGOTIATION_COMPLETE: the negotiation in progress ends. `ctx` is what the reads of the contexts of rings 0–2
returned. -/
def execNegotiationComplete (ctx : List HostRead) (s : State) : Host.Outcome State Fault Refusal :=
  let d := s.dev
  match d.host.negotiating with
  | none => s.stored d
  | some a =>
    let fresh := !d.host.negotiated
    let d := (d.takeAccept a).wake
    let d := if fresh then d else d.dropContexts
    let d := if d.pwr.hostmode then (d.takeShadow fresh).startFixed ctx else d
    let d := if d.pwr.hostmode then
        d.each (d.eng.rings.cells.filter fun p => p.2.state != .absent && p.1 > 2) fun d p => d.writeBack p.1
      else d
    let d := d.afterNegotiation
    let d := if d.pwr.hostmode && !d.pwr.backstop then d.runBootImage s.boot else d
    s.stored d.lineAutoJoin

/-- RESTART_CHECK: the restart check of a fatal Backstop runs; `pllOk` and `logicOk` say whether 3 test wakes locked
and the built-in test passed. When every check that applies passes, Backstop ends (R1113, Table 23.6). -/
def execRestartCheck (pllOk logicOk : Bool) (s : State) : Host.Outcome State Fault Refusal :=
  let d := s.dev
  if !(d.pwr.backstop && d.pwr.checking && d.host.negotiated && d.units) then s.stored d
  else
    let code := d.led.work.errors.fatalCode
    let needV := d.pwr.cause = 2 || code = 0x0405
    let needP := d.pwr.cause = 3 || code = 0x0E01
    let needL := d.pwr.cause = 3 || code = 0x0E02
    let vOk := d.volt.healthA.good || d.volt.healthB.good
    if (!needV || vOk) && (!needP || pllOk) && (!needL || logicOk) then
      let d := { d with pwr := { d.pwr with checking := false } }
      let d := if needL then { d with eng := { d.eng with quarantined := 0 } } else d
      let d := d.endBackstop
      s.stored (if d.pwr.hostmode then d.runBootImage s.boot else d)
    else s.stored d

end Sys2Proof.Machine
end

