-- ==== Sys2Proof/Machine/Keys.lean ====
section
/-!
DEFINITION. Machine/Keys.lean: random numbers, key loading and committing, signed snapshots, and Efevo packages (chapter 14).
-/
namespace Sys2Proof.Machine

/-! ### Random numbers (R697–R701, R727) -/

/-- 24 h of RUN in RTC ticks. -/
def reseedTicks : Nat := 86400 * 32768

/-- The next reseed is due. -/
def Dev.reseedDue (d : Dev) : Bool := d.keys.requests ≥ 65536 || d.pwr.runTicks ≥ d.keys.seededAt + reseedTicks

/-- The DRBG can generate (R701, R1095). -/
def Dev.drbgReady (d : Dev) : Bool := d.keys.seeded && !d.keys.drbgFailed && !d.reseedDue

/-- One generate request, and the number its use takes from it. -/
def Dev.drbgDraw (d : Dev) : Dev × Nat :=
  let (g, out) := d.keys.drbg.generate
  ({ d with keys := { d.keys with drbg := g, requests := d.keys.requests + 1 } }, Config.drawnValue out)

/-- A nonzero 32-bit seed: a draw of zero is drawn again (R727). -/
def seedOf (n : Nat) : Nat := 1 + n % (2 ^ 32 - 1)

/-- The first time the DRBG generates after power-up, seeds for loops 2 and 3 are drawn; they take effect at the next window
(R727). -/
def Dev.drawSeeds (d : Dev) : Dev :=
  if d.keys.seedsDrawn then d
  else
    let (d, a) := d.drbgDraw
    let (d, b) := d.drbgDraw
    { d with keys := { d.keys with seedsDrawn := true }, tam := { d.tam with newSeeds := some (seedOf a, seedOf b) } }

/-- A health test fails: the output in progress is discarded, the failure is posted and the source restarts; the third consecutive
restart that fails its start test leaves the TRNG failed (R700). -/
def Dev.noiseFailed (d : Dev) (test : Nat) : Dev :=
  let n := if d.keys.restarted then d.keys.restarts + 1 else 0
  let fs := [⟨0, 1, 0xFF⟩, ⟨3, 1, test⟩, (⟨16, 1, n⟩ : Fld)]
  let d := ({ d with keys := { d.keys with noise := {}, restarted := true, restarts := n } } : Dev).raise
    { code := 0x0503, cls := 1, detail := fs }
  if n < 3 then d else ({ d with keys := { d.keys with trngFailed := true } } : Dev).raise { code := 0x0504, cls := 1, detail := fs }

/-- Raw bits come from the noise source, each tested, until they give a conditioned output or end (R697). A restart has succeeded when
its start test is over. -/
def Dev.takeNoise (d : Dev) : List Bool → Dev × Option (List Byte)
  | [] => (d, none)
  | b :: t =>
    if d.keys.trngFailed then (d, none)
    else match d.keys.noise.bit b with
      | (n, .more) =>
        let on := n.discard ≠ 0
        Dev.takeNoise { d with keys := { d.keys with
          noise := n, restarted := d.keys.restarted && on, restarts := if on then d.keys.restarts else 0 } } t
      | (_, .failed test) => Dev.takeNoise (d.noiseFailed test) t
      | (_, .output bytes) => ({ d with keys := { d.keys with noise := {} } }, some bytes)

/-- Raw bits of the noise source, eight to a byte as they came, first bit most significant, lead to a seeding: `seed` takes the 256
conditioned bits (R698, R727). Too few of them leave the source running. -/
def Dev.seedFrom (d : Dev) (raw : List Byte) (seed : Drbg → List Byte → Drbg) : Dev :=
  match d.takeNoise (raw.flatMap bitsMsb) with
  | (d, none) => d
  | (d, some bytes) => ({ d with keys := { d.keys with
      drbg := seed d.keys.drbg bytes, seeded := true, requests := 0, seededAt := d.pwr.runTicks } } : Dev).drawSeeds

/-- The TRNG may be asked: the crypto engine is on (R706) and neither has failed for good. -/
def Dev.trngOn (d : Dev) : Bool := d.units && !d.pwr.backstop && !d.keys.trngFailed && !d.keys.drbgFailed

/-- DRBG_SEED: the first seeding after power-up, from raw bits of the noise source. -/
def execDrbgSeed (raw : List Byte) (s : State) : Host.Outcome State Fault Refusal :=
  let d := s.dev
  s.ok (if d.trngOn && !d.keys.seeded then d.wake.seedFrom raw fun _ e => Drbg.instantiate e else d)

/-- DRBG_RESEED: 65,536 generate requests, or 24 h of RUN, since the last seeding. -/
def execDrbgReseed (raw : List Byte) (s : State) : Host.Outcome State Fault Refusal :=
  let d := s.dev
  s.ok (if d.trngOn && d.keys.seeded && d.reseedDue then d.wake.seedFrom raw Drbg.reseed else d)

/-! ### Signed snapshots (R694–R696) -/

/-- SNAPSHOT (0x0051). -/
def execSnapshot (x : Desc) (s : State) : Host.Outcome State Fault Refusal :=
  s.ok (s.dev.command x { opcode := 0x0051, tenantMay := true, feature := some 7, account := true }
    (fun d a => (d.acct a).shown) fun d a =>
      if x.len < 288 then d.done x.ref stBadArg
      else if d.keys.snaps.length ≥ 4 then d.done x.ref stBusy
      else if d.keys.shaFailed || d.keys.ecdsaFailed then d.doneInternal x 0x0051
      else if !d.drbgReady then d.done x.ref stNotReady
      else { d with keys := { d.keys with snaps := d.keys.snaps ++ [{ cmd := x, account := a }] } })

/-- The record of a snapshot (Table 19.13). -/
def Dev.snapRec (d : Dev) (w : SnapWait) (bytes : List Byte) : RecBody :=
  { ty := 0x60, tenant := tenantByte w.account, epoch := fieldAt bytes 44 1, time := w.time
    pay := [⟨0, 4, w.cmd.tag⟩, ⟨4, 4, fieldAt bytes 4 4⟩, ⟨8, 8, w.commit⟩, ⟨16, 1, w.account⟩, ⟨17, 1, fieldAt bytes 3 1⟩]
    flags := if d.faultHold w.account then flagFaultHold else 0 }

/-- SNAPSHOT_SIGNED: the commit that captured the oldest snapshot is written in both copies; the snapshot is signed with a fresh
value from the DRBG and written, and its record and completion are posted (R695, R696, R946). -/
def execSnapshotSigned (s : State) : Host.Outcome State Fault Refusal :=
  let d := s.dev
  match d.keys.snaps with
  | [] => s.ok d
  | w :: t =>
    match w.taken with
    | none => s.ok d
    | some bytes =>
      if !(d.serving && d.drbgReady) || d.led.lastSeq < w.commit then s.ok d
      else
        let (d, k) := d.wake.drbgDraw
        let d := { d with keys := { d.keys with snaps := t } }
        let (d, b) := d.number (d.snapRec w bytes)
        let d := d.output w.cmd (bytes ++ ecdsaSign Config.identityKey (1 + k % (p256n - 1)) (sha256 bytes))
        s.ok (d.finish ⟨w.cmd.ref, stOK, fieldAt bytes 4 4, false, some b⟩).settle

/-! ### Keys (Tables 14.3 to 14.8) -/

/-- The inactive slot's valid record of an owner. -/
def Dev.loadedKey (d : Dev) (owner : Nat) : Option KeyRec := d.keyRec owner (d.inactiveSlot owner)

/-- A commit of the owner's key is pending. -/
def Dev.keyPending (d : Dev) (owner : Nat) : Bool := d.keys.pend.any fun k => k.owner = owner

/-- What CCM under KT gives for a KEY_LOAD block: the AES key, or the operator key's X ‖ Y; none where the tag fails (R672). -/
def keyUnwrap (b : List Byte) : Option (List Byte) :=
  let nonce := leBytes 8 Config.deviceId ++ b.take 1 ++ (b.drop 4).take 4
  let tag := (b.drop 72).take 8
  if fieldAt b 1 1 = 0 then ccmOpen Config.transportKey nonce (b.take 8) ((b.drop 8).take 16) tag
  else (ccmOpen Config.transportKey nonce (b.take 72) [] tag).map fun _ => (b.drop 8).take 64

/-- KEY_LOAD (0x0070), in the order of Table 14.6. -/
def execKeyLoad (x : Desc) (s : State) : Host.Outcome State Fault Refusal :=
  s.ok (s.dev.command x { opcode := 0x0070, entry := some 0x46 } (fun _ _ => 0) fun d _ =>
    if x.len < 96 then d.done x.ref stBadArg
    else d.withInput x fun bs =>
      let o := fieldAt bs 0 1
      let gen := fieldAt bs 4 4
      if o > 0x41 || fieldAt bs 1 1 ≠ b2n (o = 0x41) || gen = 0 then d.done x.ref stBadArg
      else if d.keyPending o then d.done x.ref stBusy
      else if gen ≤ (d.keyPtr o).gen then d.done x.ref stEpochStale
      else if d.keys.ccmFailed then d.doneInternal x 0x0070
      else match keyUnwrap (bs.take 96) with
        | none => d.done x.ref stAuthFail
        | some key =>
          if o = 0x41 && !onCurve key then d.done x.ref stBadArg
          else
            let kept := if o = 0x41 then sha256 key else key
            match d.loadedKey o with
            | some k =>
              if k.gen = gen then (if k.key = kept then d.doneWith x.ref 0 true else d.done x.ref stBadArg)
              else d.queueGroup x.ref
                { group := 0x0B, key := 2 * o + d.inactiveSlot o, block := kept, cmd := some x.ref, gen := gen }
            | none => d.queueGroup x.ref
                { group := 0x0B, key := 2 * o + d.inactiveSlot o, block := kept, cmd := some x.ref, gen := gen })

/-- KEY_COMMIT (0x0071) (R675): accepted, it waits for its tick. -/
def execKeyCommit (x : Desc) (s : State) : Host.Outcome State Fault Refusal :=
  s.ok (s.dev.command x { opcode := 0x0071, entry := some 0x46 } (fun _ _ => 0) fun d _ =>
    let o := x.arg 24 1
    let gen := x.arg 28 4
    if o > 0x41 then d.done x.ref stBadArg
    else if (d.loadedKey o).all (fun k => k.gen ≠ gen) then d.done x.ref stMismatch
    else if d.keyPending o then d.done x.ref stBusy
    else { d with keys := { d.keys with
      pend := d.keys.pend ++ [{ owner := o, slot := d.inactiveSlot o, gen := gen, cmd := some x.ref }] } })

/-- The certificate as KEY_STATUS returns it; nothing readable with FACTORY lost (R664, Table 12.12). -/
def Dev.certificate (d : Dev) : List Byte :=
  if d.store.factoryLost then List.replicate 160 0#8
  else ((Config.factoryBlock.drop 1024) ++ List.replicate 160 0#8).take 160

/-- The counter of an owner is exhausted (R685, R687, Table 12.12). -/
def Dev.ownerExhausted (d : Dev) (o : Nat) : Bool :=
  if o < 64 then d.tenantExhausted o
  else o = 0x40 && (d.keys.counter.get 0x40 0 ≥ 2 ^ 32 - 4096 || d.led.countersLost.contains 0x40)

/-- The KEY_STATUS block (Table 14.8). -/
def Dev.keyStatus (d : Dev) (o : Nat) : List Byte :=
  let p := d.led.last.keyptr.get o {}
  let stopped := o < 64 && ((d.activeKey o).isNone || d.keys.ccmFailed)
  layout 64 [⟨0, 1, o⟩, ⟨1, 1, p.active⟩, ⟨2, 1, b2n (d.keyPending o) + 2 * b2n (d.ownerExhausted o) + 4 * b2n stopped⟩,
    ⟨4, 4, if p.active = 0xFF then 0 else p.gen⟩, ⟨8, 4, match d.keyRec o (if p.active = 0 then 1 else 0) with | some k => k.gen | none => 0⟩,
    ⟨16, 8, if o ≤ 0x40 then d.keys.counter.get o 0 else 0⟩,
    ⟨24, 8, if o < 64 then d.led.last.counters.tceil.get o 0 else if o = 0x40 then d.led.last.counters.lceil else 0⟩,
    ⟨32, 4, if o < 64 then d.keys.authRefused.get o 0 else 0⟩, ⟨40, 8, Config.deviceId⟩,
    ⟨48, 8, d.led.work.sealBlk.pkgVersion⟩] ++ d.certificate

/-- KEY_STATUS (0x0072): a tenant's ring may name only its own tenant as OWNER. -/
def execKeyStatus (x : Desc) (s : State) : Host.Outcome State Fault Refusal :=
  s.ok (s.dev.command x { opcode := 0x0072, tenantMay := true, entry := some 0x46 } (fun _ _ => 0) fun d _ =>
    let o := x.arg 24 1
    let own := d.issuer x.ref
    if own ≠ 0xFF && o ≠ own then d.done x.ref stBadTenant
    else if o > 0x41 || x.len < 224 then d.done x.ref stBadArg
    else
      let b := d.keyStatus o
      (d.output x b).doneWith x.ref (fieldAt b 4 4))

/-! ### Efevo packages (R618, R619, R702–R705, R1053) -/

/-- A list of numbers rises strictly. -/
def rising : List Nat → Bool
  | x :: y :: t => x < y && rising (y :: t)
  | _ => true

/-- A day profile at offset `o` of a tariff section: used minutes from 0 rising, rates 0–7. -/
def dayOk (t : List Byte) (o : Nat) : Bool :=
  let used := (List.range 8).filter fun i => fieldAt t (o + 4 * i) 2 ≠ 0xFFFF
  let mins := used.map fun i => fieldAt t (o + 4 * i) 2
  mins.head? = some 0 && rising mins && (mins.all fun m => m ≤ 1439) && used.all fun i => fieldAt t (o + 4 * i + 2) 1 ≤ 7

/-- A profile at offset `p` (Table 13.5, R619). -/
def profileOk (t : List Byte) (p : Nat) : Bool :=
  prFallback t p ≤ 7 && ((List.range 4).all fun g => prGsRate t p g ≤ 7 || prGsRate t p g = 0xFF) &&
    inRange t (p + 36) 2 1 3600 && inRange t (p + 38) 2 1 3600 && prLow t p > 0 && prEmergency t p ≤ 10 ^ 9 &&
    prReconnect t p > -(prEmergency t p : Int)

/-- The tariff section's own checks (R619). -/
def tariffOk (t : List Byte) : Bool :=
  let seasons := List.range (tarNSeason t)
  let specials := List.range (tarNSpecial t)
  inRange t 0 1 1 8 && inRange t 1 1 1 12 && inRange t 2 1 1 8 && inRange t 3 1 1 32 && inRange t 4 1 0 64 && inRange t 5 1 1 8 &&
    [1, 2, 3, 4, 5, 6, 10, 12, 15, 20, 30, 60].contains (tarDemandMin t) && tarResetDay t ≤ 28 && inRange t 8 2 0 1439 &&
    inRange t 10 2 0 1439 && tarProfiles t + 128 * tarNProf t ≤ t.length &&
    rising ((List.range (tarNOffset t)).map fun i => fieldAt t (tarOffsets t + 16 * i) 8) &&
    ((List.range (tarNOffset t)).all fun i =>
      let m := sfieldAt t (tarOffsets t + 16 * i + 8) 2
      m ≥ -720 && m ≤ 840) &&
    (seasons.all fun i => inRange t (tarSeasons t + 8 * i) 1 1 12 && inRange t (tarSeasons t + 8 * i + 1) 1 1 31 &&
      fieldAt t (tarSeasons t + 8 * i + 2) 1 < tarNWeek t) &&
    rising (seasons.map fun i => 32 * fieldAt t (tarSeasons t + 8 * i) 1 + fieldAt t (tarSeasons t + 8 * i + 1) 1) &&
    ((List.range (tarNWeek t)).all fun i => (List.range 7).all fun j => fieldAt t (tarWeeks t + 8 * i + j) 1 < tarNDay t) &&
    ((List.range (tarNDay t)).all fun i => dayOk t (tarDays t + 32 * i)) &&
    (specials.all fun i =>
      let o := tarSpecials t + 8 * i
      (fieldAt t o 2 = 0 || inRange t o 2 2000 2543) && inRange t (o + 2) 1 1 12 && inRange t (o + 3) 1 1 31 &&
        fieldAt t (o + 4) 1 < tarNDay t) &&
    (List.range (tarNProf t)).all fun i => profileOk t (tarProfiles t + 128 * i)

/-- The GRID section's own checks (R1053). -/
def gridOk (g : List Byte) : Bool := 3 ≤ g.length && inRange g 0 2 1 1440 && inRange g 2 1 0 3

/-- Type, offset and length of the sections of a container. -/
def pkgDirectory (p : List Byte) : List (Nat × Nat × Nat) :=
  (List.range (fieldAt p 36 1)).map fun i => (fieldAt p (128 + 16 * i) 2, fieldAt p (132 + 16 * i) 4, fieldAt p (136 + 16 * i) 4)

/-- Step 8 of Table 14.12. -/
def directoryOk (p : List Byte) : Bool :=
  let n := fieldAt p 36 1
  let total := fieldAt p 4 4
  let dir := pkgDirectory p
  1 ≤ n && n ≤ 3 &&
    (dir.all fun s => 1 ≤ s.1 && s.1 ≤ 3 && 128 + 16 * n ≤ s.2.1 && s.2.1 + s.2.2 ≤ total - 64) &&
    ((List.range n).all fun i => (List.range i).all fun j =>
      let a := (dir.getD i (0, 0, 0)).2
      let b := (dir.getD j (0, 0, 0)).2
      a.1 + a.2 ≤ b.1 || b.1 + b.2 ≤ a.1) &&
    (dir.map Prod.fst).Nodup && dir.any fun s => s.1 = 1

/-- Step 9: each section passes its own checks. -/
def sectionsOk (p : List Byte) : Bool :=
  (match pkgSection p 1 with | some t => tariffOk t | none => false) &&
    (match pkgSection p 2 with | some g => gridOk g | none => true) &&
    match pkgSection p 3 with | some l => 64 ≤ l.length && lineOk l | none => true

/-- The operator key checks of steps 4 and 5: AUTH_FAIL where one fails. -/
def Dev.packageAuth (d : Dev) (p : List Byte) : Bool :=
  let total := fieldAt p 4 4
  let pub := (p.drop 64).take 64
  match d.activeKey 0x41 with
  | none => false
  | some k => fieldAt p 32 4 = k.gen && sha256 pub = k.key &&
      ecdsaVerify pub (sha256 (p.take (total - 64))) ((p.drop (total - 64)).take 64)

/-- PACKAGE_LOAD (0x0060), in the order of Table 14.12. -/
def execPackageLoad (x : Desc) (s : State) : Host.Outcome State Fault Refusal :=
  s.ok (s.dev.command x { opcode := 0x0060, entry := some 0x43 } (fun _ _ => 0) fun d _ =>
    d.withInput x fun bs =>
      let total := fieldAt bs 4 4
      let p := bs.take total
      if d.groupPending 0x0A 0 then d.done x.ref stBusy
      else if total < 432 || 16352 < total || x.len < total || fieldAt bs 0 4 ≠ 0x01564645 then d.done x.ref stBadArg
      else if fieldAt p 16 8 ≠ 0 && fieldAt p 16 8 ≠ Config.deviceId then d.done x.ref stBadArg
      else if d.keys.shaFailed || d.keys.ecdsaFailed then d.doneInternal x 0x0060
      else if !d.packageAuth p then d.done x.ref stAuthFail
      else if fieldAt p 8 8 ≤ d.led.work.sealBlk.pkgVersion then d.done x.ref stEpochStale
      else if fieldAt p 24 8 ≠ 0 && !d.pwr.timeInvalid && d.now < fieldAt p 24 8 then d.done x.ref stNotReady
      else if !directoryOk p then d.done x.ref stBadArg
      else if !sectionsOk p then d.done x.ref stBadArg
      else d.queueGroup x.ref
        { group := 0x0A, key := 0, block := p, cmd := some x.ref, result := fieldAt p 8 8 })

end Sys2Proof.Machine
end

