-- ==== Sys2Proof/Machine/SetTime.lean ====
section
/-!
DEFINITION. Machine/SetTime.lean: setting device time: CLOCK_SET, CLOCK_GET and beacon times (chapter 2).
-/
namespace Sys2Proof.Machine

/-! ### Setting time (R94–R99, R102) -/

/-- Device time reads `t` from this instant on: the RTC value behind the metrology clocks already counted (R90, R94). -/
def Dev.putTime (d : Dev) (t : DevTime) : Dev :=
  { d with pwr := { d.pwr with rtc := (t + 2 ^ 64 - d.pwr.mcount * 32768 / 750) % 2 ^ 64, slew := 0, slewFrac := 0 } }

/-- A step of device time by a source (0 CLOCK_SET, 1 beacon): it posts TIME_STEP, a step back while time is valid
records CLOCK_BACK, and time becomes valid (R97, R98, R102). The demand interval closes at the step (R632). -/
def Dev.stepTime (d : Dev) (t : DevTime) (source : Nat) : Dev :=
  let before := d.now
  let back := t < before && !d.pwr.timeInvalid
  let d := d.putTime t
  let d := { d with pwr := { d.pwr with timeInvalid := false }
                    tariff := { d.tariff with timeChanged := true } }
  let d := d.demandAtStep
  let d := d.postPower 0x16 [⟨1, 1, source⟩, ⟨8, 8, before⟩, ⟨16, 8, t⟩]
  if back then d.tamper 0x0B 0 t else d

/-- A valid beacon's time: within 100 ms device time slews, beyond it steps (R95, R96, R102). -/
def Dev.beaconTime (d : Dev) (t : DevTime) : Dev :=
  let diff := timeDiff t d.now
  if diff.natAbs ≤ ms 100 then
    let was := d.pwr.timeInvalid
    { d with pwr := { d.pwr with slew := diff, timeInvalid := false }
             tariff := { d.tariff with timeChanged := d.tariff.timeChanged || was } }
  else d.stepTime t 1

/-- CLOCK_SET (0x00D0) (R94, R97, R102, R906): TIME stands in descriptor bytes 8–15. -/
def execClockSet (x : Desc) (s : State) : Host.Outcome State Fault Refusal :=
  s.ok (s.dev.command x { opcode := 0x00D0 } (fun _ _ => 0) fun d _ =>
    if x.addr / second = 0 then d.done x.ref stBadArg
    else
      let before := d.now
      (d.stepTime (x.addr % 2 ^ 64) 0).doneWith x.ref before)

/-- CLOCK_GET (0x00D1): device time, with DETAIL while it is invalid. -/
def execClockGet (x : Desc) (s : State) : Host.Outcome State Fault Refusal :=
  s.ok (s.dev.command x { opcode := 0x00D1 } (fun _ _ => 0) fun d _ => d.doneWith x.ref d.now d.pwr.timeInvalid)

end Sys2Proof.Machine
end

