-- ==== Sys2Proof/Machine/Tamper.lean ====
section
/-!
DEFINITION. Machine/Tamper.lean: the always-on tamper monitors: sampling windows, loop sequences, conditions, splits, and VBAT
(chapter 15).
-/
namespace Sys2Proof.Machine

/-! ### Loop sequences (R726, R728) -/

/-- One step of a loop's LFSR. -/
def lfsrStep (s : Nat) : Nat :=
  let fb := (bitOf s 31 != bitOf s 21) != (bitOf s 1 != bitOf s 0)
  s * 2 % 2 ^ 32 + b2n fb

/-- The LFSR state of loop 2 or 3: until a first draw, from DEVICE_ID. -/
def Dev.loopState (d : Dev) (loop : Nat) : Nat :=
  match d.tam.lfsr.get? loop with
  | some s => s
  | none =>
    let s := Config.deviceId / 2 ^ (32 * (loop - 2)) % 2 ^ 32
    if s = 0 then 1 else s

/-- The four bits a loop is driven with in a window, bit 0 the first, and the state after them. -/
def loopDrive (s : Nat) : Nat × Nat :=
  (List.range 4).foldl (fun (p : Nat × Nat) i => (p.1 + 2 ^ i * b2n (bitOf p.2 31), lfsrStep p.2)) (0, s)

/-! ### Detectors (Table 15.2, R722) -/

/-- What a detector reports of an input; `open_`, `short` and `sequence` in the order of the conditions. -/
inductive Finding
  | open_ | short | sequence | normal | neutral
  deriving DecidableEq, Repr

/-- The condition a number 0–2 names. -/
def findingOf (c : Nat) : Finding := match c with | 0 => .open_ | 1 => .short | _ => .sequence

/-- A case input reads high for a switch above 5 MΩ and never at or below 1 MΩ; in between it may read either way (R722). -/
def caseHigh (r : TamperReading) : Bool := 50000000 < r.ohms || (10000000 < r.ohms && r.high)

/-- Detector D on input `i`; `driven` holds the four bits of a pseudo-random loop. -/
def detectD (i : Nat) (r : TamperReading) (driven : Nat) : Finding :=
  let read := r.bits % 16
  if i < 4 then (if caseHigh r then .open_ else .normal)
  else if i < 6 then (if r.high then .normal else .open_)
  else if driven = 0 || driven = 15 then .neutral
  else if read = driven then .normal
  else if read = 0 then .open_
  else if read = 15 then .short
  else .sequence

/-- Detector V on input `i`: OPEN above 200 kΩ and not at or below 160 kΩ; SHORT of a loop below 50 Ω and not at or above 62 Ω;
in between, either result (R722). -/
def Dev.detectV (d : Dev) (i : Nat) (r : TamperReading) : Dev × Finding :=
  if r.ohms > 2000000 then (d, .open_)
  else if r.ohms > 1600000 then
    let (d, n) := d.draw
    (d, if n % 2 = 0 then .open_ else .normal)
  else if i < 4 || r.ohms ≥ 620 then (d, .normal)
  else if r.ohms < 500 then (d, .short)
  else
    let (d, n) := d.draw
    (d, if n % 2 = 0 then .short else .normal)

/-! ### Conditions (R729–R731, Table 15.4) -/

/-- Conditions of an input: how many of OPEN, SHORT, SEQUENCE it has. -/
def condCount (i : Nat) : Nat := if i < 4 then 1 else if i < 6 then 2 else 3

/-- Kind and index of condition `c` of input `i`. -/
def condKind (i c : Nat) : Nat × Nat := if i < 4 then (0x01, i) else (0x02 + c, i - 4)

def Dev.cond (d : Dev) (i c : Nat) : CondRun := d.tam.conds.get (4 * i + c) {}

def Dev.setCond (d : Dev) (i c : Nat) (x : CondRun) : Dev :=
  { d with tam := { d.tam with conds := d.tam.conds.set (4 * i + c) x } }

/-- The END record of an always-on kind (Table 15.7). -/
def Dev.postEnd (d : Dev) (kind index detect : Nat) : Dev :=
  d.post { ty := 0x30, time := d.now, pay := [⟨0, 1, 2⟩, ⟨1, 1, kind⟩, ⟨2, 1, index⟩, ⟨3, 1, detect⟩, ⟨4, 1, 0xFF⟩] }

/-- Windows of a run: 8 on the VDD33 schedule, 2 in BACKUP. -/
def Dev.runLength (d : Dev) : Nat := if d.pwr.pstate = .backup then 2 else 8

/-- One condition judged on one window: the detectors that report it as bits, and whether the window passes it. -/
def Dev.judgeCond (d : Dev) (i c detect : Nat) (passes : Bool) : Dev :=
  let x := d.cond i c
  let (kind, index) := condKind i c
  if !x.on then
    if detect ≠ 0 then
      let y := { x with run := x.run + 1, start := if x.run = 0 then d.now else x.start
                        detect := (if x.run = 0 then 0 else x.detect) ||| detect }
      if y.run ≥ d.runLength then (d.setCond i c { y with on := true, run := 0 }).logStart kind index y.detect y.start
      else d.setCond i c y
    else if passes then d.setCond i c { x with run := 0 } else d
  else if detect ≠ 0 then d.setCond i c { x with run := 0 }
  else if passes then
    if x.run + 1 ≥ d.runLength then (d.setCond i c {}).postEnd kind index x.detect
    else d.setCond i c { x with run := x.run + 1 }
  else d

/-! ### MONITOR_SPLIT (R732, R733) -/

/-- The milliseconds a window stands for in a split's 1 s: 1 on the VDD33 schedule, 250 in BACKUP. -/
def Dev.windowGap (d : Dev) : Nat := if d.pwr.pstate = .backup then 250 else 1

/-- The split of an input on one window: started after windows for 1 s, or 4 in BACKUP, in each of which one and the same
detector alone reports OPEN, and ended after as long of agreement; a run that crosses a change of the schedules adds up the times
its windows stand for (R732; DEDUCED, assumption 142). -/
def Dev.judgeSplit (d : Dev) (i detect : Nat) : Dev :=
  let x := d.cond i 3
  let split := detect = 1 || detect = 2
  if split = x.on then d.setCond i 3 { x with run := 0 }
  else
    let y := if x.run = 0 || (split && x.detect ≠ detect) then
        { x with run := d.windowGap, start := d.now, detect := if split then detect else x.detect }
      else { x with run := x.run + d.windowGap }
    if 1000 ≤ y.run then
      let d := d.setCond i 3 { y with on := split, run := 0 }
      if split then d.logStart 0x05 i y.detect y.start else d.postEnd 0x05 i y.detect
    else d.setCond i 3 y

/-! ### TAMPER_WINDOW -/

/-- When the next window starts: every 250 ms in BACKUP, otherwise every 1 ms, which is 24,576 metrology clocks, or while that
clock stands still 32 or 33 RTC ticks, 125 windows in 4,096 ticks (R724). -/
def Dev.windowAt (d : Dev) : Nat :=
  d.tam.windowBase + (if d.pwr.pstate = .backup then d.tam.windowNo * 2 ^ 28 else d.tam.windowNo * 2 ^ 27 / 125)

/-- A window is due. -/
def Dev.windowDue (d : Dev) : Bool := d.pwr.pstate ≠ .off && d.windowAt ≤ d.up

/-- New seeds take effect at the start of a window (R727). -/
def Dev.takeSeeds (d : Dev) : Dev :=
  match d.tam.newSeeds with
  | none => d
  | some p =>
    let d := { d with tam := { d.tam with newSeeds := none, lfsr := (d.tam.lfsr.set 2 p.1).set 3 p.2 } }
    d.post { ty := 0x30, time := d.now, pay := [⟨0, 1, 4⟩, ⟨1, 1, 3⟩] }

/-- One input in a window. -/
def Dev.judgeInput (d : Dev) (i : Nat) (r : TamperReading) : Dev :=
  let (driven, after) := if i < 6 then (0, 0) else loopDrive (d.loopState (i - 4))
  let d := if i < 6 then d else { d with tam := { d.tam with lfsr := d.tam.lfsr.set (i - 4) after } }
  let fd := detectD i r driven
  let (d, fv) := d.detectV i r
  let bits (c : Nat) : Nat := b2n (fd = findingOf c) + 2 * b2n (fv = findingOf c)
  let passes := !(fd = .neutral && fv = .normal)
  let d := d.each (List.range (condCount i)) fun d c => d.judgeCond i c (bits c) passes
  d.judgeSplit i (if fd = .neutral then 0 else bits 0)

/-- CAL_EN in HOLD and BACKUP: high after two consecutive high samples; found high after having been low, CAL_ENABLE with index 0
is recorded (R527, R528). -/
def Dev.sampleCalEn (d : Dev) (high : Bool) : Dev :=
  let d := { d with cal := { d.cal with calEn := high } }
  if d.awake then { d with cal := { d.cal with aonRun := 0 } }
  else if !high then { d with cal := { d.cal with aonRun := 0, aonHigh := false } }
  else
    let n := d.cal.aonRun + 1
    let d := { d with cal := { d.cal with aonRun := min n 2 } }
    if n ≥ 2 && !d.cal.aonHigh then
      ({ d with cal := { d.cal with aonHigh := true } } : Dev).logStart 0x06 0 0 d.now
    else d

/-- TAMPER_WINDOW: one sampling window of the eight inputs, and of CAL_EN (R109, R719–R733). -/
def execTamperWindow (inputs : List TamperReading) (calEn : Bool) (s : State) : Host.Outcome State Fault Refusal :=
  let d := s.dev
  if !d.windowDue then s.ok d
  else
    let d := ({ d with tam := { d.tam with windowNo := d.tam.windowNo + 1 } } : Dev).takeSeeds
    let d := d.emit (.loops (loopDrive (d.loopState 2)).1 (loopDrive (d.loopState 3)).1)
    let d := d.each (List.range 8) fun d i => d.judgeInput i (inputs.getD i ⟨4 ≤ i, 0, 22000⟩)
    s.ok (d.sampleCalEn calEn)

/-! ### BATTERY_CHECK (R735) -/

/-- BATTERY_CHECK: every 250 ms while VDD33 is in range, VBAT in mV, negative when reversed. -/
def execBatteryCheck (mv : Int) (s : State) : Host.Outcome State Fault Refusal :=
  let d := s.dev
  let vdd := d.awake || d.pwr.pstate = .hold
  let due := match d.tam.lastCheck with | some t => decide (t + ms 250 ≤ d.up) | none => true
  if !(vdd && due) then s.ok d
  else
    let t : TamperUnit := { d.tam with lastCheck := some d.up }
    if !t.batLost then
      if mv < 1800 then
        let t : TamperUnit := { t with batLowRun := t.batLowRun + 1, batStart := if t.batLowRun = 0 then d.now else t.batStart }
        if t.batLowRun ≥ 4 then
          s.ok (({ d with tam := { t with batLost := true, batLowRun := 0, batOkRun := 0 } } : Dev).logStart 0x0C 0 0 t.batStart)
        else s.ok { d with tam := t }
      else s.ok { d with tam := { t with batLowRun := 0 } }
    else if mv ≥ 2000 then
      if t.batOkRun + 1 ≥ 4 then
        s.ok (({ d with tam := { t with batLost := false, batLowRun := 0, batOkRun := 0 } } : Dev).postEnd 0x0C 0 0)
      else s.ok { d with tam := { t with batOkRun := t.batOkRun + 1 } }
    else s.ok { d with tam := { t with batOkRun := 0 } }

/-- TAMPER_SUMMARY: every 15 minutes in RUN: log entries in use, and the conditions in progress of each input (Table 19.11). -/
def execTamperSummary (s : State) : Host.Outcome State Fault Refusal :=
  let d := s.dev
  if d.pwr.pstate = .run && d.serving && d.quarterDue 0x30 then
    let row (i : Nat) : Fld := ⟨8 + i, 1, sumOn (List.range 4) fun c => 2 ^ c * b2n (d.cond i c).on⟩
    s.ok ((d.quarter 0x30).post { ty := 0x30, time := d.now, pay := [⟨0, 1, 5⟩, ⟨1, 1, d.tam.log.length⟩] ++ (List.range 8).map row })
  else s.ok d

end Sys2Proof.Machine
end

