-- ==== Sys2Proof/Machine/LineNet.lean ====
section
/-!
DEFINITION. Machine/LineNet.lean: the line network: segments and line frames, protection, Kick-off, Captain, joining, access to the
line, acknowledgement, and the tunnel (chapter 22), with what of the physical layer depends on line frames (chapter 21).
-/
namespace Sys2Proof.Machine

/-! ### Plumbing -/

/-- The line network becomes `l`. -/
def Dev.setNet (d : Dev) (l : LineNet) : Dev := { d with lnet := l }

/-- A counter of Table 22.8 counts. -/
def Dev.netCount (d : Dev) (off : Nat) : Dev :=
  d.setNet { d.lnet with counts := d.lnet.counts.upd off 0 fun n => sat32 (n + 1) }

/-- The MAC runs: not in Backstop, HOLD or recall (R48). -/
def Dev.macRuns (d : Dev) : Bool := d.units && !d.pwr.backstop

/-- The node's own ID and its parameters of Table 22.5. -/
def Dev.cwMin (d : Dev) : Nat := fieldAt d.lineParams 36 1
/-- CW (R1067, R1069). -/
def Dev.curCw (d : Dev) : Nat := if d.lnet.cw = 0 then d.cwMin else d.lnet.cw
def Dev.lineRetries (d : Dev) : Nat := fieldAt d.lineParams 37 1
def Dev.keyGrace (d : Dev) : Nat := fieldAt d.lineParams 38 2 * 60 * second
def Dev.takesEndpoints (d : Dev) : Bool := bitOf (fieldAt d.lineParams 44 1) 1
def ownId : Nat := Config.deviceId % 2 ^ 64

/-- A draw of the MAC's LFSR, from 0 to `n` − 1 (R1061). -/
def Dev.lfsrDraw (d : Dev) (n : Nat) : Dev × Nat :=
  let seed := (Config.deviceId % 2 ^ 32) ^^^ (Config.deviceId / 2 ^ 32 % 2 ^ 32)
  let s := if d.lnet.lfsr ≠ 0 then d.lnet.lfsr else if seed = 0 then 1 else seed
  let s := (List.range 32).foldl (fun s _ => lfsrStep s) s
  (d.setNet { d.lnet with lfsr := s }, s % n)

/-- The line counter is exhausted (R687, Table 12.12). -/
def Dev.lineExhausted (d : Dev) : Bool := d.keys.counter.get 0x40 0 ≥ 2 ^ 32 - 4096 || d.led.countersLost.contains 0x40

/-! ### LINE_RX records (Table 19.12) -/

/-- Header fields of Table 22.2, in the bytes of a line frame. -/
def hdSrcId (b : List Byte) : Nat := fieldAt b 0 8
def hdNet (b : List Byte) : Nat := fieldAt b 8 2
def hdDest (b : List Byte) : Nat := fieldAt b 10 2
def hdSrc (b : List Byte) : Nat := fieldAt b 12 2
def hdType (b : List Byte) : Nat := fieldAt b 14 1
def hdSecured (b : List Byte) : Bool := bitOf (fieldAt b 15 1) 0
def hdAck (b : List Byte) : Bool := bitOf (fieldAt b 15 1) 1
def hdLen (b : List Byte) : Nat := fieldAt b 16 2
def hdCounter (b : List Byte) : Nat := fieldAt b 18 4

/-- A LINE_RX record from a header (zeros where none was received), a level in quarter dBµV, and the payload. -/
def Dev.postRx (d : Dev) (status : Nat) (hd : List Byte) (level rate segs : Nat) (data : List Byte) (time : DevTime) : Dev :=
  d.post { ty := 0x40, epoch := d.epoch 0x44, time := time, len := 18 + data.length,
           pay := [⟨0, 1, status⟩, ⟨1, 1, hdType hd⟩, ⟨2, 2, hdNet hd⟩, ⟨4, 2, hdSrc hd⟩, ⟨6, 2, hdDest hd⟩, ⟨8, 4, hdCounter hd⟩,
             ⟨12, 1, levelField level⟩, ⟨13, 1, rate⟩, ⟨14, 1, segs⟩, ⟨16, 2, data.length⟩, ⟨18, data.length, leNat data⟩] }

/-- A DEST names this node or is broadcast. -/
def Dev.destHere (d : Dev) (dest : Nat) : Bool := dest = 0xFFFF || (d.lnet.role ≠ 0 && dest = d.lnet.addr)

/-! ### Joining segments (R1046–R1048) -/

/-- Staging blocks that line receive holds: one for each line frame being joined. -/
def Dev.holdBlocks (d : Dev) : Dev := { d with eng := { d.eng with lineBlocks := d.lnet.rx.cells.length } }

/-- The line frame being joined from a source is lost: counted, and posted where its segment 0 named this node (R1048). -/
def Dev.loseJoin (d : Dev) (src : Nat) : Dev :=
  match d.lnet.rx.get? src with
  | none => d
  | some j =>
    let d := ((d.setNet { d.lnet with rx := d.lnet.rx.erase src }).netCount 116).holdBlocks
    if j.next ≠ 0 && d.destHere (hdDest j.bytes) then d.postRx 4 j.bytes j.level j.rate j.next [] (d.stamp j.ended) else d

/-- CRC-16 of a PSDU over its bytes 0–35 (R1046). -/
def psduCrc (p : List Byte) : Nat := (crcBits 0x1021#16 0xFFFF#16 ((p.take 36).flatMap bitsMsb)).toNat

/-- SEGMENT_TIMEOUT: the next segment of a source has not come 2 s after the previous one ended. -/
def execSegmentTimeout (src : Nat) (s : State) : Host.Outcome State Fault Refusal :=
  let d := s.dev
  match d.lnet.rx.get? src with
  | some j => if d.macRuns && d.since j.ended (2 * second) then s.ok (d.wake.loseJoin src) else s.ok d
  | none => s.ok d

/-- CAPTURED: WATCH detects a frame at least 6 dB stronger. MAIN abandons its frame and takes the new one; `part` is what MAIN had of
its PSDU, the band energies of each bit: its SRC and XID, once received, name the line frame it belonged to (R1023, R1024, R1040). -/
def execCaptured (h : Heard) (part : List (Nat × Nat)) (s : State) : Host.Outcome State Fault Refusal :=
  let d := s.dev
  match d.lphy.rx with
  | none => s.ok d
  | some r =>
    if !d.lineHears || !h.detects || h.level < r.level + 24 then s.ok d
    else
      let d := ((d.wake.takeFrame h).phyCount 20).setNet { d.lnet with gapNoise := true }
      let had := r.bytes part
      let src := fieldAt had 2 2
      let was := if had.length < 4 then none
        else (d.lnet.rx.get? src).bind fun j => if j.xid = fieldAt had 1 1 then some j else none
      s.ok (match was with
        | some j =>
          (d.setNet { d.lnet with rx := d.lnet.rx.erase src }).holdBlocks.postRx 1 j.bytes r.level d.lphy.rate j.next [] d.now
        | none => d.postRx 1 [] r.level d.lphy.rate 0 [] d.now)

/-! ### Judging a line frame (R1050–R1052, R1068, R1070–R1072) -/

/-- A short address that a node holds (Table 22.3). -/
def nodeAddress (a : Nat) : Bool := (1 ≤ a && a ≤ 0x20) || (0x100 ≤ a && a ≤ 0x1FF)

/-- The source, security and ACK rules of a frame's row (Table 22.4). -/
def rowRules (ty src : Nat) (secured ack : Bool) : Bool :=
  match ty with
  | 0x01 | 0x04 => src = 1 && secured && !ack
  | 0x02 | 0x03 => src = 0 && secured && !ack
  | 0x05 => nodeAddress src && !secured && !ack
  | 0x06 => (src = 0 || nodeAddress src) && !secured && !ack
  | 0x10 => src = 1 && secured && ack
  | 0x11 => 2 ≤ src && src ≤ 0x20 && secured && ack
  | _ => 0x20 ≤ ty && ty ≤ 0x7F && nodeAddress src

/-- The network this node belongs to, or is joining. -/
def Dev.ownNet (d : Dev) : Option Nat :=
  if d.lnet.role ≠ 0 then some d.lnet.netId else if d.lnet.kstate = 3 then some d.lnet.joinNet else none

/-- The node ID a frame is authenticated with: the table's for its source, else its own SRC_ID; a source of 0 and another
network's beacon stand under their own (R1050). -/
def Dev.frameId (d : Dev) (b : List Byte) : Nat :=
  if hdSrc b = 0 || (hdType b = 0x01 && !(d.lnet.role = 1 && hdNet b = d.lnet.netId)) then hdSrcId b
  else d.lnet.table.get (hdSrc b) (hdSrcId b)

/-- The line key that was active before the active one, while it still receives (R678, R1070). -/
def Dev.previousKey (d : Dev) : Option KeyRec :=
  let p := d.led.last.keyptr.get 0x40 {}
  match d.lnet.keyChanged, d.keyRec 0x40 (1 - p.active) with
  | some t, some k => if k.gen < p.gen && !d.since t d.keyGrace then some k else none
  | _, _ => none

/-- The nonce of a line frame: node ID of its source and frame counter (R693). -/
def lineNonce (id counter : Nat) : List Byte := layout 13 [⟨0, 8, id⟩, ⟨8, 4, counter⟩, ⟨12, 1, 0x4C⟩]

/-- The payload of a secured frame and whether the previous key opened it; none where it fails under both (R693, R1070). -/
def Dev.openFrame (d : Dev) (id : Nat) (b : List Byte) : Option (List Byte × Bool) :=
  let try_ := fun (k : KeyRec) =>
    ccmOpen k.key (lineNonce id (hdCounter b)) (b.take 22) ((b.drop 22).take (hdLen b)) ((b.drop (22 + hdLen b)).take 8)
  match (d.activeKey 0x40).bind try_ with
  | some p => some (p, false)
  | none => (d.previousKey.bind try_).map fun p => (p, true)

/-- An ACK for a frame is handed to the access unit (R1068, Table 22.4). -/
def Dev.queueAck (d : Dev) (dest xid counter : Nat) : Dev :=
  let a : TxLine := { dest := dest, src := 0, ftype := 5, secured := false, ackReq := false, role := 2, handed := d.up
                      payload := layout 5 [⟨0, 1, xid⟩, ⟨1, 4, counter⟩] }
  d.setNet { d.lnet with urgent := d.lnet.urgent ++ [a] }

/-- A line frame that was judged good enters the places the MAC acts from; ACK and KEYREQ are no frames that another can repeat
(R1072). -/
def Dev.acceptFrame (d : Dev) (f : RxLine) (secured : Bool) (number : Nat) : Dev :=
  let l := d.lnet
  let l := if f.ftype = 5 || f.ftype = 6 then l else { l with lastSeen := l.lastSeen.set f.srcId (secured, number, d.up) }
  d.setNet { l with inbox := l.inbox ++ [f] }

/-- A whole line frame `b` from segments of `src` is judged: its row, its network, its destination, a repeat, its authentication
and its counter; then it is acknowledged and accepted. -/
def Dev.judgeFrame (d : Dev) (src : Nat) (j : RxJoin) : Dev :=
  let b := j.bytes
  let ty := hdType b
  let sec := hdSecured b
  let ack := hdAck b
  let n := 22 + hdLen b + 8 * b2n sec
  let known := ty = 0x01 || ty = 0x02
  if hdSrc b ≠ src || 224 < n || b.length < n || !rowRules ty src sec ack then d.netCount 120
  else if !known && d.ownNet ≠ some (hdNet b) then d.netCount 120
  else if !d.destHere (hdDest b) then d
  else
    let id := d.frameId b
    let f : RxLine := { srcId := id, net := hdNet b, dest := hdDest b, src := src, ftype := ty, counter := hdCounter b, xid := j.xid
                        payload := (b.drop 22).take (hdLen b), level := j.level, rate := j.rate, segs := j.next, start := j.start
                        ended := j.ended }
    let acked := ack && hdDest b ≠ 0xFFFF
    let answer := fun (d : Dev) => if acked then d.queueAck src j.xid (hdCounter b) else d
    let seen := d.lnet.lastSeen.get id (true, 2 ^ 32, 0)
    if !sec then
      if ack && !seen.1 && seen.2.1 = j.xid && !d.since seen.2.2 (10 * second) then answer d
      else (answer d).acceptFrame f false j.xid
    else if d.keys.ccmFailed then d
    else match d.openFrame id b with
      | none => (d.netCount 108).postRx 2 b j.level j.rate j.next [] (d.stamp j.ended)
      | some (p, prev) =>
        let table := if prev then d.lnet.highPrev else d.lnet.high
        let fresh := match table.get? id with | some h => h < hdCounter b | none => true
        if !fresh then
          if ack && seen.1 && seen.2.1 = hdCounter b then answer d
          else ((answer d).netCount 112).postRx 3 b j.level j.rate j.next [] (d.stamp j.ended)
        else
          let l := d.lnet
          let table := table.set id (hdCounter b)
          let l := if prev then { l with highPrev := table } else { l with high := table }
          let l := if src = 0 || (ty = 0x01 && !(l.role = 1 && hdNet b = l.netId)) || (l.table.get? src).isSome then l
            else { l with table := l.table.set src id }
          (answer (d.setNet l)).acceptFrame { f with payload := p.take (hdLen b) } true (hdCounter b)

/-! ### A physical frame is received (R1016, R1020, R1046–R1048) -/

/-- The segment of a PSDU whose CRC is good joins its line frame, which is judged once it is whole. -/
def Dev.takeSegment (d : Dev) (p : List Byte) (r : RxFrame) (rate : Nat) : Dev :=
  let seg := fieldAt p 0 1 % 8
  let last := fieldAt p 0 1 / 8 % 8
  let xid := fieldAt p 1 1
  let src := fieldAt p 2 2
  let body := (p.drop 4).take 32
  let d := match d.lnet.rx.get? src with | some j => if j.xid = xid then d else d.loseJoin src | none => d
  if last = 7 || last < seg then d
  else
    let j : Option RxJoin := match d.lnet.rx.get? src with
      | some j => if seg = j.next && last = j.last then some { j with bytes := j.bytes ++ body, next := seg + 1, level := r.level, ended := d.up }
        else none
      | none => if seg = 0 then some { xid := xid, last := last, bytes := body, next := 1, level := r.level, rate := rate, start := r.start
                                       ended := d.up } else none
    match j with
    | none => d
    | some j =>
      if j.last < j.next then (d.setNet { d.lnet with rx := d.lnet.rx.erase src }).holdBlocks.judgeFrame src j
      else if (d.lnet.rx.get? src).isNone && d.poolFree = 0 then d.phyCount 32
      else (d.setNet { d.lnet with rx := d.lnet.rx.set src j }).holdBlocks

/-- PHY_FRAME_RECEIVED: bit 335 of the frame MAIN holds has ended; `bits` are the band energies of its 304 PSDU bits. The gain follows its
level, and the MAC takes the PSDU. -/
def execPhyFrameReceived (bits : List (Nat × Nat)) (s : State) : Host.Outcome State Fault Refusal :=
  let d := s.dev
  match d.lphy.rx with
  | none => s.ok d
  | some r =>
    if !d.lineHears || bits.length ≠ 304 || !d.since r.start (clocks (336 * d.lphy.bitClocks)) then s.ok d
    else
      let psdu := r.bytes bits
      let l := d.lphy
      let rate := l.rate
      let d := (d.setPhy { l with rx := none, gain := if l.agcFixed then l.gain else gainFor r.level }).phyCount 16
      let d := d.lineApply.wake
      if d.lnet.inbox.length ≥ 2 then s.ok (d.phyCount 36)
      else if psduCrc psdu ≠ fieldAt psdu 36 2 then
        let d := d.setNet { d.lnet with gapNoise := true }
        let src := fieldAt psdu 2 2
        s.ok (match d.lnet.rx.get? src with
          | some j => if j.xid = fieldAt psdu 1 1 then d.loseJoin src else d.netCount 116
          | none => d.netCount 116)
      else s.ok (d.takeSegment psdu r rate)

/-! ### Kick-off (R1054–R1059) -/

/-- The node listens on as MODE 0 because it cannot draw (R1056). -/
def Dev.cannotDraw (d : Dev) : Dev := (d.enterListen 0 d.lnet.filter d.lnet.onlyId false).postLine 0x03 []

/-- CLAIMING begins, with its first wait drawn (R1055, R1056). -/
def Dev.enterClaiming (d : Dev) : Dev :=
  if !d.drbgReady then d.cannotDraw
  else
    let (d, r) := d.drbgDraw
    d.setNet { d.lnet with
      kstate := 2, claims := 0, claimWait := r % d.lnet.w, claimOpen := true, claimEnd := none, collided := 0, gapNoise := false
      gapClaim := false }

/-- LISTEN_TIMEOUT: a MODE 1 node has listened 6 s. -/
def execListenTimeout (s : State) : Host.Outcome State Fault Refusal :=
  let d := s.dev
  let l := d.lnet
  if d.macRuns && l.kstate = 1 && l.mode = 1 && d.since l.listenSince (6 * second) then s.ok d.enterClaiming else s.ok d

/-- The gap after the last CLAIM counts as collided when something was heard in it that could not be decoded and no CLAIM was
decoded (R1058). -/
def LineNet.judgeGap (l : LineNet) : LineNet :=
  if l.claimEnd.isSome && l.gapNoise && !l.gapClaim then { l with collided := l.collided + 1 } else l

/-- CAPTAIN_TIMEOUT: 2 s after its third CLAIM ended the claimant becomes Captain, or, with all three collided, doubles W and listens
again (R1058, R1059). -/
def execCaptainTimeout (s : State) : Host.Outcome State Fault Refusal :=
  let d := s.dev
  match d.lnet.claimEnd with
  | none => s.ok d
  | some t =>
    if !d.macRuns || d.lnet.kstate ≠ 2 || d.lnet.claims < 3 || !d.since t (2 * second) then s.ok d
    else
      let l := d.lnet.judgeGap
      if l.collided ≥ 3 then
        let w := min 1024 (2 * l.w)
        s.ok (((d.setNet { l with w := w }).postLine 0x03 [⟨10, 2, w⟩]).enterListen 1 l.filter l.onlyId false)
      else
        let d := d.setNet { l with
          kstate := 4, w := 64, captainId := ownId, claims := 0, claimEnd := none, roster := {}, nodes := 0, rosterSet := false
          rosterEpoch := 0, beaconSec := some ((d.now - 1) / 2 ^ 31), beaconWait := none, dissolve := none, table := l.table.set 1 ownId }
        s.ok ((d.setRole 2 d.formId 1).postLine 0x04 [])

/-- A node's role ends: LEFT, and LISTEN under a filter (R1065). -/
def Dev.leave (d : Dev) (why : Nat) (only : Option Nat) (yields : Bool) : Dev :=
  let d := d.postLine 0x07 [⟨16, 1, why⟩]
  (d.enterListen d.lnet.mode d.lnet.filter only yields).postLine 0x01 [⟨16, 1, 2⟩]

/-- Captain will dissolve its network towards a lower ID (R1066). -/
def Dev.startMerge (d : Dev) (id : Nat) : Dev :=
  if d.lnet.dissolve.isSome then d else d.setNet { d.lnet with dissolve := some (3, id) }

/-- A claimant gives way to a lower ID (R1057). -/
def Dev.claimLost (d : Dev) (id : Nat) : Dev :=
  (d.postLine 0x02 [⟨0, 8, id⟩]).enterListen d.lnet.mode d.lnet.filter (some id) false

/-! ### The frames the MAC acts on (R1052) -/

/-- The oldest frame accepted and not acted on, when it is of type `ty` (APP: any of 0x20–0x7F), and the state without it. -/
def Dev.takeInbox (d : Dev) (ty : Nat → Bool) : Option (Dev × RxLine) :=
  match d.lnet.inbox with
  | [] => none
  | f :: t => if d.macRuns && ty f.ftype then some ((d.setNet { d.lnet with inbox := t }).wake, f) else none

/-- A JOIN_REQ is queued, unless one waits (R1074). -/
def Dev.queueJoin (d : Dev) : Dev :=
  if d.lnet.queue.any fun f => f.ftype = 3 then d
  else
    let f : TxLine := { dest := 1, src := 0, ftype := 3, secured := true, ackReq := false, payload := [0#8, 0#8, 0#8], handed := d.up }
    d.setNet { d.lnet with queue := f :: d.lnet.queue }

/-- A beacon in LISTEN: the node joins its network, claims against it, or listens on (R1055, R1065, R1074). -/
def Dev.beaconListen (d : Dev) (f : RxLine) : Dev :=
  let l := d.lnet
  let passes := match l.onlyId with | some m => f.srcId = m | none => l.filter = 0xFFFF || l.filter = f.net
  if !passes then d
  else if l.mode = 0 || l.yields || f.srcId < ownId then
    (d.setNet { l with
      kstate := 3, joinNet := f.net, joinId := f.srcId, joinCw := d.cwMin, refusedAt := none
      table := l.table.set 1 f.srcId }).queueJoin
  else if ownId < f.srcId then d.enterClaiming
  else d

/-- A member's own Captain's beacon: time, grid state, and the reasons to leave (R1062, R1063, R1065). -/
def Dev.beaconMember (d : Dev) (f : RxLine) : Dev :=
  let p := f.payload
  let flags := fieldAt p 9 1
  let d := d.setNet { d.lnet with beaconAt := d.up, nodes := fieldAt p 10 1 }
  let d := if bitOf flags 0 then d.beaconTime ((fieldAt p 0 8 + (d.up - f.start)) % 2 ^ 64) else d
  let d := if bitOf flags 1 then d else d.gridArrives (fieldAt p 8 1 % 4) 0
  if fieldAt p 12 4 ≠ d.lnet.rosterEpoch then d.leave 1 none false
  else if bitOf flags 2 then d.leave 2 (some (fieldAt p 16 8)) true
  else d

/-- BEACON: a beacon is acted on (R1055, R1057, R1062–R1066, R1074). -/
def execBeacon (s : State) : Host.Outcome State Fault Refusal :=
  match s.dev.takeInbox fun t => t = 0x01 with
  | none => s.ok s.dev
  | some (d, f) =>
    let d := d.setNet { d.lnet with lastBeacon := d.now }
    let l := d.lnet
    s.ok (if l.role = 2 then (if f.srcId < ownId then d.startMerge f.srcId else d)
      else if l.role = 1 then (if f.net = l.netId && f.srcId = l.captainId then d.beaconMember f else d)
      else match l.kstate with
        | 1 => d.beaconListen f
        | 2 => if f.srcId < ownId then d.claimLost f.srcId else d
        | 3 => if f.srcId = l.joinId && f.net = l.joinNet && l.refusedAt.isNone then
            (d.setNet { l with joinCw := min 64 (2 * l.joinCw) }).queueJoin else d
        | _ => d)

/-- CLAIM: a CLAIM is acted on (R1055, R1057, R1058, R1066). -/
def execClaim (s : State) : Host.Outcome State Fault Refusal :=
  match s.dev.takeInbox fun t => t = 0x02 with
  | none => s.ok s.dev
  | some (d, f) =>
    let d := d.setNet { d.lnet with gapClaim := true }
    let l := d.lnet
    let lower : Bool := f.srcId < ownId
    s.ok (if l.role = 2 then (if lower then d.startMerge f.srcId else d)
      else match l.kstate with
        | 1 => if lower then d.setNet { l with listenSince := d.up } 
          else if l.mode = 1 && ownId < f.srcId && !(l.yields && l.onlyId = some f.srcId) then d.enterClaiming else d
        | 2 => if lower then d.claimLost f.srcId else d
        | _ => d)

/-- The address Captain gives a node: the one it holds, else the lowest free one of its range (R1075). -/
def LineNet.addressFor (l : LineNet) (id kind : Nat) : Option Nat :=
  match l.roster.cells.find? fun p => p.2 = id with
  | some p => some p.1
  | none => (if kind = 0 then span 2 31 else span 0x100 256).find? fun a => (l.roster.get? a).isNone

/-- JOIN_REQ: Captain answers a joiner with a JOIN_ACK (R1074–R1076). -/
def execJoinReq (s : State) : Host.Outcome State Fault Refusal :=
  match s.dev.takeInbox fun t => t = 0x03 with
  | none => s.ok s.dev
  | some (d, f) =>
    let kind := fieldAt f.payload 0 1
    if d.lnet.role ≠ 2 || d.lineExhausted || (kind ≠ 0 && !d.takesEndpoints) then s.ok d
    else
      let l := d.lnet
      let a := l.addressFor f.srcId kind
      let reply : TxLine := { dest := 0xFFFF, src := 0, ftype := 4, secured := true, ackReq := false, role := 2, handed := d.up
                              payload := layout 15 [⟨0, 8, f.srcId⟩, ⟨8, 2, a.getD 0⟩, ⟨10, 1, b2n a.isNone⟩, ⟨11, 4, l.rosterEpoch⟩] }
      let d := d.setNet { l with urgent := l.urgent ++ [reply] }
      s.ok (match a with
        | none => d
        | some a =>
          let r := l.roster.set a f.srcId
          (d.setNet { d.lnet with
            roster := r, table := l.table.set a f.srcId, nodes := (r.keys.filter fun x => x ≤ 0x20).length }).postLine 0x09
            [⟨0, 8, f.srcId⟩, ⟨8, 2, a⟩, ⟨16, 1, kind⟩])

/-- JOIN_ACK: the table takes its address; the node it names joins, or is refused (R1050, R1074, R1076). -/
def execJoinAck (s : State) : Host.Outcome State Fault Refusal :=
  match s.dev.takeInbox fun t => t = 0x04 with
  | none => s.ok s.dev
  | some (d, f) =>
    let id := fieldAt f.payload 0 8
    let a := fieldAt f.payload 8 2
    let okay : Bool := fieldAt f.payload 10 1 = 0
    let d := if okay then d.setNet { d.lnet with table := d.lnet.table.set a id } else d
    let l := d.lnet
    if l.kstate ≠ 3 || id ≠ ownId then s.ok d
    else
      let d := d.setNet { l with queue := l.queue.filter fun f => f.ftype ≠ 3 }
      if okay then
        let d := d.setNet { d.lnet with
          kstate := 4, w := 64, captainId := l.joinId, rosterEpoch := fieldAt f.payload 11 4, beaconAt := d.up, refusedAt := none }
        s.ok ((d.setRole 1 l.joinNet a).postLine 0x05 [⟨0, 8, l.joinId⟩, ⟨8, 2, a⟩])
      else s.ok ((d.setNet { d.lnet with refusedAt := some d.up }).postLine 0x06 [⟨0, 8, l.joinId⟩])

/-- JOIN_RETRY: 60 s after a refusal the node tries again (R1076). -/
def execJoinRetry (s : State) : Host.Outcome State Fault Refusal :=
  let d := s.dev
  match d.lnet.refusedAt with
  | none => s.ok d
  | some t =>
    if d.macRuns && d.lnet.kstate = 3 && d.since t (60 * second) then
      s.ok (d.setNet { d.lnet with refusedAt := none }).queueJoin
    else s.ok d

/-- BEACON_LOSS: no beacon from its Captain has authenticated for 30 s (R1065). -/
def execBeaconLoss (s : State) : Host.Outcome State Fault Refusal :=
  let d := s.dev
  if d.macRuns && d.lnet.role = 1 && d.since d.lnet.beaconAt (30 * second) then s.ok (d.wake.leave 0 none false) else s.ok d

/-- KEYREQ: Captain posts KEY_ROLL_REQUEST (R1073). -/
def execKeyreq (s : State) : Host.Outcome State Fault Refusal :=
  match s.dev.takeInbox fun t => t = 0x06 with
  | none => s.ok s.dev
  | some (d, f) =>
    s.ok (if d.lnet.role = 2 then d.postLine 0x0A [⟨0, 8, f.srcId⟩, ⟨8, 2, f.src⟩, ⟨12, 4, fieldAt f.payload 0 4⟩] else d)

/-- A frame is delivered to the host as a LINE_RX record (R1052, R1079). -/
def Dev.deliver (d : Dev) (f : RxLine) : Dev :=
  let hd := layout 22 [⟨8, 2, f.net⟩, ⟨10, 2, f.dest⟩, ⟨12, 2, f.src⟩, ⟨14, 1, f.ftype⟩, ⟨18, 4, f.counter⟩]
  d.postRx 0 hd f.level f.rate f.segs f.payload (d.stamp f.ended)

/-- TUNNEL_REC: Captain passes it to its host. -/
def execTunnelRec (s : State) : Host.Outcome State Fault Refusal :=
  match s.dev.takeInbox fun t => t = 0x11 with
  | none => s.ok s.dev
  | some (d, f) => s.ok (if d.lnet.role = 2 then d.deliver f else d)

/-- APP: an application frame is delivered. -/
def execApp (s : State) : Host.Outcome State Fault Refusal :=
  match s.dev.takeInbox fun t => 0x20 ≤ t && t ≤ 0x7F with
  | none => s.ok s.dev
  | some (d, f) => s.ok (d.deliver f)

/-! ### The tunnel of a standalone node (R1077, R1078, R1092) -/

/-- One part of a command message joins it; the whole message waits to run. A fifth message is answered BUSY. -/
def Dev.tunPartIn (d : Dev) (tid part npart : Nat) (data : List Byte) : Dev :=
  let l := d.lnet
  match l.tunJoin.find? fun j => j.tid = tid with
  | some j =>
    if part ≠ j.parts then d
    else
      let j2 : TunJoin := { j with bytes := j.bytes ++ data, parts := part + 1, last := d.up }
      let rest := l.tunJoin.erase j
      if j2.parts < j.npart then d.setNet { l with tunJoin := rest ++ [j2] }
      else (d.setNet { l with tunJoin := rest, tunReady := l.tunReady ++ [j2] }).tunSkip (l.tunReady.length + 1)
  | none =>
    if part ≠ 0 || npart = 0 then d
    else
      let j : TunJoin := ⟨tid, data, 1, npart, d.up⟩
      if l.tunJoin.length ≥ 4 then d.tunnelPush 0 (some tid) (completionBytes stBusy (fieldAt data 4 4) 0 false false)
      else if npart = 1 then (d.setNet { l with tunReady := l.tunReady ++ [j] }).tunSkip (l.tunReady.length + 1)
      else d.setNet { l with tunJoin := l.tunJoin ++ [j] }

/-- TUNNEL_CMD: a part of a tunnel command reaches a standalone member. -/
def execTunnelCmd (s : State) : Host.Outcome State Fault Refusal :=
  match s.dev.takeInbox fun t => t = 0x10 with
  | none => s.ok s.dev
  | some (d, f) =>
    let p := f.payload
    if d.pwr.hostmode || !d.has 15 || d.lnet.role ≠ 1 || p.length < 6 || fieldAt p 0 2 ≥ 0x8000 || fieldAt p 4 1 ≠ 0 then s.ok d
    else s.ok (d.tunPartIn (fieldAt p 0 2) (fieldAt p 2 1) (fieldAt p 3 1) (p.drop 5))

/-- TUNNEL_TIMEOUT: a message not completed within 60 s of its last part is discarded. -/
def execTunnelTimeout (tid : Nat) (s : State) : Host.Outcome State Fault Refusal :=
  let d := s.dev
  match d.lnet.tunJoin.find? fun j => j.tid = tid with
  | none => s.ok d
  | some j =>
    if d.macRuns && d.since j.last (60 * second) then s.ok (d.setNet { d.lnet with tunJoin := d.lnet.tunJoin.erase j }) else s.ok d

/-- The next part of the oldest message waits to be sent, where none does (R1077, R1078). -/
def Dev.feedTunnel (d : Dev) : Dev :=
  let l := d.lnet
  if d.pwr.hostmode || l.role ≠ 1 || l.queue.any fun f => f.role = 1 then d
  else match l.tunQueue with
    | [] => d
    | m :: _ =>
      let n := max 1 ((m.bytes.length + 188) / 189)
      let data := (m.bytes.drop (189 * l.tunPart)).take 189
      let f : TxLine := { dest := 1, src := 0, ftype := 0x11, secured := true, ackReq := true, role := 1, handed := d.up
                          payload := layout 5 [⟨0, 2, m.tid⟩, ⟨2, 1, l.tunPart⟩, ⟨3, 1, n⟩, ⟨4, 1, m.kind⟩] ++ data }
      d.setNet { l with queue := l.queue ++ [f] }

/-- A part has been sent or given up: the next part, or the next message (R1078). -/
def LineNet.nextPart (l : LineNet) : LineNet :=
  match l.tunQueue with
  | [] => { l with tunPart := 0 }
  | m :: t =>
    if l.tunPart + 1 < (m.bytes.length + 188) / 189 then { l with tunPart := l.tunPart + 1 } else { l with tunQueue := t, tunPart := 0 }

/-! ### Exhaustion (R687, R1073) -/

/-- A KEYREQ to 0x0001 is handed to the access unit, where the node has a network or is joining one. -/
def Dev.sendKeyreq (d : Dev) : Dev :=
  let l := d.lnet
  if l.role ≠ 0 || l.kstate = 3 then
    let gen := (d.led.last.keyptr.get 0x40 {}).gen
    let f : TxLine := { dest := 1, src := 0, ftype := 6, secured := false, ackReq := false, role := 2, handed := d.up
                        payload := layout 5 [⟨0, 4, gen⟩] }
    d.setNet { l with urgent := (l.urgent.filter fun x => x.ftype ≠ 6) ++ [f], keyreqAt := some d.up }
  else d

/-- The counter has become exhausted: LINE_EXHAUSTED once, and a KEYREQ at once; secured frames ahead of the queue are dropped. -/
def Dev.noteExhausted (d : Dev) : Dev :=
  if !d.lineExhausted || d.lnet.exhausted || (d.activeKey 0x40).isNone then d
  else
    let gen := (d.led.last.keyptr.get 0x40 {}).gen
    let d := d.setNet { d.lnet with exhausted := true, urgent := d.lnet.urgent.filter fun f => !f.secured || !f.bytes.isEmpty }
    (d.postLine 0x0B [⟨12, 4, gen⟩]).sendKeyreq

/-- KEYREQ_REPEAT: an exhausted node sends another KEYREQ every 60 s; the first follows at once. -/
def execKeyreqRepeat (s : State) : Host.Outcome State Fault Refusal :=
  let d := s.dev
  if !d.macRuns || !d.lineExhausted then s.ok d
  else if !d.lnet.exhausted then s.ok d.noteExhausted
  else
    let due := match d.lnet.keyreqAt with | some t => d.since t (60 * second) | none => true
    s.ok (if due then d.sendKeyreq else d)

/-! ### Sending (R1026–R1031, R1056, R1060, R1067) -/

/-- The slot start lies where this node may start a physical frame but for a frame MAIN holds (R1027, R1030). -/
def Dev.txMay (d : Dev) : Bool :=
  d.units && !d.pwr.backstop && d.lphy.txEnable && d.trk.state ≠ .search && d.lphy.tx.isNone &&
    match d.lphy.lastTxUp with | some t => d.since t (clocks (360 * d.lphy.bitClocks)) | none => true

/-- A member, or a node about to be one, keeps silent around even seconds (R1067). -/
def Dev.memberSilent (d : Dev) : Bool :=
  (d.lnet.role = 1 || d.lnet.kstate = 3) && (d.now % 2 ^ 31 < ms 500 || 2 ^ 31 ≤ d.now % 2 ^ 31 + ms 150)

/-- A line frame can be built and sent now: its network, its key and its counter (R683, R687, R1073, R1095). An exhausted node
completes a frame it has begun. -/
def Dev.frameUsable (d : Dev) (f : TxLine) : Bool :=
  (f.role = 4 || d.lnet.role ≠ 0 || d.lnet.kstate = 3 && (f.ftype = 3 || f.ftype = 6)) &&
    (!d.lineExhausted || f.ftype = 5 || f.ftype = 6 || !f.bytes.isEmpty) &&
    (!f.secured || !f.bytes.isEmpty ||
      ((d.activeKey 0x40).isSome && !d.keys.ccmFailed && d.keys.counter.get 0x40 0 < d.led.last.counters.lceil))

/-- `n` bytes of a byte string, zeros after its end. -/
def exactly (n : Nat) (bs : List Byte) : List Byte := (bs ++ List.replicate n 0#8).take n

/-- Captain's beacon payload at this slot start (R1060, R1063, Table 22.6). -/
def Dev.beaconPayload (d : Dev) (counter : Nat) : List Byte :=
  let l := d.lnet
  let left := match l.dissolve with | some p => p | none => (0, 0)
  layout 24 [⟨0, 8, d.now⟩, ⟨8, 1, d.led.work.device.grid⟩,
    ⟨9, 1, b2n (!d.pwr.timeInvalid) + 2 * b2n (d.led.work.device.gridSource = 2) + 4 * b2n (left.1 ≠ 0)⟩, ⟨10, 1, l.nodes⟩,
    ⟨12, 4, if l.rosterSet then l.rosterEpoch else counter⟩, ⟨16, 8, if left.1 ≠ 0 then left.2 else 0⟩]

/-- A line frame gets its XID, its counter and its bytes (R1047, R1060, R1069, R1070). -/
def Dev.buildFrame (d : Dev) (f : TxLine) : Dev × TxLine :=
  let l := d.lnet
  let net := if f.role = 4 then d.formId else if l.role ≠ 0 then l.netId else l.joinNet
  let src := if l.role ≠ 0 then l.addr else 0
  let counter := if f.secured then d.keys.counter.get 0x40 0 else 0xFFFFFFFF
  let payload := if f.role = 3 then d.beaconPayload counter else f.payload
  let head := layout 22 [⟨0, 8, ownId⟩, ⟨8, 2, net⟩, ⟨10, 2, f.dest⟩, ⟨12, 2, src⟩, ⟨14, 1, f.ftype⟩,
    ⟨15, 1, b2n f.secured + 2 * b2n f.ackReq⟩, ⟨16, 2, payload.length⟩, ⟨18, 4, counter⟩]
  let body := match f.secured, d.activeKey 0x40 with
    | true, some k =>
      let x := ccmSeal k.key (lineNonce ownId counter) head payload
      x.1 ++ x.2
    | _, _ => payload
  let l := if f.role ≠ 3 then l
    else { l with rosterEpoch := if l.rosterSet then l.rosterEpoch else counter, rosterSet := true
                  dissolve := l.dissolve.map fun p => (p.1 - 1, p.2) }
  let d := d.setNet { l with xid := (l.xid + 1) % 256 }
  let d := if f.secured then { d with keys := { d.keys with counter := d.keys.counter.set 0x40 (counter + 1) } } else d
  (d, { f with src := src, counter := counter, xid := l.xid, bytes := head ++ body })

/-- Segments of a line frame (R1047). -/
def TxLine.segments (f : TxLine) : Nat := (f.bytes.length + 31) / 32

/-- The PSDU of the segment to send next (Table 22.1). -/
def TxLine.psdu (f : TxLine) : List Byte :=
  let p := layout 36 [⟨0, 1, f.next + 8 * (f.segments - 1)⟩, ⟨1, 1, f.xid⟩, ⟨2, 2, f.src⟩] |>.take 4
  let p := p ++ exactly 32 (f.bytes.drop (32 * f.next))
  p ++ leBytes 2 (psduCrc p)

/-- The head of the frames ahead of the queue, or of the queue, becomes `f`. -/
def LineNet.putHead (l : LineNet) (ahead : Bool) (f : TxLine) : LineNet :=
  if ahead then { l with urgent := f :: l.urgent.drop 1 } else { l with queue := f :: l.queue.drop 1 }

/-- The next segment of a head starts at this slot start, and reception stops for it (R1021, R1027, R1029). -/
def Dev.startSegment (d : Dev) (ahead : Bool) (f : TxLine) : Dev :=
  let (d, f) := if f.bytes.isEmpty then d.wake.buildFrame f else (d.wake, f)
  let d := d.setNet (d.lnet.putHead ahead f)
  let d := d.setPhy { d.lphy with
    tx := some ⟨d.up, d.lphy.bitClocks, ahead, f.xid⟩, lastTx := d.now, lastTxUp := some d.up, stopped := true }
  let (d, lead) := d.draw
  let (d, trail) := d.draw
  (d.emit (.linePhy (d.lphy.wave lead trail f.psdu))).noteExhausted

/-- The frame whose segment goes next: Captain's beacon, a line frame begun, an answer or a CLAIM, the queue's oldest (R1067). -/
def LineNet.pick (l : LineNet) : Option (Bool × TxLine) :=
  match l.urgent, l.queue with
  | [], [] => none
  | u :: _, [] => some (true, u)
  | [], q :: _ => if q.ackFrom.isSome then none else some (false, q)
  | u :: _, q :: _ => if u.role ≠ 3 && u.next = 0 && 0 < q.next && q.ackFrom.isNone then some (false, q) else some (true, u)

/-- A line frame waits a drawn number of eligible slot starts before its segment 0: all but ACK, JOIN_ACK, beacons and CLAIMs. -/
def TxLine.waits (f : TxLine) : Bool := f.next = 0 && f.role ≠ 3 && f.role ≠ 4 && f.ftype ≠ 4 && f.ftype ≠ 5

/-- The frame picked at a slot start is sent, waits on, or is deferred by the frame MAIN holds (R1027, R1028, R1067). -/
def Dev.offerSlot (d : Dev) (ahead : Bool) (f : TxLine) : Dev :=
  let handed := f.role = 3 || f.role = 4 || d.since f.handed (us 25)
  if !handed || !d.frameUsable f || !d.txMay || (d.memberSilent && f.role ≠ 3) then d
  else if d.lphy.rx.isSome then (if !f.waits || f.wait = some 0 then d.phyCount 44 else d)
  else
    let (d, n) := if !f.waits then (d, 0) else match f.wait with
      | some n => (d, n)
      | none => d.lfsrDraw (max 1 (if f.ftype = 3 then d.lnet.joinCw else d.curCw))
    if n = 0 then d.startSegment ahead { f with wait := some 0 }
    else d.setNet (d.lnet.putHead ahead { f with wait := some (n - 1) })

/-- At a slot start Captain's beacon counts down to its k-th slot start, and is then ahead of every other frame (R1060). -/
def Dev.beaconSlot (d : Dev) : Dev :=
  match d.lnet.beaconWait with
  | none => d
  | some (k + 1) => d.setNet { d.lnet with beaconWait := some k }
  | some 0 =>
    let b : TxLine := { dest := 0xFFFF, src := 1, ftype := 1, secured := true, ackReq := false, payload := [], role := 3, handed := d.up }
    d.setNet { d.lnet with beaconWait := none, urgent := b :: d.lnet.urgent.filter fun f => f.role ≠ 3 }

/-- At a slot start a claimant counts down to its next CLAIM, from the first slot start R1027 allows after the last one (R1056). -/
def Dev.claimSlot (d : Dev) : Dev :=
  let l := d.lnet
  if l.kstate ≠ 2 || 3 ≤ l.claims || l.urgent.any fun f => f.role = 4 then d
  else if !l.claimOpen && !(d.txMay && d.lphy.rx.isNone) then d
  else if 0 < l.claimWait then d.setNet { l with claimOpen := true, claimWait := l.claimWait - 1 }
  else
    let c : TxLine := { dest := 0xFFFF, src := 0, ftype := 2, secured := true, ackReq := false, role := 4, handed := d.up
                        payload := [BitVec.ofNat 8 (Nat.log2 l.w), BitVec.ofNat 8 (l.claims + 1)] }
    let l := l.judgeGap
    d.setNet { l with claimOpen := true, claimEnd := none, urgent := l.urgent ++ [c] }

/-- TX_SLOT_START: a slot start has come: a predicted crossing plus TX_DELAY, within the 10 µs that R1027 allows the first bit; each
slot start comes once (R1026). -/
def execTxSlotStart (s : State) : Host.Outcome State Fault Refusal :=
  let d := s.dev
  if !d.macRuns || d.lphy.tx.isSome || (d.slotNear (us 10)).isNone then s.ok d
  else
    let d := d.setPhy { d.lphy with slotUsed := d.slotNear (us 10) }
    let d := d.lineApply.beaconSlot.claimSlot.feedTunnel
    s.ok (match d.lnet.pick with
      | some (ahead, f) => d.offerSlot ahead f
      | none => d)

/-! ### A physical frame has been sent (R1029, R1032–R1034, R1067, R1069) -/

/-- A CLAIM has been sent: the gap after it begins, and the wait for the next is drawn (R1056). -/
def Dev.claimSent (d : Dev) : Dev :=
  let l := d.lnet
  if l.kstate ≠ 2 then d
  else
    let d := d.setNet { l with
      claims := l.claims + 1, claimEnd := some d.up, gapNoise := false, gapClaim := false, claimOpen := false }
    if 3 ≤ l.claims + 1 then d
    else if !d.drbgReady then d.cannotDraw
    else
      let (d, r) := d.drbgDraw
      d.setNet { d.lnet with claimWait := r % d.lnet.w }

/-- The head of the frames ahead or of the queue is over; what its line frame was for goes on. -/
def Dev.frameOver (d : Dev) (ahead : Bool) (f : TxLine) (okay : Bool) : Dev :=
  let l := d.lnet
  let l := if ahead then { l with urgent := l.urgent.drop 1 } else { l with queue := l.queue.drop 1 }
  let l := { l with cw := if okay then 0 else l.cw }
  let d := d.setNet (if f.role = 1 then l.nextPart else l)
  let d := if okay then d.netCount 96 else d
  let d := if f.role = 4 then d.claimSent else d
  let d := match f.cmd with
    | some c => if okay then d.doneWith c f.counter else d.done c stAborted
    | none => d
  d.feedTunnel

/-- The head a physical frame belongs to, unless it has been dropped meanwhile. -/
def LineNet.sent (l : LineNet) (t : TxFrame) : Option TxLine :=
  match (if t.ahead then l.urgent else l.queue) with
  | f :: _ => if f.xid = t.xid && !f.bytes.isEmpty then some f else none
  | [] => none

/-- A segment has gone out whole: the next one is handed down, or the line frame is complete, or it awaits its ACK. -/
def Dev.segmentSent (d : Dev) (t : TxFrame) : Dev :=
  match d.lnet.sent t with
  | none => d
  | some f =>
    let f := { f with next := f.next + 1, handed := d.up, shorts := 0 }
    if f.next < f.segments then d.setNet (d.lnet.putHead t.ahead f)
    else if f.ackReq then d.setNet (d.lnet.putHead t.ahead { f with ackFrom := some d.up })
    else d.frameOver t.ahead f true

/-- The transmission was shorted: it is off, and the third such attempt in a row at one segment abandons its line frame (R1034). -/
def Dev.txShorted (d : Dev) (t : TxFrame) : Dev :=
  let l := d.lphy
  let f := d.lnet.sent t
  let n := match f with | some f => f.shorts + 1 | none => 1
  let d := (d.setPhy { l with tx := none, txEnd := some d.up, txShort := true, openRun := 0 }).phyCount 48
  let d := (d.emit .lineOff).lineApply
  let d := if l.txShort then d else d.raise { code := 0x0803, cls := 1, detail := [⟨0, 2, l.loadOhms⟩, ⟨2, 1, n⟩] }
  match f with
  | some f => if n < 3 then d.setNet (d.lnet.putHead t.ahead { f with shorts := n, handed := d.up }) else d.frameOver t.ahead f false
  | none => d

/-- A load judged NORMAL or OPEN (R1032, R1033). -/
def Dev.judgeLoad (d : Dev) (ohms : Nat) : Dev :=
  let l := d.lphy
  let fs : List Fld := [⟨0, 2, min 65535 ohms⟩]
  if 2000 < ohms then
    let d := d.setPhy { l with loadOhms := min 65535 ohms, openRun := min 2 (l.openRun + 1), couplerOpen := l.couplerOpen || 1 ≤ l.openRun }
    if !l.couplerOpen && 1 ≤ l.openRun then d.raise { code := 0x0801, cls := 1, detail := fs } else d
  else
    let d := d.setPhy { l with loadOhms := ohms, openRun := 0, couplerOpen := false, txShort := false }
    if l.couplerOpen then d.raise { code := 0x0802, cls := 0, detail := fs } else d

/-- TX_FRAME_END: the physical frame's bit 335 has ended and LINE_TXEN falls; the load measured over its SSD is judged. A load below 20 Ω
ended the frame before (TX_SHORT). -/
def execTxFrameEnd (ohms : Nat) (s : State) : Host.Outcome State Fault Refusal :=
  let d := s.dev
  match d.lphy.tx with
  | none => s.ok d
  | some t =>
    if !d.units || ohms < 20 || !d.since t.since (clocks (336 * t.clocks)) then s.ok d
    else
      let d := (d.setPhy { d.lphy with tx := none, txEnd := some d.up }).phyCount 40
      let d := d.emit .lineOff
      s.ok ((d.judgeLoad ohms).lineApply.segmentSent t)

/-- TX_SHORT: the DAC's current limit is reached in a transmission (`none`), or the load measured over its SSD lies below 20 Ω (R1032,
R1034). -/
def execTxShort (ohms : Option Nat) (s : State) : Host.Outcome State Fault Refusal :=
  let d := s.dev
  match d.lphy.tx with
  | none => s.ok d
  | some t =>
    if !d.units then s.ok d
    else match ohms with
      | none => s.ok (d.txShorted t)
      | some r =>
        if r < 20 && d.since t.since (clocks (32 * t.clocks)) then s.ok ((d.setPhy { d.lphy with loadOhms := r }).txShorted t) else s.ok d

/-- ACK: an ACK completes the frame that awaits it, by SRC, XID and FCOUNTER (R1069, R1090). -/
def execAck (s : State) : Host.Outcome State Fault Refusal :=
  match s.dev.takeInbox fun t => t = 0x05 with
  | none => s.ok s.dev
  | some (d, a) =>
    s.ok (match d.lnet.queue with
      | f :: _ =>
        if f.ackFrom.isSome && f.dest = a.src && f.xid = fieldAt a.payload 0 1 && f.counter = fieldAt a.payload 1 4 then
          d.frameOver false f true
        else d
      | [] => d)

/-- ACK_TIMEOUT: 1 s has passed without an ACK; the frame goes again with CW doubled, or is given up (R1069). -/
def execAckTimeout (s : State) : Host.Outcome State Fault Refusal :=
  let d := s.dev
  match d.lnet.queue with
  | [] => s.ok d
  | f :: _ =>
    match f.ackFrom with
    | none => s.ok d
    | some t =>
      if !d.macRuns || !d.since t second then s.ok d
      else if f.tries < d.lineRetries then
        let l := { d.lnet with cw := min 64 (2 * d.curCw) }
        s.ok ((d.setNet (l.putHead false { f with next := 0, tries := f.tries + 1, wait := none, ackFrom := none })).netCount 100)
      else s.ok ((d.netCount 104).frameOver false f false)

/-! ### Captain's beacons (R1060, R1066, R1073) -/

/-- BEACON_DUE: an even second of Captain's device time has begun; a beacon is due at its k-th slot start. After the beacons with
DISSOLVE, Captain stops and merges. -/
def execBeaconDue (s : State) : Host.Outcome State Fault Refusal :=
  let d := s.dev
  let l := d.lnet
  if !d.macRuns || l.role ≠ 2 || d.lineExhausted || l.beaconSec = some (d.now / 2 ^ 31) then s.ok d
  else match l.dissolve with
    | some (0, id) =>
      let d := d.postLine 0x08 [⟨0, 8, id⟩]
      s.ok ((d.enterListen 1 l.filter (some id) false).postLine 0x01 [⟨16, 1, 2⟩])
    | _ =>
      let (d, k) := d.lfsrDraw 8
      s.ok (d.setNet { d.lnet with beaconSec := some (d.now / 2 ^ 31), beaconWait := some k })

/-- LINE_SUMMARY: every 15 minutes in RUN; NODES stands in the byte that carries reasons (R1082). -/
def execLineSummary (s : State) : Host.Outcome State Fault Refusal :=
  let d := s.dev
  if d.pwr.pstate = .run && d.serving && d.quarterDue 0x41 then
    s.ok ((d.postLine 0x0C [⟨10, 2, d.lnet.w⟩, ⟨16, 1, d.lnet.nodes⟩]).quarter 0x41)
  else s.ok d

/-! ### Commands (R1035, R1054, R1080, R1081) -/

/-- LINE_SEND (0x00B0). -/
def execLineSend (x : Desc) (s : State) : Host.Outcome State Fault Refusal :=
  s.ok (s.dev.command x { opcode := 0x00B0, feature := some 5, entry := some 0x44 } (fun d _ => d.lnet.role) fun d _ =>
    let dest := x.arg 24 2
    let ty := x.arg 26 1
    let sec := bitOf (x.arg 27 1) 0
    let ack := bitOf (x.arg 27 1) 1
    let app := 0x20 ≤ ty && ty ≤ 0x7F
    if !(app || (ty = 0x10 && d.lnet.role = 2)) || (if sec then 194 else 202) < x.len || (ack && dest = 0xFFFF) || dest = 0 then
      d.done x.ref stBadArg
    else d.withInput x fun bs =>
      if d.lnet.role = 0 then d.done x.ref stNotReady
      else if sec && d.lineExhausted then d.done x.ref stExhausted
      else if 8 ≤ (d.lnet.queue.filter fun f => f.role = 0 && f.cmd.isSome).length then d.done x.ref stBusy
      else
        let f : TxLine := { dest := dest, src := 0, ftype := ty, secured := sec, ackReq := ack, payload := exactly x.len bs
                            cmd := some x.ref, handed := d.up }
        d.setNet { d.lnet with queue := d.lnet.queue ++ [f] })

/-- LINE_JOIN (0x00B1) ends a role held and enters LISTEN. -/
def execLineJoin (x : Desc) (s : State) : Host.Outcome State Fault Refusal :=
  s.ok (s.dev.command x { opcode := 0x00B1, feature := some 5, entry := some 0x44 } (fun d _ => d.lnet.role) fun d _ =>
    let mode := x.arg 24 1
    if 1 < mode then d.done x.ref stBadArg
    else if (d.activeKey 0x40).isNone then d.done x.ref stNotReady
    else
      let d := if d.lnet.role ≠ 0 then d.postLine 0x07 [⟨16, 1, 3⟩] else d
      let d := d.setNet { d.lnet with w := 64 }
      let d := d.enterListen (if d.pwr.hostmode then mode else 0) (x.arg 26 2) none false
      (d.postLine 0x01 []).done x.ref stOK)

/-- LINE_STATUS (0x00B2): the block of Tables 21.5 and 22.8. -/
def execLineStatus (x : Desc) (s : State) : Host.Outcome State Fault Refusal :=
  s.ok (s.dev.command x { opcode := 0x00B2, feature := some 5, entry := some 0x44 } (fun d _ => d.lnet.role) fun d _ =>
    if x.len < 128 then d.done x.ref stBadArg
    else
      let p := d.lineResume.lphy
      let l := d.lnet
      let flags := b2n p.rx.isSome + 2 * b2n (!d.volt.healthA.good) + 4 * b2n (d.trk.state = .search) + 8 * b2n p.txEnable +
        16 * b2n p.couplerOpen + 32 * b2n p.txShort + 64 * b2n p.agcFixed
      let phy : List Fld := [⟨0, 1, p.rate⟩, ⟨1, 1, p.step⟩, ⟨2, 1, flags⟩, ⟨3, 1, levelField p.lastLevel⟩, ⟨4, 4, fieldAt p.applied 2 4⟩,
        ⟨8, 1, fieldAt p.applied 6 1⟩, ⟨10, 2, p.loadOhms⟩, ⟨12, 2, fieldAt p.applied 8 2⟩, ⟨56, 8, p.lastTx⟩] ++
        [16, 20, 24, 28, 32, 36, 40, 44, 48].map fun o => ⟨o, 4, p.counts.get o 0⟩
      let net : List Fld := [⟨64, 1, l.role⟩, ⟨65, 1, l.kstate⟩, ⟨66, 2, l.netId⟩, ⟨68, 2, l.addr⟩, ⟨70, 2, l.w⟩, ⟨72, 8, l.captainId⟩,
        ⟨80, 8, l.lastBeacon⟩, ⟨88, 4, l.rosterEpoch⟩, ⟨92, 1, l.nodes⟩, ⟨94, 2, (l.roster.keys.filter fun a => 0x100 ≤ a).length⟩] ++
        ([96, 100, 104, 108, 112, 116, 120].map fun o => (⟨o, 4, l.counts.get o 0⟩ : Fld)) ++ [⟨124, 4, l.tunDropped⟩]
      (d.output x (layout 128 (phy ++ net))).done x.ref stOK)

end Sys2Proof.Machine
end

