-- ==== Sys2Proof/Machine/Recall.lean ====
section
/-!
DEFINITION. Machine/Recall.lean: what a cut leaves in the stores, power-up after a reset, HOLD or a clock loss, and the two
recalls (chapters 2, 7, 11, 12, 13, 14 and 15).
-/
namespace Sys2Proof.Machine

/-! ### A write cut short (R581, R588, R606–R608, R1155) -/

/-- The ledger write in progress stops somewhere: blocks of copy A, then of copy B, COMMIT last in each (R566), are written up
to a point the manual leaves open, and the block at that point may be left with a CRC that does not match. -/
def Dev.cutLedger (d : Dev) : Dev :=
  match d.led.writing with
  | none => d
  | some w =>
    let ids := w.blocks ++ [0x0001]
    let (d, m) := d.draw
    let (d, h) := d.draw
    let n := m % (2 * ids.length + 1)
    let half := fun (c : Copy) (id : Option Nat) => match id with
      | some b => if h % 2 = 1 then { c with crcBad := c.crcBad ++ [b] } else c
      | none => c
    let a := (ids.take n).foldl (fun (c : Copy) id => c.write w id) d.led.a
    let b := (ids.take (n - ids.length)).foldl (fun (c : Copy) id => c.write w id) d.led.b
    { d with led := { d.led with
      writing := none
      a := half a (ids[n]?)
      b := if ids.length ≤ n then half b (ids[n - ids.length]?) else b } }

/-- A slot in a sector whose erase is cut short: its contents are undefined (R588), so that it stands as it was, or reads as a slot
that is not valid under any SSEQ, or is gone. -/
def Dev.cutSlot (d : Dev) (g : Nat) (x : Slot) : Dev × List Slot :=
  if (slotSectors (d.ringSectors g) g x.sector).any fun s => d.store.erasing.contains s then
    let (d, n) := d.draw
    (d, if n % 3 = 0 then [x] else if n % 3 = 1 then [{ x with done := false, sseq := n / 3 % 2 ^ 32 }] else [])
  else (d, [x])

/-- The erases in progress are cut short. -/
def Dev.cutErases (d : Dev) : Dev :=
  if d.store.erasing.isEmpty then d
  else
    let d := d.each (span 2 9) fun d g =>
      let (d, l) := (d.slotsOf g).foldl (fun (p : Dev × List Slot) x =>
        let (d, l) := p.1.cutSlot g x
        (d, p.2 ++ l)) (d, [])
      { d with store := { d.store with slots := d.store.slots.set g l } }
    { d with store := { d.store with erasing := [] } }

/-- The config store stops: a program cut short leaves a slot with DONE erased and its other bytes open, one that names no group
standing with SSEQ 0; an erase cut short leaves its sectors unreliable; writes that have not begun are gone. -/
def Dev.cutConfig (d : Dev) : Dev :=
  let d := match d.store.executing with
    | none => d
    | some x =>
      if d.waitsErase x.w.group then d
      else if x.w.group = 0x0B then d.putBadKey
      else
        let (d, n) := d.draw
        let d := d.programSlot x.w.group x.payload false
        { d with store := { d.store with slots := d.store.slots.set x.w.group (match d.slotsOf x.w.group with
          | s :: t => { s with sseq := n % 2 ^ 32 } :: t
          | [] => []) } }
  let d := d.cutErases
  { d with store := { d.store with executing := none, queue := [], refresh := [], due := [] } }

/-! ### Power-up (R51, R117, R119, R120, R175, R535, R756, R959, R1156, R1205) -/

/-- What the always-on domain and the two stores keep; everything else starts afresh. -/
def Dev.keptOver (d : Dev) : Dev :=
  let p := d.pwr
  { pwr := { up := p.up, rtc := p.rtc, mcount := p.mcount, coarse := p.coarse, slew := p.slew, slewFrac := p.slewFrac, timeInvalid := p.timeInvalid
             rtcSource := p.rtcSource, rcTicks := p.rcTicks, rcLong := p.rcLong, hostmode := p.hostmode, twtA0 := p.twtA0, twtA1 := p.twtA1
             testmode := p.testmode, mainsOk := p.mainsOk, lostOwed := p.lostOwed, holdTime := p.holdTime, wasHeld := p.wasHeld
             backupTime := p.backupTime, recallAbandoned := p.recallAbandoned }
    led := { a := d.led.a, b := d.led.b }
    store := { slots := d.store.slots, keys := d.store.keys, rings := d.store.rings, retired := d.store.retired
               sparesUsed := d.store.sparesUsed, sparesPosted := d.store.sparesPosted, dirty := d.store.dirty
               factoryBad := d.store.factoryBad }
    tam := d.tam
    cal := { calEn := d.cal.calEn, aonHigh := d.cal.aonHigh, aonRun := d.cal.aonRun }
    host := { downSince := p.up }
    free := d.free, out := d.out }

/-- Mains returns: a stretch of more than 10 s on the RC oscillator since it was last present makes time invalid (R101). -/
def Dev.judgeRc (d : Dev) : Dev :=
  { d with pwr := { d.pwr with timeInvalid := d.pwr.timeInvalid || d.pwr.rcLong, rcLong := false, rcTicks := 0 } }

/-- The power-up sequence begins: power-up Backstop, every pulse output low, and step 3 of Table 2.5; with MAINS_OK low, or
TESTMODE high, the LY64 stays at step 2. Where HOLD came before, mains returns with it (R101). -/
def Dev.powerUp (d : Dev) (mains : Bool) : Dev :=
  let now := d.now
  let was := d
  let d := d.keptOver
  let d := { d with pwr := { d.pwr with mainsOk := mains, backSince := now } }
  let d := (d.each (List.range 8) fun d o => d.emit (.pulse o false false)).mclkEdges was
  if mains && !d.pwr.testmode then
    let d := { d with pwr := { d.pwr with coarse := false } }
    d.when d.pwr.wasHeld Dev.judgeRc
  else
    let began := !mains && !d.pwr.wasHeld
    { d with pwr := { d.pwr with
      pstate := .hold, step := .held
      holdTime := if began then now else d.pwr.holdTime
      backupTime := if began then 0 else d.pwr.backupTime
      wasHeld := d.pwr.wasHeld || !mains } }

/-- The straps are sampled at the end of a reset (R58, R984, R1191). -/
def Dev.sampleStraps (d : Dev) (p : Straps) : Dev :=
  { d with pwr := { d.pwr with hostmode := p.hostmode, twtA0 := p.a0, twtA1 := p.a1, testmode := p.testmode } }

/-- ALWAYS_ON_POR: VDD33 or VBAT is applied after both were lost: device time starts from 0 and is invalid, and the tamper unit
starts anew (R100, R728, R730, R735, R1210). A HOLD that came before is still one that MAINS_RETURN follows (R116; DEDUCED,
assumption 116). -/
def execAlwaysOnPor (p : Straps) (mainsOk : Bool) (s : State) : Host.Outcome State Fault Refusal :=
  let d := s.dev
  if d.pwr.pstate ≠ .off then s.ok d
  else
    let d := { d with
      pwr := { d.pwr with up := d.up, rtc := 0, mcount := 0, coarse := false, slew := 0, slewFrac := 0, timeInvalid := true, rtcSource := .startup, rcTicks := 0
                          rcLong := false, recallAbandoned := false, lostOwed := 0 }
      tam := { windowBase := d.up }
      cal := { d.cal with aonHigh := false, aonRun := 0 } }
    s.fresh ((d.sampleStraps p).powerUp mainsOk)

/-- RESET_N: a low pulse of at least 10 µs resets everything but the always-on domain; one of 8 µs to 10 µs does, or is
ignored; a shorter one is ignored (R1155, R1156). Writes in progress are cut short. -/
def execResetN (p : Straps) (mainsOk : Bool) (micros : Nat) (s : State) : Host.Outcome State Fault Refusal :=
  let d := s.dev
  if d.pwr.pstate = .off || d.pwr.pstate = .backup || micros < 8 then s.ok d
  else
    let (d, n) := if micros < 10 then d.draw else (d, 1)
    if n % 2 = 0 then s.ok d
    else s.fresh ((d.cutLedger.cutConfig.sampleStraps p).powerUp mainsOk)

/-! ### Config recall (R520, R589–R593, Table 12.12) -/

/-- A bad word is known from here on: in a FACTORY copy, a KEYS record or a slot. -/
def Dev.markSlot (d : Dev) (b : SlotBad) : Dev :=
  if b.sector < 2 then
    { d with store := { d.store with
      factoryBad := if d.store.factoryBad.contains b.sector then d.store.factoryBad else d.store.factoryBad ++ [b.sector] } }
  else { d with store := { d.store with
    keys := d.store.keys.map fun (k : KeyRec) => if k.sector = b.sector && k.place = b.place then { k with bad := true } else k
    slots := d.store.slots.mapV fun l => l.map fun (x : Slot) =>
      if x.sector = b.sector && x.place = b.place then (if b.hdr then { x with hdrBad := true } else { x with bad := true }) else x } }

/-- Some slot of a group with a readable header lies in a sector. -/
def Dev.namesGroup (d : Dev) (g sector : Nat) : Bool :=
  (d.slotsOf g).any fun x => !x.hdrBad && x.sector ≤ sector && sector < x.sector + sectorsPerSlot g

/-- A header with an uncorrectable word counts among a group's slots: its sector's readable headers name the group, or there
are none and Table 12.9 allocates the sector to it (R589). -/
def Dev.strayIn (d : Dev) (g : Nat) (b : SlotBad) : Bool :=
  b.hdr && !d.store.retired.contains b.sector &&
    (d.namesGroup g b.sector || ((span 2 9).all (fun h => !d.namesGroup h b.sector) && (tableSectors g).contains b.sector))

/-- Block `key` of a group's payload, where the payload holds it whole (R520). -/
def wholeBlock (g key : Nat) (p : List Byte) : Option (List Byte) :=
  let s := keySpan g key
  if s.1 + s.2 ≤ p.length then some ((p.drop s.1).take s.2) else none

/-- A recalled payload goes into the working registers. -/
def Dev.recallGroup (d : Dev) (g : Nat) (p : List Byte) : Dev :=
  match g with
  | 0x02 =>
    let d := { d with cal := { d.cal with cabinet := (wholeBlock 2 0 p).getD d.cal.cabinet } }
    let d := d.each ((List.range 4).filter fun x => d.dmMode x = 2) fun d x => d.updDm x fun m => { m with unlockedSince := d.up }
    d.each [0, 1] fun d c => match wholeBlock 2 (c + 1) p with
      | some b => { d with cal := { d.cal with volt := d.cal.volt.set c b } }
      | none => d
  | 0x03 => d.each (List.range 196) fun d c => match wholeBlock 3 c p with
      | some b => if b = defChan c then d else { d with cal := { d.cal with chan := d.cal.chan.set c b } }
      | none => d
  | 0x04 => d.each accounts fun d a => match wholeBlock 4 a p with
      | some b => if b.drop 1 = (d.acct a).block.drop 1 then d
        else { d with accts := d.accts.set a { d.acct a with block := b } }
      | none => d
  | 0x05 => if 32 ≤ p.length then { d with pq := { d.pq with group := p.take 32 } } else d
  | 0x06 => d.each (List.range 8) fun d o => match wholeBlock 6 o p with
      | some b => if plsAccount b = 0xFF then d
        else d.updPulse o fun x => { x with block := pasteAt b 3 [BitVec.ofNat 8 (fieldAt b 3 1 / 2 * 2)] }
      | none => d
  | 0x07 => { d with store := { d.store with due := d.store.due ++ [{ group := 0x07, key := 0, block := p, cmd := none }] } }
  | 0x08 => if 64 ≤ p.length then { d with host := { d.host with groupBytes := p.take 64 } } else d
  | 0x09 => if 64 ≤ p.length then d.setPhy { d.lphy with params := p.take 64 } else d
  | 0x0A => { d with store := { d.store with package := some p } }
  | _ => d

/-- One group is recalled from its newest valid slot; what was skipped is CONFIG_FALLBACK, and a group with slots and no valid
one is CONFIG_GROUP_LOST. -/
def Dev.recallSlots (d : Dev) (bad : List SlotBad) (g : Nat) : Dev :=
  let l := d.slotsOf g
  let known := d.store.slots.cells.flatMap fun p => (p.2.filter Slot.hdrBad).map fun x => (⟨x.sector, x.place, true⟩ : SlotBad)
  let stray := (bad ++ known).find? fun b => d.strayIn g b
  match d.newestSlot g with
  | some v =>
    let skipped := l.find? fun x => !x.valid && !x.hdrBad && x.sseq > v.sseq
    let d := d.recallGroup g v.payload
    if skipped.isNone && stray.isNone then d
    else
      let at_ := match skipped with | some x => x.sector | none => (stray.map SlotBad.sector).getD 0
      let d := if g = 0x0A then { d with store := { d.store with packageFallback := true } } else d
      d.raise (d.configErr 0x0202 1 g at_ 0 v.sseq (crc32 v.payload) 0)
  | none =>
    if (l.all fun x => x.hdrBad || (!x.done && x.sseq = 0)) && stray.isNone then d
    else
      let at_ := match l with | x :: _ => x.sector | [] => (stray.map SlotBad.sector).getD 0
      (({ d with store := { d.store with lost := d.store.lost ++ [g] } } : Dev)).raise (d.configErr 0x0203 1 g at_ 0 0 0 0)

/-- The FACTORY copies: one bad falls back on the other; with both, reference tests do not run (Table 12.12). -/
def Dev.recallFactory (d : Dev) : Dev :=
  match d.store.factoryBad with
  | [] => d
  | [x] => d.raise (d.configErr 0x0202 0 0x01 x 0 0 0 0)
  | x :: _ => ({ d with store := { d.store with factoryLost := true } } : Dev).raise (d.configErr 0x0207 1 0x01 x 0 0 0 0)

/-- CONFIG_RECALL_DONE: step 3 of Table 2.5 ends; `bad` lists the slots, records and headers found with an uncorrectable
word. -/
def execConfigRecallDone (bad : List SlotBad) (s : State) : Host.Outcome State Fault Refusal :=
  let d := s.dev
  if d.pwr.step ≠ .configRecall || d.pwr.pstate ≠ .run || !d.pwr.metClock then s.ok d
  else
    let d := (d.each bad Dev.markSlot).recallFactory
    let d := d.each (span 2 9) fun d g => d.recallSlots bad g
    let d := (d.setPhy { d.lphy with applied := d.lineParams }).mclkEdges s.dev
    s.ok { d with pwr := { d.pwr with step := .ledgerRecall, configAt := d.up } }

/-! ### Ledger recall (R560, R570, R571, R1212, Table 12.8, Table 12.12) -/

/-- A block copy is valid (R560). -/
def Copy.holds (c : Copy) (id : Nat) : Bool := !c.hard.contains id && !c.crcBad.contains id

/-- The SEQ of a block of a copy; COMMIT has its own. -/
def Copy.seqOf (c : Copy) (id : Nat) : Nat := if id = 0x0001 then c.seq else c.seqs.get id 0

/-- One more than the highest SEQ of a copy's valid blocks; 0 where it has none. -/
def Copy.top (c : Copy) : Nat := (0x0001 :: blockIds).foldl (fun m id => if c.holds id then max m (c.seqOf id + 1) else m) 0

/-- A bad block copy is known from here on. -/
def Dev.markBlock (d : Dev) (b : BlockBad) : Dev :=
  let f := fun (c : Copy) => if b.hard then { c with hard := c.hard ++ [b.block] } else { c with crcBad := c.crcBad ++ [b.block] }
  { d with led := if b.copyB then { d.led with b := f d.led.b } else { d.led with a := f d.led.a } }

/-- The source copy is B, the source SEQ, and COMMIT was lost in both copies (steps 1 and 2, R571). -/
def Ledger.source (l : Ledger) : Bool × Nat × Bool :=
  match l.a.holds 1, l.b.holds 1 with
  | true, true => if l.b.seq > l.a.seq then (true, l.b.seq, false) else (false, l.a.seq, false)
  | true, false => (false, l.a.seq, false)
  | false, true => (true, l.b.seq, false)
  | false, false => if l.b.top > l.a.top then (true, l.b.top - 1, true) else (false, l.a.top - 1, true)

/-- A copy's block meets the test of step 3 under a source SEQ. -/
def Copy.meets (c : Copy) (seq id : Nat) : Bool := c.holds id && c.seqOf id ≤ seq

/-- What a block lost in both copies becomes at recall (Table 12.12). -/
def Dev.loseBlock (d : Dev) (id : Nat) : Dev :=
  let w := d.led.work
  if id = 0x0002 then
    let ver := match d.store.package with | some p => fieldAt p 8 8 | none => 0
    let b : SealBlk := { calEvents := 0xFFFFFFFF, pkgVersion := ver }
    d.setWork { w with sealBlk := [0, 1, 2].foldl (fun (b : SealBlk) j => b.mark j (d.slotMark (2 + j))) b }
  else if id = 0x0003 then d.setWork { w with device := {} }
  else if id = 0x0004 then d.setWork { w with pulse := {} }
  else if id = 0x0005 then d.setWork { w with errors := {} }
  else if id = 0x0006 then
    let d := d.setWork { w with counters := {} }
    { d with led := { d.led with countersLost := List.range 65 } }
  else if id = 0x0007 then d.setWork { w with keyptr := {} }
  else if id = 0x0008 then d.setWork { w with tamper := Tbl.ofFn (List.range 256) fun _ => { lost := true } }
  else if id < 0x0200 then
    let a := id - 0x0100
    let d := d.updLegal a fun _ => { cfg := cfgOf (d.acct a).block, fresh := true, freshSince := d.now }
    { d with led := { d.led with legalLost := d.led.legalLost ++ [a] } }
  else if id < 0x0300 then
    let (d, n) := d.draw
    d.updOpen (id - 0x0200) fun _ =>
      { relayClosed := n % 2 = 1, relayValid := n / 2 % 2 = 1, openLost := true }
  else d.setWork { w with recovery := w.recovery.set (id - 0x0300) {} }

/-- Counts made before the ERRORS block was recalled are added to it. -/
def ErrBlk.plus (b c : ErrBlk) : ErrBlk :=
  { b with
    count := c.count.cells.foldl (fun (t : Tbl Nat) p => t.upd p.1 0 fun n => sat32 (n + p.2)) b.count
    classCount := c.classCount.cells.foldl (fun (t : Tbl Nat) p => t.upd p.1 0 fun n => sat32 (n + p.2)) b.classCount
    firstCode := c.firstCode.cells.foldl (fun (t : Tbl Nat) p => if b.classCount.get p.1 0 = 0 then t.set p.1 p.2 else t) b.firstCode }

/-- The working values are loaded: each block from the source copy, or from the other, or as lost; with every block's SEQ, and
the blocks lost. -/
def Dev.loadWork (d : Dev) (useB : Bool) (seq : Nat) : Dev × List Nat :=
  let src := if useB then d.led.b else d.led.a
  let oth := if useB then d.led.a else d.led.b
  let fromOther := blockIds.filter fun id => !src.meets seq id && oth.meets seq id
  let lost := blockIds.filter fun id => !src.meets seq id && !oth.meets seq id
  let early := d.led.work.errors
  let img := fromOther.foldl (fun (m : Image) id => m.put oth.img id) src.img
  let seqs := lost.foldl (fun (t : Tbl Nat) id => t.set id seq)
    (fromOther.foldl (fun (t : Tbl Nat) id => t.set id (oth.seqOf id)) src.seqs)
  let d := { d with led := { d.led with work := img, lastSeqs := seqs, lastSeq := seq, repairDue := true } }
  let d := d.each lost Dev.loseBlock
  (d.updErr fun b => b.plus early, lost)

/-- The copies found not valid are posted and counted: lost blocks by their own errors, others as LEDGER_COPY_RESTORED but for
the expected trace of a commit cut short (R1212). -/
def Dev.reportBlocks (d : Dev) (useB : Bool) (seq : Nat) (commitLost : Bool) (lost : List Nat) : Dev :=
  let src := if useB then d.led.b else d.led.a
  let oth := if useB then d.led.a else d.led.b
  let cut := !src.final || !oth.holds 1 || oth.seq < seq
  let d := if commitLost then d.raise (ledgerErr 0x0105 0x0001 true true 1 seq 0 0xFF 0 0) else d
  let bad := fun (c : Copy) (id : Nat) => !c.meets seq id && !(cut && !c.hard.contains id)
  d.each (0x0001 :: blockIds) fun d id =>
    if id = 0x0001 && commitLost then d
    else if lost.contains id then
      d.raise (ledgerErr (lostCode id) id true true 1 0 0 0xFF 0 (if id < 0x0200 then (d.legal (id - 0x0100)).freshSince else 0))
    else if bad d.led.a id || bad d.led.b id then
      let c := if bad d.led.a id then d.led.a else d.led.b
      d.raise (ledgerErr 0x0102 id (bad d.led.a id) (bad d.led.b id) 1 (if c.holds id then c.seqOf id else 0) 0 0xFF 0 0)
    else d

/-- Recalled energy reaches an output as ACC and pending pulses: none is emitted before the first commit tick (R535, R537). -/
def Dev.recallPulses (d : Dev) (a r e : Nat) : Dev :=
  d.each d.pulses.keys fun d o =>
    let b := (d.pulse o).block
    if plsAccount b = a && plsQuantity b = r then
      let sum := d.pulseAcc o + plsConst b * e
      let n := min (2 ^ 32 - 1) (d.pulsePending o + (sum / pulseP).toNat)
      d.setPulseBlk fun p => { p with acc := p.acc.set o (sum % pulseP), pending := p.pending.set o n }
    else d

/-- The INFILTER energies of an account are released as one sample energy each, under its CFG (step 5 of Table 12.8). -/
def Dev.recallInfilter (d : Dev) (a : Nat) : Dev :=
  let l := d.legal a
  let d := d.each [0, 1, 2] fun d k =>
    let e := fun q => l.infilter.get (3 * k + q) 0
    let ph := l.cfg.ph.get k 0xFF
    d.each (routing (l.cfg.dirmode = 2) (e 0) (e 1) 0 (e 2) (if ph ≤ 2 then [(ph, e 0, e 2)] else [])) fun d x =>
      let n := x.2.toNat * 2 ^ 16
      let d := (d.addLegal a x.1 n).recallPulses a x.1 n
      if x.1 < 2 then d.fileRate a x.1 n else d
  let d := { d with accts := d.accts.set a { d.acct a with secImport := 0 } }
  d.updLegal a fun l => { l with infilter := {} }

/-- A POWER record that records cannot carry yet (R115, R116, R134). -/
def Dev.owePower (d : Dev) (event : Nat) (fs : List Fld) : Dev :=
  { d with pwr := { d.pwr with owed := d.pwr.owed ++ [⟨event, d.now, fs⟩] } }

/-- The source copy is not FINAL: energies in the filters are released, and HOLDUP_SHORT is owed unless HOLD abandoned the
recall before (R115, R132, R571). -/
def Dev.recallShort (d : Dev) (short : Bool) (seq : Nat) : Dev :=
  let owe := short && !d.pwr.recallAbandoned
  let d := { d with pwr := { d.pwr with recallAbandoned := false } }
  if !short then d
  else
    let d := d.each ((d.led.work.legal.cells.filter fun p => !p.2.infilter.cells.isEmpty).map Prod.fst) Dev.recallInfilter
    if owe then d.owePower 0x11 [⟨8, 8, seq⟩] else d

/-- The configuration block that an account's CFG gives, open fields at their defaults (R591). -/
def blockOfCfg (a : Nat) (c : AcctCfg) : List Byte :=
  layout 32 ([⟨0, 1, a⟩, ⟨1, 1, c.conn⟩, ⟨2, 1, c.dirmode⟩, ⟨3, 1, c.target⟩, ⟨18, 1, 0xFF⟩] ++
    fieldsOf 3 4 2 2 (fun k => c.ch.get k 0xFFFF) ++ fieldsOf 3 10 1 1 fun k => c.ph.get k 0xFF)

/-- ACCOUNTS is lost, or has no slot while some CFG is not that of an UNUSED account: sealed fields come from CFG (R590,
R591). -/
def Dev.recallAccounts (d : Dev) : Dev :=
  let never := (d.slotsOf 0x04).isEmpty && !d.store.lost.contains 0x04 && d.led.work.legal.cells.any fun p => p.2.cfg != {}
  if !never && !d.store.lost.contains 0x04 then d
  else
    let d := d.each d.led.work.legal.cells fun d p =>
      { d with accts := d.accts.set p.1 { d.acct p.1 with block := blockOfCfg p.1 p.2.cfg } }
    if never then d.raise (d.configErr 0x0203 1 0x04 ((d.ringSectors 0x04).getD 0 0) 0 0 0 0) else d

/-- KEYS records in force that hold an uncorrectable word are treated as empty, and posted (R668, Table 12.12). -/
def Dev.recallKeys (d : Dev) : Dev :=
  d.each ((List.range 132).filterMap fun i =>
      (d.store.keys.filter fun k => k.done && 2 * k.owner + k.slot = i).foldl
        (fun (m : Option KeyRec) k => match m with | some x => if x.sseq < k.sseq then some k else m | none => some k) none)
    fun d k => if !k.bad then d
      else d.raise { code := 0x0501, cls := if (d.keyPtr k.owner).active = k.slot then 2 else 1, region := 7,
                     detail := [⟨0, 1, k.owner⟩, ⟨1, 1, k.slot⟩, ⟨4, 4, k.gen⟩] }

/-- Sealed groups whose slot differs from the SEAL block are posted; the repair commit counts them once (R592). -/
def Dev.recallSeal (d : Dev) : Dev :=
  d.each d.sealDiffers fun d j =>
    let m := d.slotMark (2 + j)
    let at_ := match d.newestSlot (2 + j) with | some x => x.sector | none => (d.ringSectors (2 + j)).getD 0 0
    d.raise (d.configErr 0x0206 1 (2 + j) at_ 0 m.1 m.2 (d.led.work.sealBlk.grpPcrc.get j 0))

/-- Entries of the always-on log that the source already took in are cleared; the rest is taken in at the repair commit (R739,
R745, R755). The counts recalled are those last announced. -/
def Dev.recallTamper (d : Dev) (seq : Nat) : Dev :=
  let kept := d.tam.log.filter fun e => !(e.taken && (seq + 2 ^ 32 - e.pseq % 2 ^ 32) % 2 ^ 32 < 2 ^ 31)
  { d with tam := { d.tam with
    announced := d.led.work.tamper.mapV TSlot.count, starts := []
    log := kept.map fun (e : TamEntry) => { e with taken := false, pseq := 0 } } }

/-- The seconds of a metrology clock loss are added to the unmetered-seconds registers of the feeder and of every tenant in
METERING, and XTM_LOST is owed (R134). -/
def Dev.recallLostClock (d : Dev) : Dev :=
  let n := d.pwr.lostOwed
  if n = 0 then d
  else
    let met := d.accts.keys.filter fun a => a < 64 && d.targeted a && !d.suspended a && !d.faultHold a
    let d := d.each (met ++ [64]) fun d a => d.addUnmetered a (16000 * n)
    ({ d with pwr := { d.pwr with lostOwed := 0 } } : Dev).owePower 0x14 [⟨4, 4, n⟩]

/-- What starts from the recalled values: epochs, counters at their ceilings, account states, relay commands and the hold of
the grid state (R340, R647, R684, R1064). -/
def Dev.startWork (d : Dev) : Dev :=
  let d := d.each accounts fun d a => d.updOpen a fun o => { o with epoch := nextEpoch o.epoch }
  let c := d.led.work.counters
  let ctr := c.tceil.cells.foldl (fun (t : Tbl Nat) p => t.set p.1 p.2) (if c.lceil = 0 then {} else ({} : Tbl Nat).set 0x40 c.lceil)
  let d := { d with keys := { d.keys with counter := ctr } }
  let d := d.each d.accts.keys fun d a =>
    { d with accts := d.accts.set a { d.acct a with shown := d.stateOf a, susp := d.suspended a } }
  let d := { d with pwr := { d.pwr with loadedAt := d.now } }
  let d := d.setTariff { d.tariff with relaysOn := true }
  let d := d.each (d.accts.keys.filter fun a => (d.openBlk a).relayValid && blkLink (d.acct a).block ≠ 0xFF) fun d a =>
    d.sendRelay (blkLink (d.acct a).block) (blkRelay (d.acct a).block)
  let v := d.led.work.device
  let d := if v.gridHeld then d
    else d.setWork { d.led.work with device := { v with grid := d.fallbackGrid, gridSource := 2 } }
  let age := timeDiff d.now v.arrival
  d.setTariff { d.tariff with
    arrivedAt := if v.gridHeld && !d.pwr.timeInvalid && 0 ≤ age then some ((d.up : Int) - age) else none }

/-- LEDGER_RECALL_DONE: step 4 of Table 2.5 ends: READY. `bad` lists the block copies that are not valid. The power-up test of
the converters begins (R279), and a GO held is judged (R1133). -/
def execLedgerRecallDone (bad : List BlockBad) (s : State) : Host.Outcome State Fault Refusal :=
  let d := s.dev
  if d.pwr.step ≠ .ledgerRecall || d.pwr.pstate ≠ .run || !d.pwr.metClock then s.ok d
  else
    let d := d.each bad Dev.markBlock
    let (useB, seq, commitLost) := d.led.source
    let short := commitLost || !(if useB then d.led.b else d.led.a).final
    let (d, lost) := d.loadWork useB seq
    let d := { d with led := { d.led with last := d.led.work } }
    let d := d.reportBlocks useB seq commitLost lost
    let d := d.each (lost.filter fun id => 0x0200 ≤ id && id < 0x0300) fun d id =>
      d.updTst (id - 0x0200) fun t => { t with tflags := withFlag t.tflags tfUnknown true }
    let d := (d.recallShort short seq).recallAccounts.recallKeys.recallSeal
    let d := ((d.recallTamper seq).recallLostClock).startWork
    let d := { d with pwr := { d.pwr with step := .ready, recallAt := d.up } }
    let d := d.startTest 1 none
    let held := d.host.goHeld
    let d := { d with host := { d.host with goHeld := false } }
    s.ok (if held then d.judgeGo else d)

end Sys2Proof.Machine
end

