-- ==== Sys2Proof/Machine/Power.lean ====
section
/-!
DEFINITION. Machine/Power.lean: the power states, the clocks, the start of accumulation, the fast domain's wakes and faults, and
entry into Backstop (chapters 1, 2 and 23).
-/
namespace Sys2Proof.Machine

/-! ### After recall (R61, R116, R118, R168, R279, R361, R389, R402, R477) -/

/-- POWER_UP_TEST_END: the 20 ms of the power-up test are over, and its outcome takes effect. -/
def execPowerUpTestEnd (s : State) : Host.Outcome State Fault Refusal :=
  let d := s.dev
  match d.volt.test with
  | some t =>
    if d.units && t.kind = 1 && t.since + ms 20 ≤ d.up then
      let x := d.testChecks
      let o := d.testOutcome x
      s.ok (d.applyOutcome 1 o (testFields o 1 0xFF x))
    else s.ok d
  | none => s.ok d

/-- A POWER record that power-up owes is posted, or waits for the negotiation that ends the power-up Backstop. -/
def Dev.powerOrOwe (d : Dev) (event : Nat) (fs : List Fld) : Dev :=
  if d.serving then d.postPower event fs else d.owePower event fs

/-- Accumulation begins with its units at their starting points, and the time of pairs and links that deliver nothing counts
from here. -/
def Dev.beginAccum (d : Dev) : Dev :=
  let d := { d with pwr := { d.pwr with accum := true }, core := { tune := (second / d.fnom : Nat) }
                    pq := { d.pq with cls := 0, candRun := 0, bal := {}, secOn := false, secTouched := true } }
  let d := d.setVolt { d.volt with persist := 0 }
  let d := d.setTariff { d.tariff with restart := true }
  let d := d.setTrk { d.trk with opened := d.up - pathDelay, lastAccepted := none }
  let d := d.enterSearch 0 (([0, 1, 2].find? fun c => d.vinUsed c).getD 0)
  let d := d.each (d.accts.keys.filter d.advances) fun d a =>
    (d.each (d.lostPairs a) fun d k => d.updPair a k fun p => { p with lostSince := some d.up }).judgeUnmetered a
  d.each ((List.range 16).filter fun n => !(d.link n).released && d.metered (linkChannels n) true) fun d n =>
    d.setLink n { d.link n with lostSince := some d.up }

/-- ACCUMULATION_START: step 6 of Table 2.5: 40 ms after both voltage is present (R118) and step 4 is done. MAINS_RETURN follows a
HOLD. -/
def execAccumulationStart (s : State) : Host.Outcome State Fault Refusal :=
  let d := s.dev
  let testing := match d.volt.test with | some t => t.kind = 1 | none => false
  let present := d.pwr.presentSince.any fun t => d.since (max t d.pwr.recallAt) (ms 40)
  if !d.units || d.pwr.accum || testing || d.volt.serving = 2 || !present then s.ok d
  else
    let d := d.beginAccum
    if !d.pwr.wasHeld then s.ok d
    else
      let d := d.powerOrOwe 0x10 [⟨8, 8, d.pwr.holdTime⟩, ⟨16, 8, d.pwr.backupTime⟩, ⟨24, 8, d.now⟩]
      s.ok { d with pwr := { d.pwr with wasHeld := false, backupTime := 0 } }

/-- STANDALONE_NEGOTIATION: with HOSTMODE low, the stored standalone acceptance is negotiated 40 ms after config recall. -/
def execStandaloneNegotiation (s : State) : Host.Outcome State Fault Refusal :=
  let d := s.dev
  let g := d.host.groupBytes
  if d.pwr.hostmode || !d.units || d.host.negotiated || fieldAt g 36 1 ≠ 1 || !d.since d.pwr.configAt (ms 40) then s.ok d
  else
    let a : W64 := BitVec.ofNat 64 (fieldAt g 40 8)
    let d := { d with host := { d.host with accept := a } }
    s.ok ((d.takeAccept a).wake.afterNegotiation).lineAutoJoin

/-! ### HOLD (R108, R113, R114, R129, R132, R336, R378, R527, R554, R568, R588, R1102, R1154) -/

/-- A pulse cut short returns to the pending count, and is not counted as emitted (R554). -/
def Dev.cutPulses (d : Dev) : Dev :=
  d.each (d.pulses.keys.filter fun o => (d.pulse o).level) fun d o =>
    (d.setPending o (min (2 ^ 32 - 1) (d.pulsePending o + 1))).updPulse o fun p =>
      { p with phase := .idle, level := false, emitted := wrap 32 (p.emitted + 2 ^ 32 - 1) }

/-- The host side, the error unit, the line and the two-wire buses stop as HOLD begins; nothing is posted from here. -/
def Dev.hostStops (d : Dev) : Dev :=
  let d := d.abandonOf fun _ => true
  let d := d.dropErrors.lineOff false
  let d := if d.lphy.tx.isSome then (d.setPhy { d.lphy with tx := none }).emit .lineOff else d
  { d with
    recs := { d.recs with afterCommit := [], ceilWait := [] }
    eng := { d.eng with flights := [], fences := [], stops := [], owedDone := [] }
    led := { d.led with writing := d.led.writing.map fun (w : Commit) => { w with recs := 0 } }
    host := { d.host with mover := none, negotiating := none }
    tw := { d.tw with xfers := [], lineup := none } }

/-- The final commit: pending changes, released in-filter energies and cut pulses are in it. -/
def Dev.beginFinal (d : Dev) : Dev :=
  let d := d.commitDone
  let seq := d.led.lastSeq + 1
  let d := d.takeChanges seq
  let pend := d.tariff.pend
  let d := d.each pend Dev.applyChange
  let d := d.setTariff { d.tariff with pend := [] }
  let d := d.each (d.accts.keys.filter d.inService) Dev.releaseAll
  let d := (d.cutPulses.dropTest).gather seq
  d.beginCommit seq true d.now

/-- Group writes stop; the changes already written still take effect in the final commit (R523, R609). -/
def Dev.cutConfigHeld (d : Dev) : Dev :=
  let due := d.store.due
  let d := d.cutConfig
  { d with store := { d.store with due := due } }

/-- What a metrology clock loss that ends or is cut here adds to the seconds owed: its RTC ticks in whole seconds rounded up, and at
least one, for it has lasted some time (R133, R134). -/
def Power.lossOwed (p : Power) : Nat := p.lostOwed + max 1 ((p.lostTicks + 32767) / 32768)

/-- HOLD begins; its instant is kept while no MAINS_RETURN has carried one. In a recall no final commit takes place. -/
def Dev.enterHold (d : Dev) : Dev :=
  let now := d.now
  let p := d.pwr
  let d := { d with pwr := { p with
    pstate := .hold, fastOn := false, preWake := false, mainsOk := false
    holdTime := if p.wasHeld then p.holdTime else now, backupTime := if p.wasHeld then p.backupTime else 0, wasHeld := true } }
  let d := { d with cal := { d.cal with sealed := true, aonHigh := d.cal.calEn, aonRun := 0 } }
  if !p.metClock then
    { d with pwr := { d.pwr with step := .held, finalDone := true, accum := false, lostOwed := p.lossOwed, lostTicks := 0 } }
  else if p.step ≠ .ready then
    ({ d with pwr := { d.pwr with step := .held, finalDone := true, recallAbandoned := true } } : Dev)
  else
    let held := d.pwr
    { d.hostStops.cutConfigHeld.beginFinal with pwr := { held with finalDone := false, accum := false } }

/-- HOLD begins, and MCLK stops where no final commit follows (R78). -/
def Dev.toHold (d : Dev) : Dev := d.enterHold.mclkEdges d

/-- HOLD_ENTRY: MAINS_OK has been low for a number of tenths of a µs, or VDD33, `vdd33` in mV, is below 3.05 V. From 2.0 µs HOLD begins;
from 1.9 µs it may; below that the pulse is ignored (R108, Table 25.5). -/
def execHoldEntry (vdd33 lowTenths : Nat) (s : State) : Host.Outcome State Fault Refusal :=
  let d := s.dev
  let low : Bool := vdd33 < 3050
  if !d.awake || (!d.pwr.metClock && !low) then s.ok d
  else if low || lowTenths ≥ 20 then s.ok d.toHold
  else if lowTenths < 19 then s.ok d
  else
    let (d, n) := d.draw
    s.ok (if n % 2 = 1 then d.toHold else d)

/-- VDDA_LOW: VDDA has stayed below its falling threshold of 2.85 V for a number of tenths of a µs; from 2 µs HOLD begins, or the one in
progress also waits for VDDA (R1154, R1179). -/
def execVddaLow (tenths : Nat) (s : State) : Host.Outcome State Fault Refusal :=
  let d := s.dev
  if tenths < 20 then s.ok d
  else
    let held : Dev → Dev := fun d => { d with pwr := { d.pwr with vddaHeld := true } }
    if d.awake && d.pwr.metClock then s.ok (held d.toHold) else if d.pwr.pstate = .hold then s.ok (held d) else s.ok d

/-- FINAL_COMMIT_DONE: both copies are FINAL; the metrology domain stops, links are DOWN with nothing posted, outputs are
inactive, and MCLK stops (R28, R78, R114, R170, R554). -/
def execFinalCommitDone (s : State) : Host.Outcome State Fault Refusal :=
  let d := s.dev
  if d.pwr.pstate ≠ .hold || d.pwr.finalDone || !d.pwr.metClock then s.ok d
  else
    let was := d
    let d := d.commitDone
    let d := { d with
      links := d.links.mapV fun l => { l with state := .down, found := 0, released := false, bad := 0 }
      pwr := { d.pwr with finalDone := true } }
    let d := d.each (List.range 8) fun d o => d.emit (.pulse o false (plsLow (d.pulse o).block))
    s.ok (d.mclkEdges was)

/-! ### BACKUP, OFF and the way back (R100, R101, R112, R116, R119, R131, R735) -/

/-- BACKUP_ENTRY: in HOLD VDD33 falls below 2.70 V; a final commit not completed is cut short. -/
def execBackupEntry (s : State) : Host.Outcome State Fault Refusal :=
  let d := s.dev
  if d.pwr.pstate ≠ .hold then s.ok d
  else
    let now := d.now
    let was := d
    let d := (if d.pwr.finalDone then d else d.cutLedger)
    let d := { d with
      pwr := { d.pwr with pstate := .backup, finalDone := true, backupTime := if d.pwr.backupTime = 0 then now else d.pwr.backupTime }
      tam := { d.tam with batLowRun := 0, batOkRun := 0 } }
    s.ok (d.alignWindows.mclkEdges was)

/-- BACKUP_EXIT: VDD33 returns to 2.70 V or above. -/
def execBackupExit (s : State) : Host.Outcome State Fault Refusal :=
  let d := s.dev
  if d.pwr.pstate = .backup then s.ok ({ d with pwr := { d.pwr with pstate := .hold }, tw := { lastUse := d.up } } : Dev).alignWindows else s.ok d

/-- OFF_ENTRY: VBAT falls below 1.8 V while VDD33 is below 2.70 V. -/
def execOffEntry (s : State) : Host.Outcome State Fault Refusal :=
  let d := s.dev
  if d.pwr.pstate = .backup then s.ok { d with pwr := { d.pwr with pstate := .off } } else s.ok d

/-- HOLD_EXIT: MAINS_OK has been high continuously for `micros` µs, over which VDD33 was at least `vdd33` mV and VDDA at least `vdda`
mV: once the final commit has completed, 10 ms of it at 3.10 V or above, and at 2.95 V of VDDA where that had fallen, bring power-up
from step 3 (R112, R1154). While the metrology clock is lost HOLD stays: step 3 needs that clock (DEDUCED, assumption 115). -/
def execHoldExit (micros vdd33 vdda : Nat) (s : State) : Host.Outcome State Fault Refusal :=
  let d := s.dev
  if d.pwr.pstate = .hold && d.pwr.finalDone && d.pwr.metClock && !d.pwr.testmode && 10000 ≤ micros && 3100 ≤ vdd33 &&
      (!d.pwr.vddaHeld || 2950 ≤ vdda) then
    s.fresh (d.powerUp true)
  else s.ok d

/-! ### Clocks (R77, R80, R101, R104, R133, R134, R1210) -/

/-- The metrology clock is judged lost: more than ±1,000 ppm from 750 times the RTC clock over 31.25 ms, that is from 768,000
clocks, or no edge for 10 µs (R80). -/
def ClockLook.lost : ClockLook → Bool
  | .count n => 768 < (n : Int) - 768000 || (n : Int) - 768000 < -768
  | .gap tenths => 100 ≤ tenths

/-- METROLOGY_CLOCK_LOST: the metrology, fast and host port domains stop without a final commit. -/
def execMetrologyClockLost (l : ClockLook) (s : State) : Host.Outcome State Fault Refusal :=
  let d := s.dev
  if !l.lost || !d.pwr.metClock || d.pwr.pstate = .backup || d.pwr.pstate = .off then s.ok d
  else
    let was := d
    let d := d.cutLedger.cutConfig
    let d := if d.lphy.tx.isSome then (d.setPhy { d.lphy with tx := none }).emit .lineOff else d
    let d := { d with pwr := { d.pwr with metClock := false, lostTicks := 0, accum := false, finalDone := true, fastOn := false } }
    s.ok (d.mclkEdges was)

/-- METROLOGY_CLOCK_RETURN: the LY64 restarts from step 3, and owes the counted seconds, rounded up. A loss that began in HOLD, where
nothing meters, adds no seconds and posts nothing (R134; DEDUCED, assumption 115). -/
def execMetrologyClockReturn (s : State) : Host.Outcome State Fault Refusal :=
  let d := s.dev
  if d.pwr.metClock || d.pwr.pstate = .backup || d.pwr.pstate = .off then s.ok d
  else
    let d := { d with pwr := { d.pwr with metClock := true } }
    if !d.awake then s.ok d
    else
      let d := { d with pwr := { d.pwr with lostOwed := d.pwr.lossOwed, lostTicks := 0 } }
      s.fresh (d.powerUp true)

/-- XT32_FAIL: the crystal has shown no edge for `micros` µs; from 150 µs it is judged stopped, and the RTC moves to its fallback. -/
def execXt32Fail (micros : Nat) (s : State) : Host.Outcome State Fault Refusal :=
  let d := s.dev
  if d.pwr.rtcSource = .crystal && d.pwr.pstate ≠ .off && 150 ≤ micros then
    s.ok (({ d with pwr := { d.pwr with rtcSource := .fallback } } : Dev).postPower 0x12 [])
  else s.ok d

/-- XT32_RESTORED: at an RTC tick the crystal has given so many consecutive cycles, the shortest and the longest of them in tenths of
a µs: 1,024 of 25 µs to 36 µs show it running, and the RTC moves to it. After the start-up fallback this posts nothing. -/
def execXt32Restored (cycles shortest longest : Nat) (s : State) : Host.Outcome State Fault Refusal :=
  let d := s.dev
  let judged := 1024 ≤ cycles && 250 ≤ shortest && longest ≤ 360
  if !judged || d.pwr.mcount ≠ 0 || d.pwr.rtcSource = .crystal || d.pwr.pstate = .off then s.ok d
  else
    let e := { d with pwr := { d.pwr with rtcSource := .crystal, rcTicks := 0 } }
    s.ok (if d.pwr.rtcSource = .startup then e else e.postPower 0x13 [])

/-- VBAT_LOW: Converter B measures VBAT in an aux position ahead of the sequence (R302, R308), at a power-up and once each hour in RUN; below 2.2 V it is posted (Table 2.8). -/
def execVbatLow (mv : Nat) (s : State) : Host.Outcome State Fault Refusal :=
  let d := s.dev
  let due := match d.pwr.vbatAt with | some t => d.since t (3600 * second) | none => true
  if d.pwr.pstate ≠ .run || !d.units || !d.volt.healthB.good || !due then s.ok d
  else
    let first := d.pwr.vbatAt.isNone
    let d := { d with pwr := { d.pwr with vbatAt := some d.up }, aux := { d.aux with lastAt := some d.up } }
    s.ok (if mv ≥ 2200 then d else if first then d.powerOrOwe 0x15 [⟨2, 2, mv⟩] else d.postPower 0x15 [⟨2, 2, mv⟩])

/-! ### DOZE (R106, R107, R121, R788, R789) -/

/-- The idle time before DOZE, in µs (R107). -/
def Dev.dozeAfter (d : Dev) : Nat := max 50 (min 100000 d.host.dozeIdle.toNat)

/-- No work of the fast domain and no record or message waits. -/
def Dev.idle (d : Dev) : Bool :=
  d.eng.flights.isEmpty && d.eng.owedDone.isEmpty && d.eng.behind.isEmpty && d.err.queue.isEmpty && d.err.slot.isNone && d.host.mover.isNone &&
    d.recs.afterCommit.isEmpty && d.recs.ceilWait.isEmpty && d.lnet.tunQueue.isEmpty && d.pq.harm.delayed.isEmpty &&
    (d.eng.rings.cells.all fun p => p.2.held.isEmpty && p.2.late.isEmpty && !d.isPreview p.2) &&
    (d.host.fns.cells.all fun p => p.2.win.cells.all fun w => !w.2.opened && !w.2.pending)

/-- DOZE_ENTRY: the conditions of R106 have held for DOZE_IDLE. -/
def execDozeEntry (s : State) : Host.Outcome State Fault Refusal :=
  let d := s.dev
  if d.pwr.pstate = .run && d.units && d.idle && !d.host.wakeHold && d.host.dozeIdle ≠ 0#32 &&
      (!d.pwr.hostmode || d.host.d3hot || d.host.aspmL1) && d.since d.pwr.idleSince (us d.dozeAfter) then
    let d := { d with pwr := { d.pwr with
      pstate := .doze, fastOn := false, dozeEntries := d.pwr.dozeEntries + 1, dozeSince := d.now } }
    s.ok (if !d.pwr.hostmode then d
      else if d.host.ltrEn then (d.emit (.ltr 1000)).emit (.clkreq false) else d.emit (.clkreq false))
  else s.ok d

/-- DOZE_EXIT_COUNT: once each 15 minutes in RUN, the DOZE entries and the time spent in DOZE since the last such record. Where no
record is posted they count on. -/
def execDozeExitCount (s : State) : Host.Outcome State Fault Refusal :=
  let d := s.dev
  if d.pwr.pstate ≠ .run || !d.serving || !d.quarterDue 0x7F then s.ok d
  else
    let d := (d.quarter 0x7F).postPower 0x18 [⟨4, 4, d.pwr.dozeEntries⟩, ⟨8, 8, d.pwr.dozeTime⟩]
    s.ok { d with pwr := { d.pwr with dozeEntries := 0, dozeTime := 0 } }

/-! ### The fast domain (R82–R86, R418, R1096, R1097, R1107, R1128) -/

/-- The harmonic window in progress is due to close at the next boundary: it lacks one cycle, and that boundary is positive-going. -/
def Dev.harmDue (d : Dev) : Bool :=
  d.has 3 && d.pq.harm.win.any (fun w => decide (w.full ≤ w.cycles + 1)) &&
    (match d.trk.crossings with | c :: _ => !c.2 | [] => false)

/-- The predicted boundary is 25 µs away, and a preview ring, with 8 cycles confirmed, or a harmonic window due to close needs the
fast domain (Table 2.2, Table 2.7). -/
def Dev.boundaryWake (d : Dev) : Bool :=
  (match d.trk.predicted with | some p => decide (p + pathDelay ≤ d.up + us 25) | none => false) &&
    ((d.trk.state = .predicting && d.eng.rings.cells.any fun p => d.isPreview p.2) || d.harmDue)

/-- A transmit slot is 25 µs away with something to send in it (Table 2.2). -/
def Dev.slotWake (d : Dev) : Bool :=
  let l := d.lnet
  (d.slotNear (us 25)).isSome && (!l.urgent.isEmpty || !l.queue.isEmpty || l.beaconWait.isSome || l.kstate = 2)

/-- PRE_WAKE: the fast domain is woken ahead of a predicted boundary, or of a transmit slot (`tx`). -/
def execPreWake (tx : Bool) (s : State) : Host.Outcome State Fault Refusal :=
  let d := s.dev
  if !d.serving || !(if tx then d.slotWake else d.boundaryWake) then s.ok d
  else
    let d := d.rouse
    let set := !tx && d.has 2 && d.trk.tp.isNone
    s.ok { d with
      pwr := { d.pwr with preWake := d.pwr.preWake || !tx }, eng := { d.eng with setOpen := if set then d.trk.predicted else d.eng.setOpen } }

/-- A lock of the PLL within 20 µs: what failed pre-wakes owe is posted (R1096). -/
def Dev.locked (d : Dev) : Dev :=
  let n := d.pwr.lockFailOwed
  let d := { d with pwr := { d.pwr with fastOn := true, failedLocks := 0, preWake := false, lockFailOwed := 0, workAt := d.up } }
  d.each (List.range n) fun d _ => d.raise { code := 0x0602, cls := 1, detail := [⟨0, 2, 0xFFFF⟩] }

/-- The fast domain may be woken: out of Backstop, and in power-up Backstop for a mover transfer (R43). -/
def Dev.fastMay (d : Dev) : Bool := !d.pwr.backstop || d.host.mover.isSome

/-- PLL_LOCK: a wake's PLL locks within 20 µs, or does not; a failed pre-wake drops the previews of its half-cycle, and the second
failed lock in a row is FAST_PLL_FAIL. -/
def execPllLock (locked : Bool) (s : State) : Host.Outcome State Fault Refusal :=
  let d := s.dev
  if !d.units || d.pwr.pstate ≠ .run || !d.fastMay || d.err.fatalDue.isSome then s.ok d
  else if locked then s.ok d.locked
  else
    let pre := d.pwr.preWake
    let n := d.pwr.failedLocks + 1
    let d := d.setTrk { d.trk with wakeFailed := d.trk.wakeFailed || pre }
    let d := { d with pwr := { d.pwr with
      fastOn := false, preWake := false, failedLocks := n, lockFailOwed := d.pwr.lockFailOwed + b2n (pre && n < 2) } }
    let d := d.afterSet
    s.ok (if n < 2 then d else d.latchFatal { code := 0x0E01, cls := 3, detail := [⟨0, 1, 3⟩, ⟨4, 4, n⟩] } 3)

/-- A unit of the fast domain has work: a transfer, descriptors in flight or to fetch, completions and records that can be written,
an error slot open, or line frames and tunnel messages to act on (R84). -/
def Dev.fastWork (d : Dev) : Bool :=
  d.host.mover.isSome || !d.eng.flights.isEmpty || (d.eng.rings.keys.any d.hasWork) || !d.ringsThatWait.isEmpty ||
    !d.eng.behind.isEmpty || d.err.slot.isSome || (!d.err.queue.isEmpty && d.ring2Ready) || !d.lnet.inbox.isEmpty || !d.lnet.rx.cells.isEmpty ||
    !d.lnet.tunReady.isEmpty || d.lphy.rx.isSome || d.lphy.tx.isSome || d.host.negotiating.isSome || d.test.isSome

/-- FAST_SLEEP: no unit of the fast domain has had work for 4 µs, and the PLL is switched off. -/
def execFastSleep (s : State) : Host.Outcome State Fault Refusal :=
  let d := s.dev
  if d.pwr.fastOn && !d.fastWork && d.since d.pwr.workAt (us 4) then s.ok { d with pwr := { d.pwr with fastOn := false } }
  else s.ok d

/-- FAST_LOGIC_FAULT: an uncorrectable fault in the control state of a unit: 1 ring engine, 2 buffer manager, 3 crypto engine,
4 error unit, 5 line network MAC. A faulted error unit closes no slot. -/
def execFastLogicFault (unit : Fin 6) (s : State) : Host.Outcome State Fault Refusal :=
  let d := s.dev
  if !d.units || !d.fastMay || unit.val = 0 then s.ok d
  else
    let e : Err := { code := 0x0E02, cls := 3, detail := [⟨0, 1, 3⟩, ⟨1, 1, unit.val⟩, ⟨4, 4, d.pwr.failedLocks⟩] }
    s.ok (if unit.val = 4 then d.latchFatal e 3 else d.raiseFatal e 3)

/-- BACKSTOP_ENTRY: within 1 ms of a device-fatal error Backstop is entered with its cause, or the Backstop in progress takes it
(R51, R799, R1215). -/
def execBackstopEntry (s : State) : Host.Outcome State Fault Refusal :=
  let d := s.dev
  match d.err.fatalDue with
  | some c =>
    if d.units then
      let d := d.enterBackstop c false
      s.ok { d with err := { d.err with fatalDue := none } }
    else s.ok d
  | none => s.ok d

end Sys2Proof.Machine
end

