-- ==== Sys2Proof/Machine/SelfTest.lean ====
section
/-!
DEFINITION. Machine/SelfTest.lean: the tests of SELFTEST (chapters 3, 5, 18 and 23).
-/
namespace Sys2Proof.Machine

/-- The tests of Table 18.8. -/
def selfTests : List Nat := [0x01, 0x02, 0x10, 0x11, 0x20]

/-- SELFTEST (0x00E1) for one TEST (R908): its target and duration, then SEALED, BUSY and STATE_MISMATCH (check 6 of Table
18.3), then the test runs from `start`. An undefined TEST completes with BAD_ARG; one of another test is not this command. -/
def Dev.selftest (d : Dev) (x : Desc) (test : Nat) (argsOk : Bool) (shut busy : Dev → Bool) (may : Dev → Bool)
    (start : Dev → Dev) : Dev :=
  let t := x.arg 24 1
  if t ≠ test && selfTests.contains t then d
  else d.command x { opcode := 0x00E1, entry := if t = 0x10 || t = 0x11 then some 0x41 else none } (fun _ _ => 0) fun d _ =>
    if t ≠ test || !argsOk then d.done x.ref stBadArg
    else if shut d then d.done x.ref stSealed
    else if d.test.isSome || busy d then d.done x.ref stBusy
    else if !may d then d.done x.ref stMismatch
    else start { d with test := some { cmd := x.ref, test := t, target := x.arg 25 1, duration := x.arg 26 2, since := d.up } }

/-- The link of a link test is UP and carries no channel of an account set to METERING (R147). -/
def Dev.linkTestable (d : Dev) (n : Nat) : Bool := (d.link n).state = .up && !d.metered (linkChannels n) false

/-- LINK_ZERO: TEST ZERO is sent for DURATION. -/
def execLinkZero (x : Desc) (s : State) : Host.Outcome State Fault Refusal :=
  let n := x.arg 25 1
  let t := x.arg 26 2
  s.ok (s.dev.selftest x 0x01 (n ≤ 15 && 1 ≤ t && t ≤ 60) (fun _ => false) (fun _ => false) (fun d => d.linkTestable n) fun d =>
    d.setLink n { d.link n with cmdTest := 1 })

/-- LINK_WALK: TEST WALK is sent for 1 s. -/
def execLinkWalk (x : Desc) (s : State) : Host.Outcome State Fault Refusal :=
  let n := x.arg 25 1
  s.ok (s.dev.selftest x 0x02 (n ≤ 15 && x.arg 26 2 = 0) (fun _ => false) (fun _ => false) (fun d => d.linkTestable n) fun d =>
    d.setLink n { d.link n with cmdTest := 2 })

/-- VOLT_B: Converter B serves metrology in VOLTS for DURATION; the comparison pauses (R260, R261). -/
def execVoltB (x : Desc) (s : State) : Host.Outcome State Fault Refusal :=
  let t := x.arg 26 2
  s.ok (s.dev.selftest x 0x10 (x.arg 25 1 = 0 && 1 ≤ t && t ≤ 600) (fun d => d.cal.sealed) (fun _ => false)
    (fun d => d.volt.serving = 0 && d.volt.healthB.good) fun d => (d.serve 1).refreshFrame)

/-- REF_TEST: the reference test of R256 runs at once; with FACTORY lost none can run. -/
def execRefTest (x : Desc) (s : State) : Host.Outcome State Fault Refusal :=
  s.ok (s.dev.selftest x 0x11 (x.arg 25 1 = 0 && x.arg 26 2 = 0) (fun _ => false) (fun d => d.volt.test.isSome)
    (fun d => !d.store.factoryLost) fun d => d.startTest 3 (some x.ref))

/-- CRYPTO: the known-answer tests and the start test run. -/
def execCrypto (x : Desc) (s : State) : Host.Outcome State Fault Refusal :=
  s.ok (s.dev.selftest x 0x20 (x.arg 25 1 = 0 && x.arg 26 2 = 0) (fun _ => false) (fun _ => false) (fun _ => true) fun d => d)

/-- Functions that SELFTEST CRYPTO found failed are unusable until power-up, and are posted once (R1095). -/
def Dev.cryptoFailed (d : Dev) (bits : Nat) : Dev :=
  if bits = 0 then d
  else
    let d := { d with keys := { d.keys with
      ccmFailed := d.keys.ccmFailed || bitOf bits 0, shaFailed := d.keys.shaFailed || bitOf bits 1
      ecdsaFailed := d.keys.ecdsaFailed || bitOf bits 2, drbgFailed := d.keys.drbgFailed || bitOf bits 3 || bitOf bits 4 } }
    d.raise { code := 0x0505, cls := 1, detail := [⟨0, 1, 0xFF⟩, ⟨2, 1, bits⟩] }

/-- How long a test runs before it can end: DURATION, 1 s for LINK_WALK. -/
def SelfTest.span (t : SelfTest) : Nat :=
  match t.test with | 0x01 => t.duration * second | 0x02 => second | 0x10 => t.duration * second | _ => 0

/-- RESULT of a link test: the streams whose mean lay beyond ±0.5 % of full scale, or that mismatched; of a test in which the pod
showed none of its pattern the manual gives no result, and it is free (Table 18.8; DESIGN CHOICE, assumption 147). -/
def Dev.linkResult (d : Dev) (t : SelfTest) : Dev × Nat :=
  if t.slots = 0 then
    let (d, n) := d.draw
    (d, n % 4096)
  else if t.test = 2 then (d, t.wrong)
  else (d, sumOn (List.range 12) fun s =>
    2 ^ s * b2n (decide (t.slots < 200 * (2 * (t.ones.get s 0 : Int) - t.slots).natAbs)))

/-- The start test of R697 on raw bits of the noise source: over the 4,096 bits that a start discards, a health test fails; none where
too few came. -/
def startTest (raw : List Byte) : Option Bool :=
  let bits := (raw.flatMap bitsMsb).take 4096
  if bits.length < 4096 then none
  else some (bits.foldl (fun (z : Noise × Bool) b => match z.1.bit b with
    | (n, .failed _) => (n, true)
    | (n, _) => (n, z.2)) ({}, false)).2

/-- SELFTEST_COMPLETE: the test running has run its time. `bits` are the known-answer tests that failed, and `raw` the raw bits of the
start test of CRYPTO. A REF_TEST completes with its reference test. -/
def execSelftestComplete (bits : Nat) (raw : List Byte) (s : State) : Host.Outcome State Fault Refusal :=
  let d := s.dev
  match d.test with
  | none => s.ok d
  | some t =>
    if !d.serving || t.test = 0x11 || !d.since t.since t.span then s.ok d
    else if t.test = 0x20 then
      match startTest raw with
      | none => s.ok d
      | some bad =>
        let failed := bits % 16 + 16 * b2n bad
        s.ok ((d.endTest.cryptoFailed failed).doneWith t.cmd failed)
    else
      let (d, n) := if t.test = 0x10 then (d, 0) else d.linkResult t
      s.ok (d.endTest.doneWith t.cmd n)

end Sys2Proof.Machine
end

