-- ==== Sys2Proof/Machine/TwoWire.lean ====
section
/-!
DEFINITION. Machine/TwoWire.lean: the controller port TWM (POD_XFER, line-up, stuck bus and recovery) and the target port
TWT (chapter 20).
-/
namespace Sys2Proof.Machine

/-- The two-wire ports become `t`. -/
def Dev.setTw (d : Dev) (t : TwoWire) : Dev := { d with tw := t }

/-! ### Bus settings (R959, R960) -/

/-- Settings of Table 20.1 take effect: at once, or from the STOP of the POD_XFER that runs. -/
def Dev.setBus (d : Dev) (mode stretch low : Nat) : Dev :=
  if d.tw.xfers.isEmpty then d.setTw { d.tw with mode := mode, stretchMs := stretch, lowMs := low, newBus := none }
  else d.setTw { d.tw with newBus := some (mode, stretch, low) }

/-- The settings that waited for a STOP take effect. -/
def TwoWire.atStop (t : TwoWire) : TwoWire :=
  match t.newBus with
  | some (m, st, low) => { t with mode := m, stretchMs := st, lowMs := low, newBus := none }
  | none => t

/-! ### POD_XFER (R907, R961, R962, R966–R971, R1002, Table 18.7) -/

/-- Fields of a POD_XFER, and the bytes it writes. -/
def xferTarget (x : Desc) : Nat := x.arg 24 1
def xferWrite (x : Desc) : Nat := x.arg 26 2
def xferRead (x : Desc) : Nat := x.arg 28 2
def xferBytes (x : Desc) : List Byte := match x.input with | .ok bs => bs.take (xferWrite x) | .failed => []

/-- RESULT of a POD_XFER: OUTCOME in byte 0, bytes moved in bytes 4–5. -/
def xferResult (outcome moved : Nat) : Nat := outcome + 2 ^ 32 * (moved % 2 ^ 16)

/-- `n` bit times of TWM at the nominal rate of its mode: SCL runs no faster (R961). -/
def TwoWire.bits (t : TwoWire) (n : Nat) : Nat := n * 2 ^ 30 / (match t.mode with | 0 => 100000 | 1 => 400000 | _ => 1000000)

/-- Bit times of a whole POD_XFER but for its START, repeated START and STOP: each part it has sends an address byte. -/
def xferClocks (x : Desc) : Nat :=
  let part := fun n => if n = 0 then 0 else 9 * (n + 1)
  part (xferWrite x) + part (xferRead x)

/-- The parts of a POD_XFER that moved `w` bytes of the write and `r` bytes of the read; a part with no byte moved was addressed
only where `toRead` says so, or at the START (R971). -/
def xferParts (x : Desc) (w r : Nat) (toRead : Bool) : List TwmSeg :=
  (if xferWrite x = 0 then [] else [.write (xferTarget x) ((xferBytes x).take w)]) ++
    (if toRead || xferWrite x = 0 then [.read (xferTarget x) r] else [])

/-- Where a loss of arbitration leaves the outcome ARB_LOST: before the first data byte, or in it (R969, Table 18.7; the address byte
after a repeated START is no longer such a place: DEDUCED, assumption 149). -/
def LostAt.early : LostAt → Bool
  | .address | .written 0 => true
  | _ => false

/-- Bytes of the write moved before the place of a loss. -/
def LostAt.wrote (x : Desc) : LostAt → Nat
  | .address => 0
  | .written n => n
  | _ => xferWrite x

/-- The place lies in the read part or behind it. -/
def LostAt.reading : LostAt → Bool
  | .readAddress | .readAck _ | .stop => true
  | _ => false

/-- Such an end can come to that POD_XFER. -/
def XferEnd.fits (x : Desc) : XferEnd → Bool
  | .busBusy => true
  | .done read => read.length = xferRead x
  | .addrNack reading => !reading || (xferRead x ≠ 0 && xferWrite x ≠ 0)
  | .dataNack n => n < xferWrite x
  | .lost place read =>
    match place with
    | .address => read = []
    | .written n => n < xferWrite x && read = []
    | .restart | .readAddress => xferRead x ≠ 0 && xferWrite x ≠ 0 && read = []
    | .readAck n => n < xferRead x && read.length = n + 1
    | .stop => read.length = xferRead x

/-- Outcome of Table 18.7, bytes written, bytes read, and what stood on the wires. -/
def XferEnd.outcome (x : Desc) : XferEnd → Nat × Nat × List Byte × List TwmSeg
  | .busBusy => (3, 0, [], [])
  | .done read => (0, xferWrite x, read, xferParts x (xferWrite x) read.length (xferRead x ≠ 0))
  | .addrNack reading => (1, if reading then xferWrite x else 0, [], xferParts x (if reading then xferWrite x else 0) 0 reading)
  | .dataNack n => (2, n, [], xferParts x (n + 1) 0 false)
  | .lost place read =>
    (if place.early then 3 else 4, place.wrote x, read, xferParts x (place.wrote x) read.length place.reading)

/-- A POD_XFER that did not move everything completes with ABORTED, its RESULT kept (R892). -/
def Dev.xferFail (d : Dev) (x : Desc) (outcome moved : Nat) : Dev :=
  (d.finish ⟨x.ref, stAborted, xferResult outcome moved, false, none⟩).settle

/-- The transaction at the head ends at its STOP: the next POD_XFER is taken up, or a POD_LINEUP that waited (R1002). -/
def TwoWire.next (t : TwoWire) (up : Nat) : TwoWire :=
  let t := t.atStop
  match t.xfers.drop 1 with
  | (x, _) :: r => { t with xfers := (x, up) :: r }
  | [] => { t with xfers := [], lineup := t.lineup.map fun l => { l with since := up } }

/-- A transaction has been driven on TWM. -/
def Dev.drive (d : Dev) (l : List TwmSeg) : Dev := if l.isEmpty then d else d.emit (.twm l)

/-- The POD_XFER at the head ends with an outcome of Table 18.7, bytes written, and bytes read. Only DONE, ARB_STOP_LOSS and
the time-outs leave bytes read in host memory, behind the WLEN bytes. -/
def Dev.endXfer (d : Dev) (outcome moved : Nat) (data : List Byte) : Dev :=
  match d.tw.xfers with
  | [] => d
  | (x, _) :: _ =>
    let d := d.setTw (d.tw.next d.up)
    let read := if outcome = 0 || 4 ≤ outcome then data.take (xferRead x) else []
    let d := if read.isEmpty then d else d.output { x with addr := x.addr + xferWrite x } read
    if outcome = 0 then d.doneWith x.ref (xferResult 0 (xferWrite x + xferRead x))
    else d.xferFail x outcome (if outcome = 3 then 0 else moved + read.length)

/-- POD_XFER (0x00C1) starts one transaction once the bus is free. -/
def execPodXfer (x : Desc) (s : State) : Host.Outcome State Fault Refusal :=
  s.ok (s.dev.command x { opcode := 0x00C1 } (fun _ _ => 0) fun d _ =>
    let w := xferWrite x
    let r := xferRead x
    if xferTarget x < 0x40 || 0x4F < xferTarget x || 256 < w || 256 < r || w + r = 0 || x.len < w + r then d.done x.ref stBadArg
    else d.withInput x fun _ =>
      if d.tw.lineup.isSome then d.done x.ref stBusy
      else match d.tw.stuck with
        | some (sda, _) => d.xferFail x (if sda then 6 else 5) 0
        | none => d.setTw { d.tw with xfers := d.tw.xfers ++ [(x, d.up)] })

/-- DETAIL of TWM errors (Table 23.4): TARGET is the POD_XFER's, the roll address in a line-up, or 0 (DESIGN CHOICE, assumption
149). -/
def Dev.twmError (d : Dev) (code outcome moved : Nat) : Dev :=
  let target := match d.tw.xfers with
    | (x, _) :: _ => xferTarget x
    | [] => if d.tw.lineup.isSome then 0x3A else 0
  d.raise { code := code, cls := 1, detail := [⟨0, 1, outcome⟩, ⟨1, 1, target⟩, ⟨2, 2, moved⟩, ⟨4, 1, d.tw.lowMs⟩] }

/-- POD_XFER_END: the transaction of the POD_XFER at the head ends with DONE, ADDR_NACK, DATA_NACK, ARB_LOST or ARB_STOP_LOSS, the
last with its error; one that found no free bus for 100 ms ends with ARB_LOST, and none is done before its bits are clocked
(R961, R968, R969, R971). -/
def execPodXferEnd (e : XferEnd) (s : State) : Host.Outcome State Fault Refusal :=
  let d := s.dev
  match d.tw.xfers with
  | [] => s.ok d
  | (x, t) :: _ =>
    let due := match e with
      | .busBusy => d.since t (ms 100)
      | .done _ => d.since t (d.tw.bits (xferClocks x))
      | _ => true
    if !d.units || d.tw.stuck.isSome || !e.fits x || !due then s.ok d
    else
      let (outcome, wrote, read, segs) := e.outcome x
      let d := d.drive segs
      let d := if outcome = 4 then d.twmError 0x0703 4 (wrote + read.length) else d
      s.ok (d.endXfer outcome wrote read)

/-- The line-up whose transaction or mapping runs can go no further on the bus. -/
def Dev.breakLineup (d : Dev) : Dev :=
  d.setTw { d.tw with lineup := d.tw.lineup.map fun l => { l with broken := true } }

/-- STRETCH_LIMIT: SCL has not read high for `micros` µs after its release, longer than the limit, and the transaction ends (R962); a
line-up's ends too, with END = BUS (DESIGN CHOICE, assumption 149). -/
def execStretchLimit (micros moved : Nat) (data : List Byte) (s : State) : Host.Outcome State Fault Refusal :=
  let d := s.dev
  if !d.units || d.tw.stuck.isSome || micros ≤ 1000 * d.tw.stretchMs then s.ok d
  else match d.tw.xfers with
  | (x, t) :: _ =>
    if d.since t (us micros) && moved ≤ xferWrite x && data.length ≤ xferRead x then
      s.ok ((d.drive (xferParts x moved data.length (!data.isEmpty))).endXfer 7 moved data)
    else s.ok d
  | [] => s.ok d.breakLineup

/-! ### A stuck bus (R963–R966) -/

/-- Every POD_XFER that waits ends with nothing moved. -/
def Dev.failXfers (d : Dev) (outcome : Nat) : Nat → Dev
  | 0 => d
  | n + 1 => Dev.failXfers (d.endXfer outcome 0 []) outcome n

/-- RESULT of POD_LINEUP (R982). -/
def lineupResult (assigned addressed ending : Nat) : Nat := assigned + 256 * addressed + 65536 * ending

/-- A POD_LINEUP completes with OK and its RESULT; abandoned, it completes nothing (R1004). -/
def Dev.lineupDone (d : Dev) (cmd : Option CmdRef) (assigned addressed ending : Nat) : Dev :=
  match cmd with
  | some c => d.doneWith c (lineupResult assigned addressed ending)
  | none => d

/-- A POD_LINEUP that finds the bus stuck does nothing and completes with END = BUS (R966). -/
def Dev.lineupStuck (d : Dev) (cmd : Option CmdRef) : Dev :=
  let n := d.tw.addressed.length
  ((d.setTw { d.tw with lineup := none }).postPod 0x22 0xFF 0xFFFF [⟨5, 1, 4⟩, ⟨7, 1, n⟩]).lineupDone cmd 0 n 4

/-- A line is stuck: the error is raised, the running POD_XFER ends with what it moved, and the waiting ones with nothing; a running
line-up breaks off, and one that waited completes with END = BUS. -/
def Dev.busStuck (d : Dev) (sda : Bool) (moved : Nat) (data : List Byte) : Dev :=
  let outcome := if sda then 6 else 5
  let waited := !d.tw.xfers.isEmpty
  let d := match d.tw.xfers with
    | (x, _) :: _ => d.drive (xferParts x moved data.length (!data.isEmpty))
    | [] => d
  let d := d.twmError (if sda then 0x0702 else 0x0701) outcome (moved + data.length)
  let d := d.setTw { d.tw with stuck := some (sda, d.up), recovered := none }
  let d := d.endXfer outcome moved data
  let d := d.failXfers outcome d.tw.xfers.length
  if waited then (match d.tw.lineup with | some l => d.lineupStuck l.cmd | none => d) else d.breakLineup

/-- TWM_SCL_STUCK: SCL has been low continuously for `micros` µs, at least LOW_MS, whoever holds it (R963). -/
def execTwmSclStuck (micros moved : Nat) (data : List Byte) (s : State) : Host.Outcome State Fault Refusal :=
  let d := s.dev
  if d.units && d.tw.stuck.isNone && 1000 * d.tw.lowMs ≤ micros then s.ok (d.busStuck false moved data) else s.ok d

/-- TWM_SDA_STUCK: SDA has been low continuously for `micros` µs, at least LOW_MS, while SCL was high (R964). -/
def execTwmSdaStuck (micros : Nat) (sclHigh : Bool) (moved : Nat) (data : List Byte) (s : State) : Host.Outcome State Fault Refusal :=
  let d := s.dev
  if d.units && d.tw.stuck.isNone && sclHigh && 1000 * d.tw.lowMs ≤ micros then s.ok (d.busStuck true moved data) else s.ok d

/-- A span of the model's time base in µs. -/
def toMicros (n : Nat) : Nat := n * 1000000 / 2 ^ 30

/-- BUS_RECOVERY: the recovery sequence runs, at once for SDA and once SCL has read high for 1 ms (`sclMicros`), and again 100 ms
later; `sda` is SDA as read after each clock. The first high ends it with a STOP and BUS_RECOVERED; nine lows end it with a STOP
attempt (R965, R983). -/
def execBusRecovery (sclMicros : Nat) (sda : List Bool) (s : State) : Host.Outcome State Fault Refusal :=
  let d := s.dev
  match d.tw.stuck with
  | none => s.ok d
  | some (onSda, t) =>
    let due := match d.tw.recovered with
      | some r => d.since r (ms 100)
      | none => onSda || (1000 ≤ sclMicros && d.since t (us sclMicros))
    let clocks := (sda.takeWhile (!·)).length + 1
    if !d.units || !due then s.ok d
    else if sda.contains true && clocks ≤ 9 then
      s.ok (((d.setTw { d.tw with stuck := none, recovered := none }).drive [.clocks clocks]).postPod 0x23 0xFF 0xFFFF
        [⟨5, 1, b2n onSda⟩, ⟨20, 4, toMicros (d.up - t)⟩])
    else if sda.length = 9 then s.ok ((d.setTw { d.tw with recovered := some d.up }).drive [.clocks 9])
    else s.ok d

/-! ### Line-up (R966, R972–R983, R999–R1004) -/

/-- Roll commands (Table 20.2). -/
def rollAddress : Nat := 0x3A
def rollCmd : Byte := 0x01
def assignCmd : Byte := 0x02
def releaseAllCmd : Byte := 0x03

/-- Nine bytes read from a pod: its ID, and whether the ID_CRC and the ID are valid (R975). -/
def podId (l : List Byte) : Nat := leNat (l.take 8)
def podCrcOk (l : List Byte) : Bool :=
  l.length = 9 && crcBits 0x07#8 0xFF#8 ((l.take 8).flatMap bitsMsb) = (l.drop 8).headD 0
def podAllOnes (l : List Byte) : Bool := l.take 8 = List.replicate 8 0xFF#8
def podValid (l : List Byte) : Bool := podCrcOk l && !podAllOnes l

/-- A discarded round or a restart: REASON, and the address offered and the ID won where there were any. -/
structure Retry where
  reason : Nat
  addr : Nat := 0
  id : Nat := 0
  deriving DecidableEq, Repr

/-- A line-up as it goes: addresses that answered the survey, pods kept and pods assigned (address and ID), addresses withheld,
what is posted of it, rounds run, discarded rounds in a row, restarts, bit times, the bus transaction so far, and END once it
has one (R974–R979). -/
structure LineupBook where
  found : List Nat := []
  kept : List (Nat × Nat) := []
  assigned : List (Nat × Nat) := []
  withheld : List Nat := []
  surveyBad : List Nat := []
  retries : List Retry := []
  rounds : Nat := 0
  inARow : Nat := 0
  restarts : Nat := 0
  clocks : Nat := 0
  sent : List TwmSeg := []
  stopLosses : Nat := 0
  ending : Option Nat := none
  deriving DecidableEq, Repr

/-- Parts of the transaction and their bit times. -/
def LineupBook.put (b : LineupBook) (clocks : Nat) (l : List TwmSeg) : LineupBook :=
  { b with clocks := b.clocks + clocks, sent := b.sent ++ l }

/-- Addresses in use, those of pods assigned in this line-up included, ascending. -/
def LineupBook.inUse (b : LineupBook) : List Nat :=
  (span 0x40 16).filter fun a => b.found.contains a || b.assigned.any fun p => p.1 = a

/-- The lowest free address; one whose round failed at step 8 is not free (R976, R977). -/
def LineupBook.free (b : LineupBook) : Option Nat :=
  (span 0x40 16).find? fun a => !b.inUse.contains a && !b.withheld.contains a

/-- A round is discarded; the eighth in a row ends the line-up with END = CRC (R976). -/
def LineupBook.discard (b : LineupBook) (r : Retry) : LineupBook :=
  { b with
    retries := b.retries ++ [r], inARow := b.inARow + 1
    withheld := if r.addr = 0 then b.withheld else b.withheld ++ [r.addr]
    ending := if b.inARow + 1 = 8 then some 2 else none }

/-- One address of the survey: a valid ID is kept, and an ID that is not valid stands in SURVEY_BAD (R974, R978). -/
def LineupBook.surveyAt (b : LineupBook) (a : Nat) : Option (List Byte) → LineupBook
  | none => b.put 9 [.write a []]
  | some l =>
    let b := { b.put 108 [.write a [0], .read a 9] with found := b.found ++ [a] }
    if !podValid l then { b with surveyBad := b.surveyBad ++ [a] }
    else if b.assigned.any fun p => p.1 = a then b
    else { b with kept := b.kept ++ [(a, podId l)] }

/-- Step 1 of a run: RELEASE_ALL, or the survey (R974). -/
def LineupBook.start (b : LineupBook) (remap : Bool) (survey : List (Option (List Byte))) : LineupBook :=
  let b := { b with found := [], kept := [], inARow := 0 }
  if remap then b.put 18 [.write rollAddress [releaseAllCmd]]
  else ((span 0x40 16).zip survey).foldl (fun b p => b.surveyAt p.1 p.2) b

/-- One round (Table 20.4, R975–R977). -/
def LineupBook.round (b : LineupBook) (r : RoundSeen) : LineupBook :=
  if b.ending.isSome then b
  else
    let b := { b with rounds := b.rounds + 1 }
    let roll := [TwmSeg.write rollAddress [rollCmd], .read rollAddress (if r.acked then 9 else 0)]
    if !r.acked then { b.put 27 roll with ending := some 0 }
    else
      let b := b.put 108 roll
      if !podCrcOk r.won then b.discard { reason := 0 }
      else if podAllOnes r.won then b.discard { reason := 1 }
      else match b.free with
        | none => { b with ending := some 1 }
        | some a =>
          let id := podId r.won
          let b := b.put 99 [.write rollAddress (assignCmd :: r.won.take 8 ++ [BitVec.ofNat 8 a])]
          match r.back with
          | none => (b.put 9 [.write a []]).discard { reason := 2, addr := a, id := id }
          | some l =>
            let b := b.put 108 [.write a [0], .read a 9]
            if l = r.won then { b with assigned := b.assigned ++ [(a, id)], inARow := 0 }
            else b.discard { reason := 2, addr := a, id := id }

/-- A loss of arbitration ends a run: the line-up restarts, three times at most; the loss after the third restart ends it with
END = ARB (R979). -/
def LineupBook.loss (b : LineupBook) (late : Bool) : LineupBook :=
  let b := { b with stopLosses := b.stopLosses + b2n late }
  if b.restarts = 3 then { b with ending := some 3 }
  else { b with restarts := b.restarts + 1, retries := b.retries ++ [{ reason := 3 }] }

/-- One run from step 1 until the line-up ends or arbitration is lost; only the first may begin with RELEASE_ALL (R979). -/
def LineupBook.pass (remap : Bool) (b : LineupBook) (p : LineupPass) : LineupBook :=
  if b.ending.isSome then b
  else
    let b := p.rounds.foldl LineupBook.round (b.start (remap && b.restarts = 0) p.survey)
    match p.lost with
    | some late => if b.ending.isSome then b else b.loss late
    | none => b

/-- The whole of a line-up's bus transaction. -/
def lineupBook (remap : Bool) (passes : List LineupPass) : LineupBook := passes.foldl (LineupBook.pass remap) {}

/-- The link a pod is mapped to: the one link noted, or 0xFF for none or several (R981). -/
def mappedLink (links : Nat) : Nat :=
  match (List.range 16).filter fun n => bitOf links n with
  | [n] => n
  | _ => 0xFF

/-- The links noted for a pod: those that report its marker and did not before (R980). -/
def notedLinks (m : Nat × Nat) : Nat := (List.range 16).foldl (fun w n => if bitOf m.2 n && !bitOf m.1 n then w + 2 ^ n else w) 0

/-- Pods to be mapped, in ascending address, with their IDs and ORIGIN: those assigned in this line-up, and the kept ones not mapped
since power-up (R980). -/
def Dev.toMap (d : Dev) (b : LineupBook) : List (Nat × Nat × Nat) :=
  let l := (b.assigned.map fun p => (p.1, p.2, 0)) ++
    ((b.kept.filter fun p => (d.tw.map.get? p.2).isNone).map fun p => (p.1, p.2, 1))
  (span 0x40 16).flatMap fun a => l.filter fun p => p.1 = a

/-- The mapping of a pod on the bus: its marker is set, and cleared 1 ms later (R980, Table 20.3). -/
def Dev.markPod (d : Dev) (a : Nat) : Dev := (d.drive [.write a [0x10, 0x01]]).drive [.write a [0x10, 0x00]]

/-- What a line-up leaves on record: its errors, then SURVEY_BAD, LINEUP_RETRY, LINEUP_POD and LINEUP_END, each with the counts of the
whole line-up (R983, Tables 20.5 and 20.6; DEDUCED, assumption 149). -/
def Dev.lineupRecords (d : Dev) (b : LineupBook) (pods : List ((Nat × Nat × Nat) × Nat)) (ending micros : Nat) : Dev :=
  let post := fun (d : Dev) event link (fs : List Fld) =>
    d.postPod event link 0xFFFF
      (fs ++ [⟨6, 1, b.assigned.length⟩, ⟨7, 1, b.inUse.length⟩, ⟨18, 2, b.rounds⟩, ⟨20, 4, micros⟩])
  let d := d.each b.surveyBad fun d a => post d 0x24 0xFF [⟨4, 1, a⟩]
  let d := d.each b.retries fun d r => post d 0x21 0xFF [⟨4, 1, r.addr⟩, ⟨5, 1, r.reason⟩, ⟨8, 8, r.id⟩]
  let d := d.each pods fun d p =>
    post d 0x20 (mappedLink p.2) [⟨4, 1, p.1.1⟩, ⟨5, 1, p.1.2.2⟩, ⟨8, 8, p.1.2.1⟩, ⟨16, 2, p.2⟩]
  post d 0x22 0xFF [⟨5, 1, ending⟩]

/-- POD_LINEUP (0x00C0): settings, and a line-up unless NOROLL; on a stuck bus it completes with END = BUS. -/
def execPodLineup (x : Desc) (s : State) : Host.Outcome State Fault Refusal :=
  s.ok (s.dev.command x { opcode := 0x00C0 } (fun _ _ => 0) fun d _ =>
    let fl := x.arg 24 1
    let set := bitOf fl 1
    let noroll := bitOf fl 2
    let mode := x.arg 25 1
    let stretch := x.arg 26 1
    let low := x.arg 27 1
    if set && (2 < mode || stretch < 1 || 25 < stretch || low < 1 || 64 < low || low ≤ stretch) || noroll && !set then
      d.done x.ref stBadArg
    else if d.tw.lineup.isSome then d.done x.ref stBusy
    else if noroll then (d.setBus mode stretch low).done x.ref stOK
    else if d.tw.stuck.isSome then d.lineupStuck (some x.ref)
    else
      let d := if set then d.setBus mode stretch low else d
      d.setTw { d.tw with lineup := some { cmd := some x.ref, flags := fl, since := d.up } })

/-- LINEUP_END: what the bus and the links showed is a whole line-up with its mapping, or one that the bus broke off, which ends with
END = BUS where it had no END yet, its pods not reached by the mapping left unmapped (DESIGN CHOICE, assumption 149). It ends no
sooner than its bits and its 1 ms watches take (R961, Table 20.4). -/
def execLineupEnd (r : LineupSeen) (s : State) : Host.Outcome State Fault Refusal :=
  let d := s.dev
  match d.tw.lineup with
  | none => s.ok d
  | some l =>
    let b := lineupBook (bitOf l.flags 0) r.passes
    let pods := d.toMap b
    let ended := if l.broken then r.marks.length ≤ pods.length else b.ending.isSome && r.marks.length = pods.length
    let n := r.marks.length
    if !d.units || !d.tw.xfers.isEmpty || !ended || !d.since l.since (d.tw.bits (b.clocks + 54 * n) + ms n) then s.ok d
    else
      let ending := b.ending.getD 4
      let noted := (pods.zip (r.marks.map notedLinks)).map fun p => (p.1, p.2)
      let d := (d.drive b.sent).each noted fun d p => d.markPod p.1.1
      let d := d.each (List.replicate b.stopLosses ()) fun d _ => d.twmError 0x0703 4 0
      let map := noted.foldl (fun (m : Tbl Nat) p => m.set p.1.2.1 (mappedLink p.2)) d.tw.map
      let d := d.setTw { d.tw with lineup := none, addressed := b.inUse, map := map }
      s.ok ((d.lineupRecords b noted ending (toMicros (d.up - l.since))).lineupDone l.cmd b.assigned.length b.inUse.length ending)

/-! ### The target port (R984–R992, R1005, Table 20.7) -/

/-- The port's 7-bit address (R984). -/
def Dev.twtAddress (d : Dev) : Nat := 0x58 + 2 * b2n d.pwr.twtA1 + b2n d.pwr.twtA0

/-- The pointer after one byte (R985). -/
def nextPtr (p : Nat) : Nat := if p ≥ 95 then 0 else p + 1

/-- A data byte at the pointer is refused (Table 20.7). -/
def Dev.twtRefuses (d : Dev) : Bool := d.tw.ptr ≥ 48 || d.host.twtLock || !d.twtWrites

/-- A data byte after the pointer byte that the port takes: it is staged, and the eighth of a register in ascending order writes
it (R986, R987). -/
def Dev.twtTake (d : Dev) (b : Byte) : Dev :=
  let p := d.tw.ptr
  let staged := if p % 8 = 0 then [b] else if d.tw.staged.length = p % 8 then d.tw.staged ++ [b] else []
  if p % 8 = 7 && staged.length = 8 then
    (d.setTw { d.tw with ptr := nextPtr p, staged := [], wroteAt := some d.up }).registerWrite (8 * (p / 8))
      { path := .twt, value := BitVec.ofNat 64 (leNat staged) }
  else d.setTw { d.tw with ptr := nextPtr p, staged := staged }

/-- The data bytes of a write after its pointer byte: what each is answered. After a NACK the rest are NACKed. -/
def twtData : Dev → List Byte → Dev × List Bool
  | d, [] => (d, [])
  | d, b :: t =>
    if d.twtRefuses then (d, (b :: t).map fun _ => false)
    else
      let p := twtData (d.twtTake b) t
      (p.1, true :: p.2)

/-- The eight bytes of a register are copied as its first byte is sent; how far the mover has come is free (R988, R775). -/
def Dev.twtCopy (d : Dev) (copy : Option (Nat × Nat)) : Dev × Nat × Nat :=
  let off := 8 * (d.tw.ptr / 8)
  let fresh := fun (_ : Unit) =>
    let d := if 0x48 ≤ off then d.moverLook else d
    (d, off, d.regPf off)
  match copy with
  | some c => if c.1 = off && d.tw.ptr % 8 ≠ 0 then (d, c) else fresh ()
  | none => fresh ()

/-- `n` bytes read from the pointer on, with the copy of a register that the transaction holds (R985, R988). -/
def twtRead : Nat → Option (Nat × Nat) → Dev → Dev × Option (Nat × Nat) × List Byte
  | 0, c, d => (d, c, [])
  | n + 1, c, d =>
    let q := d.twtCopy c
    let p := q.1.tw.ptr
    let b := BitVec.ofNat 8 (q.2.2 / 2 ^ (8 * (p % 8)))
    let r := twtRead n (some q.2) (q.1.setTw { q.1.tw with ptr := nextPtr p })
    (r.1, r.2.1, b :: r.2.2)

/-- One part of a transaction, from a START or repeated START on; staged bytes of a part before it are discarded (R986). -/
def Dev.twtPart (d : Dev) (copy : Option (Nat × Nat)) (p : TwtPart) : Dev × Option (Nat × Nat) × List Bool × List Byte :=
  let d := d.setTw { d.tw with staged := [] }
  match p with
  | .read n => let q := twtRead n copy d; (q.1, q.2.1, [true], q.2.2)
  | .write [] => (d, copy, [true], [])
  | .write (b :: t) =>
    if b.toNat > 95 then (d, copy, true :: false :: t.map fun _ => false, [])
    else
      let q := twtData (d.setTw { d.tw with ptr := b.toNat }) t
      (q.1, copy, true :: true :: q.2, [])

/-- The parts of a transaction, in order. -/
def twtParts : Dev → Option (Nat × Nat) → List TwtPart → Dev × List Bool × List Byte
  | d, _, [] => (d, [], [])
  | d, c, p :: t =>
    let a := d.twtPart c p
    let b := twtParts a.1 a.2.1 t
    (b.1, a.2.2.1 ++ b.2.1, a.2.2.2 ++ b.2.2)

/-- The address of a transaction is refused though the port is powered and awake (Table 20.7). -/
def Dev.twtBusy (d : Dev) : Bool :=
  d.pwr.step = .held || d.pwr.step = .configRecall || (d.pwr.pstate ≠ .run && d.up < d.tw.wakeAt) ||
    match d.tw.wroteAt with | some t => !d.since t (us 2) | none => false

/-- TWT_ADDRESS: a transaction addresses a target on the bus. The LY64 answers its own address, or refuses; a sleeping port
wakes and answers from 50 µs later (R984–R990). -/
def execTwtAddress (addr : Nat) (parts : List TwtPart) (s : State) : Host.Outcome State Fault Refusal :=
  let d := s.dev
  if addr ≠ d.twtAddress || d.pwr.pstate = .off then s.stored d
  else if d.pwr.pstate = .backup then s.stored (d.emit (.twtAnswer [false] []))
  else
    let sleeps := d.tw.asleep && d.pwr.pstate ≠ .run
    let busy := d.twtBusy
    let d := d.setTw { d.tw with
      lastUse := d.up, asleep := false, wakeAt := if sleeps then d.up + us 50 else d.tw.wakeAt, staged := [] }
    if sleeps || busy then s.stored (d.emit (.twtAnswer [false] []))
    else
      let q := twtParts d none (if parts.isEmpty then [.write []] else parts)
      s.stored ((q.1.setTw { q.1.tw with staged := [] }).emit (.twtAnswer q.2.1 q.2.2))

/-- TWT_SLEEP: in DOZE and HOLD the port sleeps after 10 ms without a transaction (R990). -/
def execTwtSleep (s : State) : Host.Outcome State Fault Refusal :=
  let d := s.dev
  if (d.pwr.pstate = .doze || d.pwr.pstate = .hold) && d.since d.tw.lastUse (ms 10) then
    s.ok (d.setTw { d.tw with asleep := true })
  else s.ok d

end Sys2Proof.Machine
end

