-- ==== Sys2Proof/Machine/Dispatch.lean ====
section
/-!
DEFINITION. Machine/Dispatch.lean: one arm per command of the block, each a direct call of its meaning.
-/
namespace Sys2Proof.Machine

/-- The effect of a command on everything but the queue. -/
def exec (i : Instr) (s : State) : Host.Outcome State Fault Refusal :=
  match i with
  | .alwaysOnPor p mainsOk => Sys2Proof.Machine.execAlwaysOnPor p mainsOk s
  | .resetN p mainsOk micros => Sys2Proof.Machine.execResetN p mainsOk micros s
  | .configRecallDone bad => Sys2Proof.Machine.execConfigRecallDone bad s
  | .ledgerRecallDone bad => Sys2Proof.Machine.execLedgerRecallDone bad s
  | .powerUpTestEnd => Sys2Proof.Machine.execPowerUpTestEnd s
  | .accumulationStart => Sys2Proof.Machine.execAccumulationStart s
  | .standaloneNegotiation => Sys2Proof.Machine.execStandaloneNegotiation s
  | .samplePeriod x => Sys2Proof.Machine.execSamplePeriod x s
  | .commitTick => Sys2Proof.Machine.execCommitTick s
  | .commitComplete => Sys2Proof.Machine.execCommitComplete s
  | .holdEntry vdd33 lowTenths => Sys2Proof.Machine.execHoldEntry vdd33 lowTenths s
  | .vddaLow tenths => Sys2Proof.Machine.execVddaLow tenths s
  | .finalCommitDone => Sys2Proof.Machine.execFinalCommitDone s
  | .backupEntry => Sys2Proof.Machine.execBackupEntry s
  | .backupExit => Sys2Proof.Machine.execBackupExit s
  | .offEntry => Sys2Proof.Machine.execOffEntry s
  | .holdExit micros vdd33 vdda => Sys2Proof.Machine.execHoldExit micros vdd33 vdda s
  | .metrologyClockLost l => Sys2Proof.Machine.execMetrologyClockLost l s
  | .metrologyClockReturn => Sys2Proof.Machine.execMetrologyClockReturn s
  | .xt32Fail micros => Sys2Proof.Machine.execXt32Fail micros s
  | .xt32Restored cycles shortest longest => Sys2Proof.Machine.execXt32Restored cycles shortest longest s
  | .vbatLow mv => Sys2Proof.Machine.execVbatLow mv s
  | .dozeEntry => Sys2Proof.Machine.execDozeEntry s
  | .preWake tx => Sys2Proof.Machine.execPreWake tx s
  | .pllLock locked => Sys2Proof.Machine.execPllLock locked s
  | .fastSleep => Sys2Proof.Machine.execFastSleep s
  | .backstopEntry => Sys2Proof.Machine.execBackstopEntry s
  | .fastLogicFault unit => Sys2Proof.Machine.execFastLogicFault unit s
  | .superframeReceived n slots arrival => Sys2Proof.Machine.execSuperframeReceived n slots arrival s
  | .sampleRelease n => Sys2Proof.Machine.execSampleRelease n s
  | .relayMismatch n r => Sys2Proof.Machine.execRelayMismatch n r s
  | .dnShort n common limit tenths => Sys2Proof.Machine.execDnShort n common limit tenths s
  | .dnShortRetry n => Sys2Proof.Machine.execDnShortRetry n s
  | .dnShortClear n => Sys2Proof.Machine.execDnShortClear n s
  | .chFlatline c => Sys2Proof.Machine.execChFlatline c s
  | .chFlatlineEnd c => Sys2Proof.Machine.execChFlatlineEnd c s
  | .chOverloadEnd c => Sys2Proof.Machine.execChOverloadEnd c s
  | .dmLock x => Sys2Proof.Machine.execDmLock x s
  | .dmInputLost x => Sys2Proof.Machine.execDmInputLost x s
  | .dmAlignError x => Sys2Proof.Machine.execDmAlignError x s
  | .umpireBlock => Sys2Proof.Machine.execUmpireBlock s
  | .referenceTestEnd => Sys2Proof.Machine.execReferenceTestEnd s
  | .converterRetest conv => Sys2Proof.Machine.execConverterRetest conv s
  | .converterRetestEnd conv => Sys2Proof.Machine.execConverterRetestEnd conv s
  | .vchkWatch => Sys2Proof.Machine.execVchkWatch s
  | .vinClipEnd c => Sys2Proof.Machine.execVinClipEnd c s
  | .vinOpenTest c => Sys2Proof.Machine.execVinOpenTest c s
  | .vinOpenTestEnd c shift => Sys2Proof.Machine.execVinOpenTestEnd c shift s
  | .compCrossing n nv tenths => Sys2Proof.Machine.execCompCrossing n nv tenths s
  | .auxConversion c => Sys2Proof.Machine.execAuxConversion c s
  | .reverseCurrent a k => Sys2Proof.Machine.execReverseCurrent a k s
  | .reversalEnd a k => Sys2Proof.Machine.execReversalEnd a k s
  | .crossingConfirmed => Sys2Proof.Machine.execCrossingConfirmed s
  | .lockLoss => Sys2Proof.Machine.execLockLoss s
  | .freeRunBoundary => Sys2Proof.Machine.execFreeRunBoundary s
  | .previewInstant => Sys2Proof.Machine.execPreviewInstant s
  | .retractNoCrossing => Sys2Proof.Machine.execRetractNoCrossing s
  | .secondBoundary => Sys2Proof.Machine.execSecondBoundary s
  | .harmonicWindow => Sys2Proof.Machine.execHarmonicWindow s
  | .captureDelivery => Sys2Proof.Machine.execCaptureDelivery s
  | .sealOpen micros => Sys2Proof.Machine.execSealOpen micros s
  | .sealClose => Sys2Proof.Machine.execSealClose s
  | .pulseWidthEnd o => Sys2Proof.Machine.execPulseWidthEnd o s
  | .pulseSaturatedEnd o => Sys2Proof.Machine.execPulseSaturatedEnd o s
  | .pulseShort o tenths => Sys2Proof.Machine.execPulseShort o tenths s
  | .pulseShortRetry o => Sys2Proof.Machine.execPulseShortRetry o s
  | .pulseShortClear o => Sys2Proof.Machine.execPulseShortClear o s
  | .groupWriteDone good => Sys2Proof.Machine.execGroupWriteDone good s
  | .sectorEraseDone => Sys2Proof.Machine.execSectorEraseDone s
  | .marginPass found => Sys2Proof.Machine.execMarginPass found s
  | .refreshForward good => Sys2Proof.Machine.execRefreshForward good s
  | .ledgerScrub found => Sys2Proof.Machine.execLedgerScrub found s
  | .sramScrub staging rings => Sys2Proof.Machine.execSramScrub staging rings s
  | .demandIntervalClose => Sys2Proof.Machine.execDemandIntervalClose s
  | .loadReclose a => Sys2Proof.Machine.execLoadReclose a s
  | .friendlyHoursEnd => Sys2Proof.Machine.execFriendlyHoursEnd s
  | .gridFallback => Sys2Proof.Machine.execGridFallback s
  | .drbgReseed t => Sys2Proof.Machine.execDrbgReseed t s
  | .snapshotSigned => Sys2Proof.Machine.execSnapshotSigned s
  | .tamperWindow inputs calEn => Sys2Proof.Machine.execTamperWindow inputs calEn s
  | .batteryCheck mv => Sys2Proof.Machine.execBatteryCheck mv s
  | .go w => Sys2Proof.Machine.execGo w s
  | .negotiationComplete ctx => Sys2Proof.Machine.execNegotiationComplete ctx s
  | .softReset w => Sys2Proof.Machine.execSoftReset w s
  | .causeW1c w => Sys2Proof.Machine.execCauseW1c w s
  | .kick path b => Sys2Proof.Machine.execKick path b s
  | .scanAll path bs => Sys2Proof.Machine.execScanAll path bs s
  | .movectlGo w => Sys2Proof.Machine.execMovectlGo w s
  | .movectlDrop w => Sys2Proof.Machine.execMovectlDrop w s
  | .moveDone data okay bad => Sys2Proof.Machine.execMoveDone data okay bad s
  | .registerWrite off wellFormed w => Sys2Proof.Machine.execRegisterWrite off wellFormed w s
  | .msixHoldoff f v => Sys2Proof.Machine.execMsixHoldoff f v s
  | .hostPortDown => Sys2Proof.Machine.execHostPortDown s
  | .hostPortFail => Sys2Proof.Machine.execHostPortFail s
  | .hostPortUp => Sys2Proof.Machine.execHostPortUp s
  | .pfFlr => Sys2Proof.Machine.execPfFlr s
  | .vfFlr t => Sys2Proof.Machine.execVfFlr t s
  | .vfFlrDone t => Sys2Proof.Machine.execVfFlrDone t s
  | .busMasterEnable f on => Sys2Proof.Machine.execBusMasterEnable f on s
  | .d3hot on => Sys2Proof.Machine.execD3hot on s
  | .descriptorFetch r xs => Sys2Proof.Machine.execDescriptorFetch r xs s
  | .contextWriteback r => Sys2Proof.Machine.execContextWriteback r s
  | .doorbellScan bs => Sys2Proof.Machine.execDoorbellScan bs s
  | .heldRecheck b => Sys2Proof.Machine.execHeldRecheck b s
  | .nop x => Sys2Proof.Machine.execNop x s
  | .fence x => Sys2Proof.Machine.execFence x s
  | .ringAdd x => Sys2Proof.Machine.execRingAdd x s
  | .ringDel x => Sys2Proof.Machine.execRingDel x s
  | .ringStop x => Sys2Proof.Machine.execRingStop x s
  | .ringStart x => Sys2Proof.Machine.execRingStart x s
  | .ringQuery x => Sys2Proof.Machine.execRingQuery x s
  | .ringBlockAssign x => Sys2Proof.Machine.execRingBlockAssign x s
  | .bufReassign x => Sys2Proof.Machine.execBufReassign x s
  | .tenantSet x => Sys2Proof.Machine.execTenantSet x s
  | .tenantGet x => Sys2Proof.Machine.execTenantGet x s
  | .tenantSuspend x => Sys2Proof.Machine.execTenantSuspend x s
  | .tenantResume x => Sys2Proof.Machine.execTenantResume x s
  | .calSet x => Sys2Proof.Machine.execCalSet x s
  | .calGet x => Sys2Proof.Machine.execCalGet x s
  | .ledgerRead x => Sys2Proof.Machine.execLedgerRead x s
  | .snapshot x => Sys2Proof.Machine.execSnapshot x s
  | .packageLoad x => Sys2Proof.Machine.execPackageLoad x s
  | .gridStateSet x => Sys2Proof.Machine.execGridStateSet x s
  | .creditAdd x => Sys2Proof.Machine.execCreditAdd x s
  | .relaySet x => Sys2Proof.Machine.execRelaySet x s
  | .keyLoad x => Sys2Proof.Machine.execKeyLoad x s
  | .keyCommit x => Sys2Proof.Machine.execKeyCommit x s
  | .keyStatus x => Sys2Proof.Machine.execKeyStatus x s
  | .configRead x => Sys2Proof.Machine.execConfigRead x s
  | .configWrite x => Sys2Proof.Machine.execConfigWrite x s
  | .auxSeqSet x => Sys2Proof.Machine.execAuxSeqSet x s
  | .auxRead x => Sys2Proof.Machine.execAuxRead x s
  | .captureArm x => Sys2Proof.Machine.execCaptureArm x s
  | .lineSend x => Sys2Proof.Machine.execLineSend x s
  | .lineJoin x => Sys2Proof.Machine.execLineJoin x s
  | .lineStatus x => Sys2Proof.Machine.execLineStatus x s
  | .podLineup x => Sys2Proof.Machine.execPodLineup x s
  | .lineupEnd r => Sys2Proof.Machine.execLineupEnd r s
  | .podXfer x => Sys2Proof.Machine.execPodXfer x s
  | .podXferEnd e => Sys2Proof.Machine.execPodXferEnd e s
  | .clockSet x => Sys2Proof.Machine.execClockSet x s
  | .clockGet x => Sys2Proof.Machine.execClockGet x s
  | .errorAck x => Sys2Proof.Machine.execErrorAck x s
  | .recoverCandidate x => Sys2Proof.Machine.execRecoverCandidate x s
  | .recoverFresh x => Sys2Proof.Machine.execRecoverFresh x s
  | .linkZero x => Sys2Proof.Machine.execLinkZero x s
  | .linkWalk x => Sys2Proof.Machine.execLinkWalk x s
  | .voltB x => Sys2Proof.Machine.execVoltB x s
  | .refTest x => Sys2Proof.Machine.execRefTest x s
  | .crypto x => Sys2Proof.Machine.execCrypto x s
  | .selftestComplete bits raw => Sys2Proof.Machine.execSelftestComplete bits raw s
  | .pulseAssign x => Sys2Proof.Machine.execPulseAssign x s
  | .stretchLimit micros moved data => Sys2Proof.Machine.execStretchLimit micros moved data s
  | .twmSclStuck micros moved data => Sys2Proof.Machine.execTwmSclStuck micros moved data s
  | .twmSdaStuck micros sclHigh moved data => Sys2Proof.Machine.execTwmSdaStuck micros sclHigh moved data s
  | .busRecovery sclMicros sda => Sys2Proof.Machine.execBusRecovery sclMicros sda s
  | .twtAddress addr parts => Sys2Proof.Machine.execTwtAddress addr parts s
  | .twtSleep => Sys2Proof.Machine.execTwtSleep s
  | .frameDetect h => Sys2Proof.Machine.execFrameDetect h s
  | .captured h part => Sys2Proof.Machine.execCaptured h part s
  | .phyFrameReceived bits => Sys2Proof.Machine.execPhyFrameReceived bits s
  | .segmentTimeout src => Sys2Proof.Machine.execSegmentTimeout src s
  | .agcRise => Sys2Proof.Machine.execAgcRise s
  | .txSlotStart => Sys2Proof.Machine.execTxSlotStart s
  | .txFrameEnd ohms => Sys2Proof.Machine.execTxFrameEnd ohms s
  | .txShort ohms => Sys2Proof.Machine.execTxShort ohms s
  | .beacon => Sys2Proof.Machine.execBeacon s
  | .claim => Sys2Proof.Machine.execClaim s
  | .joinReq => Sys2Proof.Machine.execJoinReq s
  | .joinAck => Sys2Proof.Machine.execJoinAck s
  | .ack => Sys2Proof.Machine.execAck s
  | .keyreq => Sys2Proof.Machine.execKeyreq s
  | .tunnelCmd => Sys2Proof.Machine.execTunnelCmd s
  | .tunnelRec => Sys2Proof.Machine.execTunnelRec s
  | .app => Sys2Proof.Machine.execApp s
  | .listenTimeout => Sys2Proof.Machine.execListenTimeout s
  | .captainTimeout => Sys2Proof.Machine.execCaptainTimeout s
  | .beaconDue => Sys2Proof.Machine.execBeaconDue s
  | .beaconLoss => Sys2Proof.Machine.execBeaconLoss s
  | .ackTimeout => Sys2Proof.Machine.execAckTimeout s
  | .keyreqRepeat => Sys2Proof.Machine.execKeyreqRepeat s
  | .joinRetry => Sys2Proof.Machine.execJoinRetry s
  | .tunnelTimeout tid => Sys2Proof.Machine.execTunnelTimeout tid s
  | .slotWindowClose => Sys2Proof.Machine.execSlotWindowClose s
  | .restartCheck pllOk logicOk => Sys2Proof.Machine.execRestartCheck pllOk logicOk s
  | .dozeExitCount => Sys2Proof.Machine.execDozeExitCount s
  | .counters => Sys2Proof.Machine.execCounters s
  | .umpireSummary => Sys2Proof.Machine.execUmpireSummary s
  | .trackerSummary => Sys2Proof.Machine.execTrackerSummary s
  | .pqSummary => Sys2Proof.Machine.execPqSummary s
  | .pulseSummary => Sys2Proof.Machine.execPulseSummary s
  | .balanceSummary => Sys2Proof.Machine.execBalanceSummary s
  | .tamperSummary => Sys2Proof.Machine.execTamperSummary s
  | .errorSummary => Sys2Proof.Machine.execErrorSummary s
  | .lineSummary => Sys2Proof.Machine.execLineSummary s
  | .registerRead f a => Sys2Proof.Machine.execRegisterRead f a s
  | .drbgSeed t => Sys2Proof.Machine.execDrbgSeed t s
  | .msixUnmask f en fmask vmask => Sys2Proof.Machine.execMsixUnmask f en fmask vmask s
  | .vfEnable n on ari => Sys2Proof.Machine.execVfEnable n on ari s
  | .completionTimeout r => Sys2Proof.Machine.execCompletionTimeout r s

end Sys2Proof.Machine
end

