-- ==== Sys2Proof/Safety.lean ====
section
/-!
DEFINITION. Safety.lean: the invariant every step keeps, which commands may change the boot image area, which are opcodes and
with which row of Table 18.5, and what it is for a command to complete, in the terms the statements use.
-/
namespace Sys2Proof

/-- The commands that may change the boot image area: mover transfers and the register writes that trigger them (R862, R863),
what runs or clears a boot image (R863, R864), and what begins a power-up. -/
def Instr.storesBoot : Instr → Bool
  | .go _ => true
  | .softReset _ => true
  | .movectlGo _ => true
  | .movectlDrop _ => true
  | .moveDone _ _ _ => true
  | .registerWrite _ _ _ => true
  | .pfFlr => true
  | .negotiationComplete _ => true
  | .restartCheck _ _ => true
  | .twtAddress _ _ => true
  | .alwaysOnPor _ _ => true
  | .resetN _ _ _ => true
  | .holdExit _ _ _ => true
  | .metrologyClockReturn => true
  | _ => false

namespace Machine

/-- The invariant of the block: the boot image area is in canonical form, and no byte is on its way there between commands. -/
def State.Inv (s : State) : Prop := Memory.wf s.boot = true ∧ s.dev.stores = []

/-- A command completes in a state: it answers a next state, of which `P` holds. -/
def Runs (c : Instr) (s : State) (P : State → Prop) : Prop := ∃ t, exec c s = .next t ∧ P t

/-- The opcode commands and their rows of Table 18.5: the descriptor, the opcode, who may issue it, the feature it needs, whether
TENANT names an account, and the state book entry whose epoch is judged. A command of SELFTEST or ERROR_ACK whose TEST or ACTION
is another command's is none. FENCE itself does not wait for FLAGS.FENCE. -/
def opcodeRow : Instr → Option (Desc × OpRow)
  | .nop x => some (x, { opcode := 0x0001, tenantMay := true })
  | .fence x => some ({ x with fence := false }, { opcode := 0x0002, tenantMay := true })
  | .ringAdd x => some (x, { opcode := 0x0010, entry := some 0x47, hostOnly := true })
  | .ringDel x => some (x, { opcode := 0x0011, entry := some 0x47, hostOnly := true })
  | .ringStop x => some (x, { opcode := 0x0012, entry := some 0x47, hostOnly := true })
  | .ringStart x => some (x, { opcode := 0x0013, entry := some 0x47, hostOnly := true })
  | .ringQuery x => some (x, { opcode := 0x0014, hostOnly := true })
  | .ringBlockAssign x => some (x, { opcode := 0x0015, entry := some 0x47, hostOnly := true })
  | .bufReassign x => some (x, { opcode := 0x0021, anyTenant := true, hostOnly := true })
  | .tenantSet x => some (x, { opcode := 0x0030, account := true })
  | .tenantGet x => some (x, { opcode := 0x0031, tenantMay := true, account := true })
  | .tenantSuspend x => some (x, { opcode := 0x0032, account := true })
  | .tenantResume x => some (x, { opcode := 0x0033, account := true })
  | .calSet x => some (x, { opcode := 0x0040 })
  | .calGet x => some (x, { opcode := 0x0041 })
  | .ledgerRead x => some (x, { opcode := 0x0050, tenantMay := true, account := true })
  | .snapshot x => some (x, { opcode := 0x0051, tenantMay := true, feature := some 7, account := true })
  | .packageLoad x => some (x, { opcode := 0x0060, entry := some 0x43 })
  | .gridStateSet x => some (x, { opcode := 0x0061, feature := some 9, entry := some 0x43 })
  | .creditAdd x => some (x, { opcode := 0x0062, feature := some 10, account := true })
  | .relaySet x => some (x, { opcode := 0x0063, feature := some 9, account := true })
  | .keyLoad x => some (x, { opcode := 0x0070, entry := some 0x46 })
  | .keyCommit x => some (x, { opcode := 0x0071, entry := some 0x46 })
  | .keyStatus x => some (x, { opcode := 0x0072, tenantMay := true, entry := some 0x46 })
  | .configRead x => some (x, { opcode := 0x0080 })
  | .configWrite x =>
    some (x, ⟨0x0081, false, none, false, false,
      if x.arg 24 1 = 0x08 then some 0x47 else if x.arg 24 1 = 0x09 then some 0x44 else none, false⟩)
  | .auxSeqSet x => some (x, { opcode := 0x0090, feature := some 11, entry := some 0x42 })
  | .auxRead x => some (x, { opcode := 0x0091, feature := some 11, entry := some 0x42 })
  | .captureArm x => some (x, { opcode := 0x00A0, feature := some 4 })
  | .lineSend x => some (x, { opcode := 0x00B0, feature := some 5, entry := some 0x44 })
  | .lineJoin x => some (x, { opcode := 0x00B1, feature := some 5, entry := some 0x44 })
  | .lineStatus x => some (x, { opcode := 0x00B2, feature := some 5, entry := some 0x44 })
  | .podLineup x => some (x, { opcode := 0x00C0 })
  | .podXfer x => some (x, { opcode := 0x00C1 })
  | .clockSet x => some (x, { opcode := 0x00D0 })
  | .clockGet x => some (x, { opcode := 0x00D1 })
  | .errorAck x => if x.arg 24 1 = 1 ∨ x.arg 24 1 = 2 then none else some (x, { opcode := 0x00E0 })
  | .recoverCandidate x => if x.arg 24 1 = 1 then some (recoverRow x) else none
  | .recoverFresh x => if x.arg 24 1 = 2 then some (recoverRow x) else none
  | .linkZero x => selftestRow x 0x01
  | .linkWalk x => selftestRow x 0x02
  | .voltB x => selftestRow x 0x10
  | .refTest x => selftestRow x 0x11
  | .crypto x => selftestRow x 0x20
  | .pulseAssign x => some (x, { opcode := 0x00F0, entry := some 0x45 })
  | _ => none
where
  /-- ERROR_ACK's row where it recovers an account, whose entry is judged. -/
  recoverRow (x : Desc) : Desc × OpRow :=
    (x, ⟨0x00E0, false, none, false, false, if x.arg 26 1 ≤ 64 then some (x.arg 26 1) else none, false⟩)
  /-- SELFTEST's row for the command of one TEST; an undefined TEST is every such command's. -/
  selftestRow (x : Desc) (test : Nat) : Option (Desc × OpRow) :=
    if x.arg 24 1 ≠ test ∧ selfTests.contains (x.arg 24 1) = true then none
    else some (x, ⟨0x00E1, false, none, false, false, if x.arg 24 1 = 0x10 ∨ x.arg 24 1 = 0x11 then some 0x41 else none, false⟩)

/-- A command is an opcode that executes and passes checks 1 to 3 of Table 18.3. -/
def Accepted (c : Instr) (s : State) : Prop := ∃ p, opcodeRow c = some p ∧ s.dev.accepts p.1 p.2 = true

/-- The device less what posting a record and completing a command may change: the rings and what they owe, the record streams,
the causes and messages of the functions, the counters of the keys, a capture's trigger, the tunnel's queue and the waking of
the fast domain. -/
def Dev.quiet (d : Dev) : Dev :=
  { d with
    pwr := { d.pwr with pstate := .run, fastOn := false, dozeTime := 0, idleSince := 0, workAt := 0 }
    host := { d.host with fns := {} }
    eng := {}, recs := {}, out := [], stores := []
    keys := { d.keys with counter := {}, authRefused := {} }
    pq := { d.pq with cap := {} }
    lnet := { d.lnet with tunQueue := [], tunNext := 0, tunDropped := 0, tunReady := [], tunRunning := none } }

/-- A command completes and changes nothing but the rings, records, causes, messages and counters that posting a record and
completing a command may change. -/
def OnlyPosts (c : Instr) (s : State) : Prop := Runs c s fun t => t.dev.quiet = s.dev.quiet ∧ t.boot = s.boot ∧ t.pending = s.pending

end Machine

end Sys2Proof
end

