-- ==== Sys2Proof/Certificates/Slice0/Obligations.lean ====
section
/-!
DEFINITION. Certificates/Slice0/Obligations.lean: the statements about the LY64 for the provers. Assumption numbers name the
rows of notes/assumptions.
-/
open Sys2Proof Sys2Proof.Machine

/-! ### The block as a machine -/

/-- Every command is taken from the front of the queue: with command `c` in front, a step is `c`'s effect on the state with
the queue's rest. -/
def Obligations.StepTakesFront : Prop :=
  ∀ (c : Instr) (s : State), step { s with pending := c :: s.pending } = exec c s

/-- Every command answers a next state, never a fault and never a refusal, and leaves the queue as it finds it. -/
def Obligations.EveryCommandCompletes : Prop :=
  ∀ (c : Instr) (s : State), ∃ t, exec c s = .next t ∧ t.pending = s.pending

/-- The queue is first in, first out, and never blocks: as many steps as commands wait ahead of some rest take exactly those
commands, leave exactly that rest waiting, and keep the invariant; the first of the steps is the first command's effect. -/
def Obligations.QueueRunsInOrder : Prop :=
  ∀ (c : Instr) (cs rest : List Instr) (s : State), s.Inv → s.pending = c :: cs ++ rest →
    ∃ u t, exec c { s with pending := cs ++ rest } = .next u ∧ u.pending = cs ++ rest ∧
      Host.Core.run Sys2Proof.core cs.length u = .next t ∧
      Host.Core.run Sys2Proof.core (c :: cs).length s = .next t ∧ t.pending = rest ∧ t.Inv

/-- The state after reset (R771, Tables 16.3 to 16.8): it holds the invariant and no command waits; the PF's registers read the values
of the Reset column, CAL_EN and TIME_INVALID of STATUS apart, every VF's CAUSE is masked, and no ring is present. HOSTMODE is high
there (the model's choice, assumption 5). -/
def Obligations.ResetState : Prop :=
  let d := State.reset.dev
  State.reset.Inv ∧ State.reset.pending = [] ∧ State.reset.boot = [] ∧ d.pwr.hostmode = true ∧
    d.regOf 0 0x00 = 0xA7C3006400A10000 ∧ d.regOf 0 0x08 = 0xFFFF ∧ d.regOf 0 0x10 = 0 ∧ d.regOf 0 0x18 = 0x000003E800000000 ∧
    d.status % 0x100 = 0x86 ∧ d.status / 0x400 = 4 ∧
    (∀ f, d.regOf f 0x28 = 0x0000000F00000000) ∧ d.regOf 0 0x30 = 0 ∧ d.regOf 0 0x38 = 0 ∧ d.regOf 0 0x40 = 0 ∧
    d.regOf 0 0x48 = 0 ∧ d.regOf 0 0x50 = 0 ∧ d.regOf 0 0x58 = 0 ∧ (∀ r, (d.ring r).state = .absent)

/-- Every step keeps the invariant: the boot image area stays in its one canonical form (addresses strictly rising, no byte of
0 listed), and no byte is left on its way there between commands. -/
def Obligations.EveryStepKeepsInv : Prop := ∀ s t : State, s.Inv → step s = .next t → t.Inv

/-- The frame of the boot image area: a command other than those that store there, trigger such a store, or begin a power-up
leaves every byte of it as it reads. -/
def Obligations.BootImageFrame : Prop :=
  ∀ (c : Instr) (s t : State), c.storesBoot = false → exec c s = .next t → ∀ a, getCell a t.boot = getCell a s.boot

/-! ### Time (chapter 2) -/

/-- Time between RTC ticks. In RUN and DOZE with the metrology clock running, device time is the RTC value plus ⌊count × 2^15 / 750⌋ units
for the metrology clocks counted since the last RTC tick, on the 64-bit circle (R90). A metrology clock before the 749th since that tick
counts one up and leaves the RTC value; the count never passes 749; on the fallback the count goes to 749 and the next clock brings the
tick; on the crystal, where the tick may lie one clock off (assumption 113), a count held at 749 is ended by the next clock. -/
def Obligations.DeviceTimeInterpolates : Prop :=
  ∀ d : Dev, d.awake = true → d.pwr.metClock = true →
    d.now = (d.pwr.rtc + d.pwr.mcount * 32768 / 750) % 2 ^ 64 ∧
    (d.pwr.mcount < 748 → d.tick.pwr.mcount = d.pwr.mcount + 1 ∧ d.tick.pwr.rtc = d.pwr.rtc) ∧
    (d.pwr.mcount ≤ 749 → d.tick.pwr.mcount ≤ 749) ∧
    (d.pwr.rtcSource ≠ .crystal → d.pwr.mcount = 748 → d.tick.pwr.mcount = 749 ∧ d.tick.pwr.rtc = d.pwr.rtc) ∧
    (d.pwr.mcount = 749 → d.pwr.rtcSource ≠ .crystal ∨ d.pwr.late = true →
      d.tick.pwr.mcount = 0 ∧ d.tick.pwr.up = d.pwr.up + 32768)

/-- On an empty queue time passes and nothing else (the model's choice, assumption 2): in OFF the state stays as it is; while the
metrology domain runs and fewer than 748 metrology clocks have been counted since the last RTC tick, one more is counted there and one
more since the last sample instant; while the metrology domain does not run, an RTC tick comes, which brings the model's time base on by
2^15 units and leaves power state and Backstop. In each case nothing but the power unit's record changes; where the metrology domain runs
and the tick is due or nearly due, nothing but that record and the counter of free values does. -/
def Obligations.IdleStepIsTime : Prop :=
  ∀ s : State, s.pending = [] →
    (s.dev.pwr.pstate = .off → step s = .next s) ∧
    (s.dev.metRuns = true → s.dev.pwr.mcount < 748 → step s = .next { s with dev := { s.dev with
      pwr := { s.dev.pwr with mcount := s.dev.pwr.mcount + 1, smpClocks := s.dev.pwr.smpClocks + 1 } } }) ∧
    (s.dev.pwr.pstate ≠ .off → s.dev.metRuns = false → ∃ p : Power,
      step s = .next { s with dev := { s.dev with pwr := p } } ∧ p.up = s.dev.pwr.up + 32768 ∧ p.mcount = 0 ∧
      p.pstate = s.dev.pwr.pstate ∧ p.backstop = s.dev.pwr.backstop) ∧
    (s.dev.metRuns = true → 748 ≤ s.dev.pwr.mcount → ∃ (p : Power) (n : Nat),
      step s = .next { s with dev := { s.dev with pwr := p, free := n } } ∧ p.pstate = s.dev.pwr.pstate ∧
      p.backstop = s.dev.pwr.backstop ∧ (p.up = s.dev.pwr.up ∨ p.up = s.dev.pwr.up + 32768 ∧ p.mcount = 0))

/-- Device time never decreases while time passes (R92), whatever slew runs and whether or not the metrology clock runs: below the top of
the 64-bit circle, for a count of metrology clocks no greater than 749 and a slew's fraction below one unit. -/
def Obligations.TimeNeverRunsBack : Prop :=
  ∀ d : Dev, d.pwr.mcount ≤ 749 → d.pwr.slewFrac < 1000 → d.pwr.rtc + 2 ^ 17 ≤ 2 ^ 64 → d.now ≤ d.tick.now

/-- A slew never overshoots: each RTC tick absorbs at most 17 units of it, at least 16 while at least 17 are left, with its sign, and no
more than is left (R95: 500 ppm of 2^15 units is 16.384). -/
def Obligations.SlewAbsorbs : Prop :=
  ∀ p : Power, p.slewFrac < 1000 →
    (p.slewStep).natAbs ≤ 17 ∧ (p.slew - p.slewStep).natAbs ≤ p.slew.natAbs ∧
      (17 ≤ p.slew.natAbs → 16 ≤ (p.slewStep).natAbs) ∧
      (0 ≤ p.slew → 0 ≤ p.slew - p.slewStep) ∧ (p.slew ≤ 0 → p.slew - p.slewStep ≤ 0)

/-! ### Power states and clocks (chapters 1, 2 and 25) -/

/-- The moves between HOLD, BACKUP and OFF. BACKUP_ENTRY in HOLD after the final commit (R119): the state is BACKUP, the device time is noted
as BACKUP's where none is yet, the runs of the battery check are 0, and the tamper windows count from a new start. BACKUP_EXIT in BACKUP:
the state is HOLD, the tamper windows count from a new start, and the two-wire ports are as new but for the time of the last transaction,
which is now. OFF_ENTRY in BACKUP: the state is OFF. In each case nothing else changes. -/
def Obligations.BackupAndOff : Prop :=
  ∀ s : State, s.dev.stores = [] →
    (s.dev.pwr.pstate = .hold → s.dev.pwr.finalDone = true → Runs .backupEntry s fun t => t = { s with dev := { s.dev with
      pwr := { s.dev.pwr with
        pstate := .backup
        backupTime := if s.dev.pwr.backupTime = 0 then s.dev.now else s.dev.pwr.backupTime }
      tam := { s.dev.tam with batLowRun := 0, batOkRun := 0, windowBase := t.dev.tam.windowBase, windowNo := 0 } } }) ∧
    (s.dev.pwr.pstate = .backup → Runs .backupExit s fun t => t = { s with dev := { s.dev with
      pwr := { s.dev.pwr with pstate := .hold }
      tam := { s.dev.tam with windowBase := t.dev.tam.windowBase, windowNo := 0 }
      tw := { lastUse := s.dev.up } } }) ∧
    (s.dev.pwr.pstate = .backup → exec .offEntry s = .next { s with dev := { s.dev with
      pwr := { s.dev.pwr with pstate := .off } } })

/-- HOLD begins in RUN or DOZE (R108, R1154) with VDD33 (given in mV) below 3.05 V, or with the metrology clock running on MAINS_OK low for at
least 2.0 µs (given in tenths of a µs): the state is HOLD, the fast domain is off, MAINS_OK is noted low, nothing accumulates once recall is done or the clock is lost, and the device time is noted as HOLD's unless an earlier HOLD's is still to be
reported; the boot image area stays. A pulse shorter than 1.9 µs with VDD33 at 3.05 V or above changes nothing. VDDA_LOW of at least 2 µs
brings HOLD too, and notes that VDDA fell; in HOLD it only notes that. -/
def Obligations.HoldBegins : Prop :=
  ∀ (s : State) (vdd33 tenths : Nat),
    (s.dev.awake = true → (s.dev.pwr.metClock = true ∨ vdd33 < 3050) → (vdd33 < 3050 ∨ 20 ≤ tenths) →
      Runs (.holdEntry vdd33 tenths) s fun t =>
        t.dev.pwr.pstate = .hold ∧ t.dev.pwr.fastOn = false ∧ t.dev.pwr.mainsOk = false ∧
        (s.dev.pwr.metClock = false ∨ s.dev.pwr.step = .ready → t.dev.pwr.accum = false) ∧
        t.dev.pwr.wasHeld = true ∧ t.dev.pwr.holdTime = (if s.dev.pwr.wasHeld then s.dev.pwr.holdTime else s.dev.now) ∧
        t.boot = s.boot) ∧
    (tenths < 19 → 3050 ≤ vdd33 → s.dev.stores = [] → exec (.holdEntry vdd33 tenths) s = .next s) ∧
    (20 ≤ tenths → s.dev.awake = true → s.dev.pwr.metClock = true → Runs (.vddaLow tenths) s fun t =>
      t.dev.pwr.pstate = .hold ∧ t.dev.pwr.vddaHeld = true ∧ t.dev.pwr.fastOn = false ∧ t.boot = s.boot) ∧
    (20 ≤ tenths → s.dev.pwr.pstate = .hold → s.dev.stores = [] → exec (.vddaLow tenths) s = .next { s with dev := { s.dev with
      pwr := { s.dev.pwr with vddaHeld := true } } })

/-- Power-up begins from step 3 (R112, R119, R133, R134, R1154, R1155). HOLD_EXIT with the final commit done, the metrology clock running and
10 ms of MAINS_OK high at VDD33 of 3.10 V or above, and VDDA of 2.95 V or above where it had fallen; METROLOGY_CLOCK_RETURN in RUN or
DOZE; RESET_N low for at least 10 µs with MAINS_OK high outside BACKUP and OFF; ALWAYS_ON_POR in OFF with MAINS_OK high: with TESTMODE low
each ends in RUN, in step 3, in Backstop with cause 1, with the fast domain off, nothing accumulating, not negotiated, ACCEPT and ENABLE 0,
no ring, block or command in flight, and the boot image area 0. The RTC value stands over the first three, and the ledger copies over the
first two, and over RESET_N where no commit is being written; HOSTMODE is the strap's after RESET_N and ALWAYS_ON_POR; after
ALWAYS_ON_POR device time is 0 and TIME_INVALID is 1. METROLOGY_CLOCK_RETURN owes the RTC ticks counted, in seconds rounded up, at least
one. -/
def Obligations.PowerUpBegins : Prop :=
  ∀ (s : State) (p : Straps) (micros : Nat),
    let begun := fun (t : State) => t.dev.pwr.pstate = .run ∧ t.dev.pwr.step = .configRecall ∧ t.dev.pwr.backstop = true ∧
      t.dev.pwr.cause = 1 ∧ t.dev.pwr.fastOn = false ∧ t.dev.pwr.accum = false ∧ t.dev.host.negotiated = false ∧
      t.dev.host.accept = 0#64 ∧ t.dev.host.enable = false ∧ t.dev.eng = {} ∧ t.boot = []
    (∀ vdd33 vdda, s.dev.pwr.pstate = .hold → s.dev.pwr.finalDone = true → s.dev.pwr.metClock = true → s.dev.pwr.testmode = false →
      10000 ≤ micros → 3100 ≤ vdd33 → (s.dev.pwr.vddaHeld = true → 2950 ≤ vdda) → Runs (.holdExit micros vdd33 vdda) s fun t =>
        begun t ∧ t.dev.pwr.rtc = s.dev.pwr.rtc ∧ t.dev.led.a = s.dev.led.a ∧ t.dev.led.b = s.dev.led.b) ∧
    (s.dev.awake = true → s.dev.pwr.metClock = false → s.dev.pwr.testmode = false → Runs .metrologyClockReturn s fun t =>
      begun t ∧ t.dev.pwr.rtc = s.dev.pwr.rtc ∧ t.dev.led.a = s.dev.led.a ∧ t.dev.led.b = s.dev.led.b ∧
        t.dev.pwr.lostOwed = s.dev.pwr.lostOwed + max 1 ((s.dev.pwr.lostTicks + 32767) / 32768)) ∧
    (s.dev.pwr.pstate ≠ .off → s.dev.pwr.pstate ≠ .backup → 10 ≤ micros → p.testmode = false → Runs (.resetN p true micros) s fun t =>
      begun t ∧ t.dev.pwr.rtc = s.dev.pwr.rtc ∧ t.dev.pwr.hostmode = p.hostmode ∧
        (s.dev.led.writing = none → t.dev.led.a = s.dev.led.a ∧ t.dev.led.b = s.dev.led.b)) ∧
    (s.dev.pwr.pstate = .off → p.testmode = false → Runs (.alwaysOnPor p true) s fun t =>
      begun t ∧ t.dev.now = 0 ∧ t.dev.pwr.timeInvalid = true ∧ t.dev.pwr.hostmode = p.hostmode)

/-- The clocks (R80, R104, R133). METROLOGY_CLOCK_LOST outside BACKUP and OFF, on a gap of at least 10 µs (given in tenths of a µs) or on a
count over 1,024 RTC clocks that lies more than 768 clocks from 768,000, stops the metrology clock, the fast domain and accumulation, starts
the count of RTC ticks lost at 0, cuts short a commit being written, and leaves the working values of the ledger and the boot image area.
XT32_FAIL of at least 150 µs on the crystal moves the RTC to its fallback and posts the record 0x12; XT32_RESTORED at an RTC tick on 1,024
cycles of 25 µs to 36 µs moves it to the crystal and posts 0x13 after the fallback, and nothing after the start-up fallback. -/
def Obligations.ClockEvents : Prop :=
  ∀ s : State,
    (∀ l, s.dev.pwr.metClock = true → s.dev.pwr.pstate ≠ .backup → s.dev.pwr.pstate ≠ .off →
      (∃ n, l = .gap n ∧ 100 ≤ n) ∨ (∃ n, l = .count n ∧ (n < 767232 ∨ 768768 < n)) → Runs (.metrologyClockLost l) s fun t =>
        t.dev.pwr.metClock = false ∧ t.dev.pwr.fastOn = false ∧ t.dev.pwr.accum = false ∧ t.dev.pwr.lostTicks = 0 ∧
        t.dev.led.writing = none ∧ t.dev.led.work = s.dev.led.work ∧ t.boot = s.boot) ∧
    (∀ micros, s.dev.pwr.rtcSource = .crystal → s.dev.pwr.pstate ≠ .off → 150 ≤ micros → exec (.xt32Fail micros) s =
      s.ok (({ s.dev with pwr := { s.dev.pwr with rtcSource := .fallback } } : Dev).postPower 0x12 [])) ∧
    (∀ cycles shortest longest, 1024 ≤ cycles → 250 ≤ shortest → longest ≤ 360 → s.dev.pwr.mcount = 0 → s.dev.pwr.pstate ≠ .off →
      (s.dev.pwr.rtcSource = .fallback → exec (.xt32Restored cycles shortest longest) s =
        s.ok (({ s.dev with pwr := { s.dev.pwr with rtcSource := .crystal, rcTicks := 0 } } : Dev).postPower 0x13 [])) ∧
      (s.dev.pwr.rtcSource = .startup → s.dev.stores = [] → exec (.xt32Restored cycles shortest longest) s =
        .next { s with dev := { s.dev with pwr := { s.dev.pwr with rtcSource := .crystal, rcTicks := 0 } } }))

/-- DOZE and the fast domain (R82, R84, R106, R121). DOZE_ENTRY in RUN, once every condition of R106 has held for DOZE_IDLE taken between 50 µs
and 100 ms: the state is DOZE with the fast domain off and one entry more counted, and the host port's registers, the rings and the ledger
stay. DOZE_EXIT_COUNT in RUN in service, a quarter of an hour after the last: the counts of entries and of time start at 0. PRE_WAKE in
RUN in service, at a boundary or a transmit slot that needs it, leaves the fast domain on and the ledger as it is. FAST_SLEEP of a fast
domain without work for 4 µs switches it off and changes nothing else. -/
def Obligations.DozeAndFastDomain : Prop :=
  ∀ s : State,
    (s.dev.pwr.pstate = .run → s.dev.units = true → s.dev.idle = true → s.dev.host.wakeHold = false → s.dev.host.dozeIdle ≠ 0#32 →
      (s.dev.pwr.hostmode = false ∨ s.dev.host.d3hot = true ∨ s.dev.host.aspmL1 = true) →
      s.dev.since s.dev.pwr.idleSince (us (max 50 (min 100000 s.dev.host.dozeIdle.toNat))) = true → Runs .dozeEntry s fun t =>
        t.dev.pwr = { s.dev.pwr with
          pstate := .doze, fastOn := false, dozeEntries := s.dev.pwr.dozeEntries + 1, dozeSince := s.dev.now } ∧
        t.dev.host = s.dev.host ∧ t.dev.eng = s.dev.eng ∧ t.dev.led = s.dev.led ∧ t.boot = s.boot) ∧
    (s.dev.pwr.pstate = .run → s.dev.serving = true → s.dev.quarterDue 0x7F = true → Runs .dozeExitCount s fun t =>
      t.dev.pwr.dozeEntries = 0 ∧ t.dev.pwr.dozeTime = 0) ∧
    (∀ tx, s.dev.serving = true → s.dev.pwr.pstate = .run → (tx = true → s.dev.slotWake = true) → (tx = false → s.dev.boundaryWake = true) →
      Runs (.preWake tx) s fun t => t.dev.pwr.fastOn = true ∧ t.dev.led = s.dev.led ∧ t.boot = s.boot) ∧
    (s.dev.pwr.fastOn = true → s.dev.fastWork = false → s.dev.since s.dev.pwr.workAt (us 4) = true → s.dev.stores = [] →
      exec .fastSleep s = .next { s with dev := { s.dev with pwr := { s.dev.pwr with fastOn := false } } })

/-- Locks and device-fatal errors (R51, R86, R1097, R1107, R1215), in RUN after recall with no device-fatal error due. PLL_LOCK of a wake out of
Backstop: a lock is taken up, which, where no failed pre-wake is owed, sets the failed locks to 0 and the fast domain on with its
work beginning now, ends the pre-wake, and changes nothing else; a failed one counts one failed lock more, and where no
preview set is open it leaves the fast domain off and, with a failed lock before it, makes Backstop with cause 3 due. FAST_LOGIC_FAULT of a unit out of Backstop, where the error unit does not run
and the latch is free, makes Backstop with cause 3 due and fills the latch with FAST_LOGIC_FAULT, cause 3, not acknowledged, and leaves the
LEGAL blocks. BACKSTOP_ENTRY with cause 2 or 3 due enters Backstop with that cause: the fast domain is off, no command is in flight, and
none is due any more. -/
def Obligations.FatalEntersBackstop : Prop :=
  ∀ s : State, s.dev.units = true → s.dev.pwr.pstate = .run →
    (s.dev.pwr.backstop = false → s.dev.err.fatalDue = none →
      exec (.pllLock true) s = s.ok s.dev.locked ∧
      (s.dev.pwr.lockFailOwed = 0 → s.dev.stores = [] → exec (.pllLock true) s = .next { s with dev := { s.dev with
        pwr := { s.dev.pwr with fastOn := true, failedLocks := 0, preWake := false, workAt := s.dev.up } } }) ∧
      Runs (.pllLock false) s fun t => t.dev.pwr.failedLocks = s.dev.pwr.failedLocks + 1 ∧
        (s.dev.eng.setOpen = none → t.dev.pwr.fastOn = false ∧
          t.dev.err.fatalDue = (if s.dev.pwr.failedLocks = 0 then none else some 3))) ∧
    (∀ u : Fin 6, u.val ≠ 0 → s.dev.pwr.backstop = false → s.dev.errRuns = false → s.dev.led.work.errors.fatalCode = 0 →
      Runs (.fastLogicFault u) s fun t => t.dev.err.fatalDue = some 3 ∧ t.dev.led.work.errors.fatalCode = 0x0E02 ∧
        t.dev.led.work.errors.fatalCause = 3 ∧ t.dev.led.work.errors.fatalAcked = false ∧
        t.dev.led.work.legal = s.dev.led.work.legal ∧ t.boot = s.boot) ∧
    (∀ c, s.dev.err.fatalDue = some c → (c = 2 ∨ c = 3) → Runs .backstopEntry s fun t =>
      t.dev.pwr.backstop = true ∧ t.dev.pwr.cause = c ∧ t.dev.pwr.fastOn = false ∧ t.dev.eng.flights = [] ∧
        t.dev.err.fatalDue = none ∧ t.boot = s.boot)

/-- Recall, accumulation, standalone negotiation, the final commit and the check of VBAT, with the metrology clock running (R28, R61, R114,
R116, R118, R170, Tables 2.5 and 2.8). CONFIG_RECALL_DONE of step 3 in RUN ends that step: ledger recall has begun, and the line works with
the LINE group's parameters; LEDGER_RECALL_DONE of step 4 in RUN ends that: the LY64 is READY, and no GO is held any more.
ACCUMULATION_START after recall, 40 ms after voltage is present and recall has ended, with a converter serving and no power-up test
running: accumulation runs, and after a HOLD no MAINS_RETURN is left to carry. STANDALONE_NEGOTIATION with HOSTMODE low and MODE standalone,
40 ms after step 3, not negotiated before, negotiates the stored acceptance. FINAL_COMMIT_DONE in HOLD: the final commit is done, the
metrology domain stops, the written image is the last commit's, and every link is DOWN with no sample released. VBAT_LOW in RUN with
Converter B good, an hour after the last measurement or at a power-up's first: at 2.2 V or above the measurement is noted, with the time of
the aux position it took, and nothing else changes; below, the same is noted and the voltage posted or owed. -/
def Obligations.PowerUpSteps : Prop :=
  ∀ s : State, s.dev.pwr.metClock = true →
    (∀ bad, s.dev.pwr.pstate = .run → s.dev.pwr.step = .configRecall → Runs (.configRecallDone bad) s fun t =>
      t.dev.pwr.step = .ledgerRecall ∧ t.dev.lphy.applied = t.dev.lineParams ∧ t.boot = s.boot) ∧
    (∀ bad, s.dev.pwr.pstate = .run → s.dev.pwr.step = .ledgerRecall → Runs (.ledgerRecallDone bad) s fun t =>
      t.dev.pwr.step = .ready ∧ t.dev.host.goHeld = false ∧ t.boot = s.boot) ∧
    (∀ t0, s.dev.units = true → s.dev.pwr.accum = false → (∀ t, s.dev.volt.test = some t → t.kind ≠ 1) → s.dev.volt.serving ≠ 2 →
      s.dev.pwr.presentSince = some t0 → s.dev.since (max t0 s.dev.pwr.recallAt) (ms 40) = true →
      (s.dev.pwr.wasHeld = false → exec .accumulationStart s = s.ok s.dev.beginAccum ∧ s.dev.beginAccum.pwr.accum = true) ∧
      (s.dev.pwr.wasHeld = true → Runs .accumulationStart s fun t =>
        t.dev.pwr.accum = true ∧ t.dev.pwr.wasHeld = false ∧ t.dev.pwr.backupTime = 0 ∧ t.boot = s.boot)) ∧
    (s.dev.pwr.hostmode = false → s.dev.units = true → s.dev.host.negotiated = false →
      fieldAt s.dev.host.groupBytes 36 1 = 1 → s.dev.since s.dev.pwr.configAt (ms 40) = true →
      exec .standaloneNegotiation s =
        let a : W64 := BitVec.ofNat 64 (fieldAt s.dev.host.groupBytes 40 8)
        s.ok ((({ s.dev with host := { s.dev.host with accept := a } } : Dev).takeAccept a).wake.afterNegotiation).lineAutoJoin) ∧
    (s.dev.pwr.pstate = .hold → s.dev.pwr.finalDone = false → Runs .finalCommitDone s fun t =>
      t.dev.pwr.finalDone = true ∧ t.dev.metRuns = false ∧ t.dev.led = s.dev.commitDone.led ∧
      (∀ p ∈ t.dev.links.cells, p.2.state = .down ∧ p.2.released = false) ∧ t.boot = s.boot) ∧
    (∀ mv, s.dev.pwr.pstate = .run → s.dev.units = true → s.dev.volt.healthB.good = true →
      (∀ t, s.dev.pwr.vbatAt = some t → s.dev.since t (3600 * second) = true) →
      let d := { s.dev with pwr := { s.dev.pwr with vbatAt := some s.dev.up }, aux := { s.dev.aux with lastAt := some s.dev.up } }
      exec (.vbatLow mv) s = s.ok (if 2200 ≤ mv then d
        else if s.dev.pwr.vbatAt.isNone then d.powerOrOwe 0x15 [⟨2, 2, mv⟩] else d.postPower 0x15 [⟨2, 2, mv⟩]))

/-! ### Voltage converters and the Umpire (chapter 5) -/

/-- Table 5.5. A converter fails on a CHK_ZERO mean beyond 200 µV, or on a VCHK mean more than 0.04 % from its stored value, as exact
quotients. Once CHK_DRIFT has been found every test reports it (R259); otherwise neither failing gives 0; A alone gives 1, where B is in
service; B alone gives 2, where A does not stay failed; both gives 3 where their errors are alike, 4 where they are not. -/
def Obligations.TestOutcomes : Prop :=
  (∀ (c : Nat) (z v : Reading), testFails c z v = true ↔
    (200 * z.den : Int) < |z.num| ∨ (4 * (storedVchk c * v.den) : Int) < |v.num - storedVchk c * v.den| * 10000) ∧
  ∀ (d : Dev) (x : Checks),
    let failA := testFails 0 x.zeroA x.vchkA
    let failB := testFails 1 x.zeroB x.vchkB
    (d.volt.chkDrift = true → d.testOutcome x = 3) ∧
    (d.volt.chkDrift = false →
      (failA = false → failB = false → d.testOutcome x = 0) ∧
      (failA = true → failB = false → d.volt.healthB.good = true → d.testOutcome x = 1) ∧
      (failA = false → failB = true → d.volt.healthA.stays = false → d.testOutcome x = 2) ∧
      (failA = true → failB = true → d.testOutcome x = if x.alike then 3 else 4))

/-- Tests end after their time with the outcome of what the converters read (R256, R257, R279): POWER_UP_TEST_END 20 ms into the
power-up test, REFERENCE_TEST_END 100 ms into any other, which also completes the SELFTEST that asked for it, with the outcome as its
result. A pass of the power-up test leaves no test running, no codes read, the persistence count at 0, and either converter's health as it
was. -/
def Obligations.ConverterTestsEnd : Prop :=
  ∀ (s : State) (t : RefTest), s.dev.volt.test = some t →
    let x := s.dev.testChecks
    let o := s.dev.testOutcome x
    (s.dev.units = true → t.kind = 1 → t.since + ms 20 ≤ s.dev.up → exec .powerUpTestEnd s =
      s.ok (s.dev.applyOutcome 1 o (testFields o 1 0xFF x))) ∧
    (s.dev.metRuns = true → t.kind ≠ 1 → t.since + ms 100 ≤ s.dev.up →
      let d := s.dev.applyOutcome t.kind o (testFields o t.kind 0xFF x)
      exec .referenceTestEnd s = s.ok (match t.cmd with
        | some c => ({ d with test := none } : Dev).doneWith c o
        | none => d)) ∧
    (∀ fs, (s.dev.applyOutcome 1 0 fs).volt.test = none ∧ (s.dev.applyOutcome 1 0 fs).volt.persist = 0 ∧
      (s.dev.applyOutcome 1 0 fs).volt.checks = {} ∧
      (s.dev.applyOutcome 1 0 fs).volt.healthA = s.dev.volt.healthA ∧ (s.dev.applyOutcome 1 0 fs).volt.healthB = s.dev.volt.healthB)

/-- Retests and the watch of VCHK while metrology runs (R262, R263, R265). CONVERTER_RETEST 60 s after a failed converter failed or was last
retested: a retest of it runs from now, with no codes read, FACTORY standing. CONVERTER_RETEST_END 100 ms on: a tenth pass in a row of a
converter that does not stay failed puts it into service with its passes at 0; otherwise the retest is over, and its passes are one more or,
after a failure, 0. VCHK_WATCH while Converter B serves, 100 ms after the last: a reading within limits sets the run to 0, one out of
limits counts one up, with the next 100 ms beginning and nothing else changed up to nine in a row; the tenth fails Converter B. -/
def Obligations.ConverterRetests : Prop :=
  ∀ (s : State) (c : Fin 2), s.dev.metRuns = true →
    ((s.dev.health c).good = false → (s.dev.health c).retesting = false → s.dev.store.factoryLost = false →
      (s.dev.health c).retestAt + 60 * second ≤ s.dev.up → exec (.converterRetest c) s =
        s.ok ((s.dev.setVolt { s.dev.volt with checks := (s.dev.volt.checks.erase (4 + 2 * c.val)).erase (5 + 2 * c.val) }).setHealth c
          { s.dev.health c with retesting := true, retestAt := s.dev.up })) ∧
    ((s.dev.health c).retesting = true → (s.dev.health c).retestAt + ms 100 ≤ s.dev.up →
      Runs (.converterRetestEnd c) s fun t =>
        let fails := testFails c (s.dev.check (4 + 2 * c.val)) (s.dev.check (5 + 2 * c.val))
        let n := if fails then 0 else (s.dev.health c).passes + 1
        (10 ≤ n → (s.dev.health c).stays = false → (t.dev.health c).good = true ∧ (t.dev.health c).passes = 0) ∧
        (n < 10 ∨ (s.dev.health c).stays = true → t.dev.health c = { s.dev.health c with
          retesting := false, latestPass := !fails, passes := n })) ∧
    (s.dev.volt.serving = 1 → s.dev.volt.healthB.good = true → s.dev.store.factoryLost = false →
      s.dev.volt.watchAt + ms 100 ≤ s.dev.up →
      let n := if testFails 1 ⟨0, 0⟩ ((s.dev.volt.checks.get 8 {}).micro 1) then s.dev.volt.vchkRun + 1 else 0
      (n < 10 → exec .vchkWatch s =
        s.ok (s.dev.setVolt { s.dev.volt with vchkRun := n, watchAt := s.dev.up, checks := s.dev.volt.checks.erase 8 })) ∧
      (10 ≤ n → Runs .vchkWatch s fun t => t.dev.volt.healthB.good = false ∧ t.boot = s.boot))

/-- The Umpire (R250–R254), while metrology runs and accumulates: UMPIRE_BLOCK judges the block that has closed, which then is no longer
waiting. A block that something spoilt, or in which the converters do not both convert the shared channel, only joins the slot 6 sums of
the summary. With Converter A failed, one whose RMS(e) exceeds 2,966 counts sets the passes of A's retests to 0. With A in service, one that does
not exceed it sets the persistence count to 0, one that does counts it up, and the fifth in a row starts a reference test, FACTORY standing.
UMPIRE_SUMMARY in RUN in service, a quarter of an hour after the last, leaves the peaks, the slot 6 sums and the greatest persistence at 0. -/
def Obligations.UmpireBlocks : Prop :=
  ∀ s : State, s.dev.metRuns = true →
    (∀ b, s.dev.volt.closed = some b → s.dev.pwr.accum = true →
      let v := s.dev.volt
      let judged := b.bad = false ∧ s.dev.compares = true
      let above := (2966 * 2966 * b.n * 2 ^ 60 : Int) < b.e2
      (¬ judged → exec .umpireBlock s = s.ok (s.dev.setVolt { v with
        closed := none, zero := ⟨v.zero.sum + b.zero.sum, v.zero.n + b.zero.n⟩, vchk := ⟨v.vchk.sum + b.vchk.sum, v.vchk.n + b.vchk.n⟩ })) ∧
      (judged → v.healthA.good = false → Runs .umpireBlock s fun t => t.dev.volt.closed = none ∧ t.dev.volt.persist = v.persist ∧
        t.dev.volt.healthA = (if b.disagrees then { v.healthA with passes := 0 } else v.healthA) ∧ (b.disagrees = true ↔ above)) ∧
      (judged → v.healthA.good = true → ¬ above → Runs .umpireBlock s fun t =>
        t.dev.volt.closed = none ∧ t.dev.volt.persist = 0 ∧ t.dev.volt.test = v.test ∧ t.dev.led = s.dev.led ∧ t.boot = s.boot) ∧
      (judged → v.healthA.good = true → above → v.persist < 4 → Runs .umpireBlock s fun t =>
        t.dev.volt.closed = none ∧ t.dev.volt.persist = v.persist + 1 ∧ t.dev.volt.test = v.test ∧ t.dev.led = s.dev.led ∧
        t.boot = s.boot) ∧
      (judged → v.healthA.good = true → above → v.persist = 4 → s.dev.store.factoryLost = false → Runs .umpireBlock s fun t =>
        t.dev.volt.closed = none ∧ (∃ r, t.dev.volt.test = some r ∧ r.kind = 0) ∧ t.boot = s.boot)) ∧
    (s.dev.pwr.pstate = .run → s.dev.serving = true → s.dev.quarterDue 0x15 = true → Runs .umpireSummary s fun t =>
      t.dev.volt.peakE = {} ∧ t.dev.volt.zero = {} ∧ t.dev.volt.vchk = {} ∧ t.dev.volt.persistMax = 0 ∧ t.dev.led = s.dev.led)

/-- Clipping and open inputs while metrology runs (R266–R268). VIN_CLIP_END of a channel in a clip, 1 s after its last clipped conversion,
ends the clip and posts it. VIN_OPEN_TEST of an input that is used and due, with no test running, starts the test now. VIN_OPEN_TEST_END 20 ms
on ends it, notes when it began, and holds its result: open above 100 mV of shift (given in µV), else dead for a phase whose RMS has stayed
below 2 % for a hundred intervals of 10 ms, else normal; a result other than the one before is posted, and an open or dead tracked voltage
fails. -/
def Obligations.VoltageInputs : Prop :=
  ∀ (s : State) (c : Fin 4), s.dev.metRuns = true →
    (c.val ∈ s.dev.volt.clip → s.dev.volt.lastClip.get c 0 + second ≤ s.dev.up → exec (.vinClipEnd c) s =
      s.ok ((s.dev.setVolt { s.dev.volt with clip := s.dev.volt.clip.erase c.val }).postUmpire 0x06 [⟨1, 1, c⟩])) ∧
    (s.dev.vinUsed c = true → s.dev.volt.openTest = none → s.dev.openDue c = true → exec (.vinOpenTest c) s =
      s.ok (s.dev.setVolt { s.dev.volt with openTest := some (c.val, s.dev.up) })) ∧
    (∀ t shift, s.dev.volt.openTest = some (c.val, t) → t + ms 20 ≤ s.dev.up →
      let was := s.dev.volt.openState.get c 0
      let now := if 100000 < shift then 1 else if c.val < 3 ∧ 100 ≤ s.dev.volt.lowRun.get c 0 then 2 else 0
      let d := s.dev.setVolt { s.dev.volt with
        openTest := none, lastOpen := s.dev.volt.lastOpen.set c t, openState := s.dev.volt.openState.set c now }
      (now = was → exec (.vinOpenTestEnd c shift) s = s.ok d) ∧
      (now ≠ was →
        let d := d.postUmpire (if now = 1 then 0x07 else if now = 2 then 0x08 else 0x09) [⟨1, 1, c⟩, sfld 4 4 shift]
        exec (.vinOpenTestEnd c shift) s =
          s.ok (if now ≠ 0 ∧ s.dev.trk.volt = c.val ∧ s.dev.pwr.accum = true then d.voltageFailed else d)))

/-! ### Oaser links and the current intake (chapters 3 and 4) -/

/-- A superframe of 384 slots on a link on which none came since the last sample instant, while metrology runs. DOWN, with a sync symbol
in slot 0 (Table 3.7): the first moves nothing and is counted, the second makes the link ALIGNING; without a sync and without an inverted
one the count goes to 0. UP, without an inverted sync: a valid one keeps the link UP and gives its status word and its relay states; one
that is not valid is counted, and the third in a row is a link loss (R186): the link is DOWN, no longer released, and LOSS_COUNT is one
higher. The other links stay, and so does the boot image area. -/
def Obligations.SuperframeReceived : Prop :=
  ∀ (s : State) (n : Fin 16) (slots : List Nat) (arrival : Nat), s.dev.metRuns = true → (s.dev.link n).heard = false →
    let l := s.dev.link n
    let code := codeOf l.rxInv (slots.headD 0) 3
    let rx := slotsRx l.rxInv slots
    let valid := sfValid (decide (code = syncCode)) rx
    (l.state = .down → code = syncCode → l.found = 0 → exec (.superframeReceived n slots arrival) s =
      s.ok (s.dev.setLink n { l with heard := true, found := 1 })) ∧
    (l.state = .down → code = syncCode → 1 ≤ l.found → Runs (.superframeReceived n slots arrival) s fun t =>
      (t.dev.link n).state = .aligning ∧ (t.dev.link n).found = 0 ∧ (∀ m, m ≠ n.val → t.dev.link m = s.dev.link m) ∧ t.boot = s.boot) ∧
    (l.state = .down → code ≠ syncCode → code ≠ invSync → exec (.superframeReceived n slots arrival) s =
      s.ok (s.dev.setLink n { l with heard := true, found := 0 })) ∧
    (l.state = .up → code ≠ invSync → valid = true → Runs (.superframeReceived n slots arrival) s fun t =>
      (t.dev.link n).state = .up ∧ (t.dev.link n).bad = 0 ∧ (t.dev.link n).status = some (serField rx 1 16 (l.status.getD 0)) ∧
      (t.dev.link n).relayState = serField rx 17 12 l.relayState ∧ (∀ m, m ≠ n.val → t.dev.link m = s.dev.link m) ∧ t.boot = s.boot) ∧
    (l.state = .up → code ≠ invSync → valid = false → Runs (.superframeReceived n slots arrival) s fun t =>
      (t.dev.link n).status = l.status ∧ (∀ m, m ≠ n.val → t.dev.link m = s.dev.link m) ∧ t.boot = s.boot ∧
      (l.bad < 2 → (t.dev.link n).state = .up ∧ (t.dev.link n).bad = l.bad + 1) ∧
      (2 ≤ l.bad → (t.dev.link n).state = .down ∧ (t.dev.link n).released = false ∧
        (t.dev.link n).lossCount = sat32 (l.lossCount + 1)))

/-- Samples, relays and shorts of a link, while metrology runs (R167–R169, R176, R177, R181, R196). SAMPLE_RELEASE of a link UP for 2.0 ms
releases its samples, adds the time it was lost, in superframes, to its unmetered count, and tells its channels' accounts.
RELAY_MISMATCH of a relay under command, 500 ms after the command was first sent and the link entered UP, posts a difference between
RELAY and RELAY_STATE once per command, and where there is none changes nothing. DN_SHORT with the driver beyond 0.9 V to 1.6 V (given in
mV) or at its current limit for more than 5 µs (given in tenths) moves a link to SHORT and posts it; in a retry it ends the retry and
counts it. DN_SHORT_RETRY, 100 ms after the driver was last switched, begins a retry; DN_SHORT_CLEAR, 1 ms into it, moves the link to DOWN,
through the loss where it was UP at the fault, and posts it. -/
def Obligations.LinkEvents : Prop :=
  ∀ (s : State) (n : Fin 16), s.dev.metRuns = true →
    let l := s.dev.link n
    (l.state = .up → l.released = false → l.upSince + ms 2 ≤ s.dev.up →
      let add := match l.lostSince with | some t => superframes (s.dev.up - t) | none => 0
      exec (.sampleRelease n) s = s.ok ((s.dev.setLink n { l with
        released := true, lostSince := none, unmetered := sat32 (l.unmetered + add)
        changed := l.changed || add ≠ 0 }).channelsBack (linkChannels n))) ∧
    (∀ r : Fin 12, l.state = .up → bitOf l.relayValid r = true → r.val ∉ l.compared →
      max (l.sentAt.get r 0) l.upSince + ms 500 ≤ s.dev.up →
      let want := bitOf l.relay r
      let have_ := bitOf l.relayState r
      (want ≠ have_ → exec (.relayMismatch n r) s =
        s.ok ((s.dev.setLink n { l with compared := r.val :: l.compared }).postPod 0x09 n 0xFFFF
          [⟨4, 1, r⟩, ⟨5, 1, b2n want⟩, ⟨6, 1, b2n have_⟩])) ∧
      (want = have_ → s.dev.stores = [] → exec (.relayMismatch n r) s = .next s)) ∧
    (∀ common limit tenths, 50 < tenths → limit = true ∨ common < 900 ∨ 1600 < common →
      (l.state ≠ .short → exec (.dnShort n common limit tenths) s = s.ok ((s.dev.setLink n { l with
        state := .short, shortUp := l.state = .up, retrying := false, switchedAt := s.dev.up, bad := 0, found := 0 }).postPod
          0x07 n 0xFFFF [])) ∧
      (l.state = .short → l.retrying = true → exec (.dnShort n common limit tenths) s = s.ok (s.dev.setLink n { l with
        retrying := false, shortRetry := sat32 (l.shortRetry + 1), changed := true }))) ∧
    (l.state = .short → l.retrying = false → l.switchedAt + ms 100 ≤ s.dev.up →
      exec (.dnShortRetry n) s = s.ok (s.dev.setLink n { l with retrying := true, switchedAt := s.dev.up })) ∧
    (l.state = .short → l.retrying = true → l.switchedAt + ms 1 ≤ s.dev.up → exec (.dnShortClear n) s =
      let d := if l.shortUp then s.dev.loseLink n .down else s.dev
      s.ok ((d.setLink n { d.link n with state := .down, found := 0, retrying := false }).postPod 0x08 n 0xFFFF []))

/-- Channels, while metrology runs (R217–R220, R224). CH_FLATLINE of a watched channel whose chain has seen 64 equal bits, not in a flatline, begins
one at the start of those bits. CH_FLATLINE_END, 2.0 ms after the last run of 64 ended, ends it, adds its superframes to the unmetered
count of the channel's link or direct input, tells the channel's account, and posts it. CH_OVERLOAD_END, 1 s after the last overloaded output,
ends the overload and adds its whole seconds, rounded up (the model's choice, assumption 119), to OVERLOAD_SECONDS; the ledger stays. -/
def Obligations.ChannelEvents : Prop :=
  ∀ (s : State) (c : Fin 196), s.dev.metRuns = true →
    (∀ bit since, (s.dev.stream c).seen = some (bit, since) → s.dev.watched c = true → (s.dev.chan c).flat = false →
      exec (.chFlatline c) s = s.ok (s.dev.startFlat c (b2n bit) since)) ∧
    ((s.dev.chan c).flat = true → s.dev.watched c = true → (s.dev.stream c).run < 64 → s.dev.flatUntil c ≤ s.dev.up →
      let n := superframes (s.dev.up - (s.dev.chan c).flatSince)
      let d := (s.dev.updChan c fun x => { x with flat := false, backAt := 0 }).setStream c { s.dev.stream c with seen := none }
      let d := if 192 ≤ c.val then d.updDm (c - 192) fun m => { m with unmetered := sat32 (m.unmetered + n) }
        else d.setLink (c / 12) { d.link (c / 12) with unmetered := sat32 ((d.link (c / 12)).unmetered + n) }
      exec (.chFlatlineEnd c) s = s.ok (((d.markCounter c).channelsBack [c.val]).postChan 0x13 c [])) ∧
    ((s.dev.chan c).ovl = true → (s.dev.chan c).lastOver + second ≤ s.dev.up → Runs (.chOverloadEnd c) s fun t =>
      (t.dev.chan c).ovl = false ∧
      (t.dev.chan c).overSecs = sat32 ((s.dev.chan c).overSecs + (s.dev.up - (s.dev.chan c).overSince + second - 1) / second) ∧
      t.dev.led = s.dev.led ∧ t.boot = s.boot)

/-- Direct inputs in MANCHESTER mode, while metrology runs (R202–R204, Table 4.4), and the counters of links and inputs (Table 19.15).
DM_LOCK of an input that is not locked, after 64 bit times in a row with a transition: it is locked. DM_INPUT_LOST of a locked one, 16 bit times
without a transition: it is not, and LOSS_COUNT is one higher. DM_ALIGN_ERROR of an input that has not been locked for 1 s, or 60 s after the
last, posts the error. COUNTERS in RUN in service, a quarter of an hour after the last, leaves no link and no direct input with a
change to report, every link and input otherwise as it was. -/
def Obligations.DirectInputs : Prop :=
  ∀ (s : State) (x : Fin 4), s.dev.metRuns = true →
    (s.dev.dmMode x = 2 → (s.dev.dm x).locked = false → 64 ≤ (s.dev.dm x).goodRun → Runs (.dmLock x) s fun t =>
      t.dev.dm x = { s.dev.dm x with locked := true, alignPosted := none } ∧ t.dev.led = s.dev.led ∧ t.boot = s.boot) ∧
    (s.dev.dmMode x = 2 → (s.dev.dm x).locked = true → 16 ≤ (s.dev.dm x).badRun → Runs (.dmInputLost x) s fun t =>
      (t.dev.dm x).locked = false ∧ (t.dev.dm x).alignPosted = none ∧ (t.dev.dm x).changed = true ∧
      (t.dev.dm x).lossCount = sat32 ((s.dev.dm x).lossCount + 1) ∧ t.boot = s.boot) ∧
    (s.dev.dmMode x = 2 → (s.dev.dm x).locked = false →
      (match (s.dev.dm x).alignPosted with
        | some t => t + 60 * second ≤ s.dev.up | none => (s.dev.dm x).unlockedSince + second ≤ s.dev.up) →
      exec (.dmAlignError x) s =
        s.ok ((s.dev.updDm x fun m => { m with alignPosted := some s.dev.up }).postChan 0x15 (192 + x) [])) ∧
    (s.dev.pwr.pstate = .run → s.dev.serving = true → s.dev.quarterDue 0x31 = true → Runs .counters s fun t =>
      (∀ n, t.dev.link n = { s.dev.link n with changed := false }) ∧ (∀ n, t.dev.dm n = { s.dev.dm n with changed := false }) ∧
      t.dev.led = s.dev.led ∧ t.boot = s.boot)
/-! ### Samples, the aux sequencer, the cycle tracker and power quality (chapters 5, 6, 8, 9 and 10) -/

/-- Samples and reversals while metrology runs (R57, R77, R384, R389). SAMPLE_PERIOD, 1,536 metrology clocks after the sample before: the
direct inputs, the converters and the downstream frames take theirs; once accumulation has begun, and while a converter gives valid
voltages, the sample is metered, and otherwise not. Sooner it changes nothing. REVERSE_CURRENT of a pair of a tenant in service that is not
BIDIRECTIONAL, after 1,000 commit ticks below −P_REV, holds the pair reversed and records it as a tamper; REVERSAL_END after 1,000 at or
above 0 ends that, and nothing else changes in the ledger, the outputs or the boot image area. -/
def Obligations.SamplesAndReversals : Prop :=
  ∀ (s : State) (x : Sample) (a : Fin 64) (k : Fin 3), s.dev.metRuns = true →
    (1536 ≤ s.dev.pwr.smpClocks → exec (.samplePeriod x) s =
      let d := ({ s.dev with pwr := { s.dev.pwr with
        smpClocks := s.dev.pwr.smpClocks % 1536, tickSmps := s.dev.pwr.tickSmps + 1 } } : Dev).sampleEvents x
      s.ok (if d.pwr.accum = true ∧ d.volt.serving ≠ 2 then d.meterSample else d)) ∧
    (s.dev.pwr.smpClocks < 1536 → s.dev.stores = [] → exec (.samplePeriod x) s = .next s) ∧
    (s.dev.inService a = true → k.val ∈ s.dev.pairsOf a → blkDir (s.dev.acct a).block ≠ 1 →
      (s.dev.pair a k).reversed = false → 1000 ≤ (s.dev.pair a k).revRun → exec (.reverseCurrent a k) s =
        s.ok ((s.dev.updPair a k fun p => { p with reversed := true }).tamper 0x07 (3 * a + s.dev.pairPh a k) s.dev.now)) ∧
    ((s.dev.pair a k).reversed = true → 1000 ≤ (s.dev.pair a k).backRun → Runs (.reversalEnd a k) s fun t =>
      t.dev.pair a k = { s.dev.pair a k with reversed := false } ∧ t.dev.led = s.dev.led ∧ t.dev.out = s.dev.out ∧ t.boot = s.boot)

/-- The aux sequencer under a definition in effect, while metrology runs (R283, R286, R287, R299, R302). COMP_CROSSING brings a comparator's
ball to a level in nanovolts for a time: where the filtered output (compNext) differs from COMP_LEVEL, its bit is set or cleared, and where
that edge is the one counted, the capture trigger and the count of at most 65,535 take it, and a sequence armed for it is triggered unless
AUX_SEQ is refused. AUX_CONVERSION at a free aux position that the run is ready for samples its next entry and shows the
test pulse 1; 18 T, 72 metrology clocks, after the oldest conversion was sampled it writes its slot; a run whose last entry that is
ends, the commands that wait for it are answered, and a queued run starts. -/
def Obligations.AuxEvents : Prop :=
  ∀ (s : State) (b : List Byte), s.dev.aux.seq = some b → s.dev.metRuns = true →
    (∀ (n : Fin 4) (nv tenths : Nat), s.dev.awake = true → compInput b n ≤ 7 →
      let rising := compNext b n (bitOf s.dev.aux.compLevel n) nv tenths
      let lv := if rising then s.dev.aux.compLevel ||| 2 ^ n.val else s.dev.aux.compLevel &&& (15 - 2 ^ n.val)
      let d := s.dev.setAux { s.dev.aux with compLevel := lv }
      let counted := compEdge b n = 2 ∨ (compEdge b n = 0 ↔ rising = true)
      (rising = bitOf s.dev.aux.compLevel n → s.dev.stores = [] → exec (.compCrossing n nv tenths) s = .next s) ∧
      (rising ≠ bitOf s.dev.aux.compLevel n → ¬ counted → exec (.compCrossing n nv tenths) s = s.ok d) ∧
      (rising ≠ bitOf s.dev.aux.compLevel n → counted → exec (.compCrossing n nv tenths) s =
        let d := d.captureTrig 3 n d.up
        let d := d.setAux { d.aux with compCount := d.aux.compCount.upd n 0 fun k => satTo 16 (k + 1) }
        s.ok (if seqTrig b (n + 1) && !d.auxRefused then d.auxTrigger none else d))) ∧
    (∀ r nv, s.dev.aux.run = some r → r.next < seqCount b → s.dev.auxFree = true → r.ready ≤ s.dev.up + 1 →
      exec (.auxConversion (.sample nv)) s =
        let c := convCode (chanDiff (entChannel b r.next)) nv
        s.ok ((s.dev.setAux { s.dev.aux with
          run := some { r with next := r.next + 1 }, lastAt := some s.dev.up
          sampled := s.dev.aux.sampled ++
            [⟨r.next, r.number, slotValue (entFormat b r.next) c.1, c.2, s.dev.up, s.dev.now, false⟩] }).emit (.testPulse 1))) ∧
    (∀ x rest, s.dev.aux.sampled = x :: rest → x.at_ + clocks 72 ≤ s.dev.up + 1 →
      let d := (s.dev.setAux { s.dev.aux with sampled := rest }).auxWrite x
      ((∀ r, s.dev.aux.run = some r → x.number ≠ r.number ∨ x.entry + 1 ≠ seqCount b) →
        exec (.auxConversion .result) s = s.ok d) ∧
      (∀ r, s.dev.aux.run = some r → x.number = r.number → x.entry + 1 = seqCount b →
        exec (.auxConversion .result) s =
          let d := (d.setAux { d.aux with run := none }).auxAnswer r.waiting false
          s.ok (match d.aux.queued with
            | some xs => (d.setAux { d.aux with queued := none }).auxStart xs d.up
            | none => d)))

/-- The cycle tracker while metrology runs (R406, R410, R416–R424, R461, Table 9.4). CROSSING_CONFIRMED takes the oldest accepted
crossing. LOCK_LOSS outside SEARCH, no crossing having come for 1.5 half-periods, counts and goes to SEARCH. FREE_RUN_BOUNDARY in SEARCH,
1/(2 × F_NOM) after the last boundary, closes a half-cycle. TRACKER_SUMMARY in RUN in service, a quarter of an hour after the last, posts the
nine counters. PREVIEW_INSTANT at a predicted boundary shows the test pulse 2 and notes Tp; while the tracker does not predict or fewer than 8
cycles have been confirmed since Backstop, and after a failed pre-wake, it counts the previews as suppressed; otherwise the boot
image area stays. RETRACT_NO_CROSSING 4.0 ms after Tp follows every outstanding preview up with a retraction. After each, what waited
behind a preview set follows where the set is over. -/
def Obligations.TrackerEvents : Prop :=
  ∀ s : State, s.dev.metRuns = true →
    (∀ inst pos rest, s.dev.trk.waiting = (inst, pos) :: rest → s.dev.pwr.accum = true →
      exec .crossingConfirmed s =
        let d := s.dev.setTrk { s.dev.trk with waiting := rest }
        s.ok (if s.dev.trk.state = .search then d.searchCrossing inst pos else d.confirm inst pos).afterSet) ∧
    (s.dev.trk.state ≠ .search →
      (match s.dev.trk.crossings with | c :: _ => c.1 | [] => s.dev.trk.opened) + s.dev.estPeriod * 3 / 4 ≤ s.dev.up →
      exec .lockLoss s =
        s.ok ((s.dev.setTrk { s.dev.trk with lockLoss := sat32 (s.dev.trk.lockLoss + 1) }).enterSearch 1 s.dev.trk.volt).afterSet) ∧
    (∀ b, b = s.dev.trk.freeLast + second / (2 * s.dev.fnom) → s.dev.pwr.accum = true → s.dev.trk.state = .search →
      s.dev.reached b = true → exec .freeRunBoundary s =
        let n := sat32 (s.dev.trk.suppTrack + s.dev.previewAccounts.length)
        let d := s.dev.setTrk { s.dev.trk with freeLast := b, suppTrack := n }
        s.ok ((d.closeHalf b true).1.watchTracked (d.closeHalf b true).2).afterSet) ∧
    (s.dev.pwr.pstate = .run → s.dev.serving = true → s.dev.quarterDue 0x1054 = true → exec .trackerSummary s =
      let t := s.dev.trk
      s.ok ((s.dev.quarter 0x1054).postTrack 0x54 [⟨4, 4, t.glitch⟩, ⟨8, 4, t.suppTrack⟩, ⟨12, 4, t.suppEpoch⟩, ⟨16, 4, t.suppEarly⟩,
        ⟨20, 4, t.suppWake⟩, ⟨24, 4, t.previewLate⟩, ⟨28, 4, t.retractBoundary⟩, ⟨32, 4, t.retractOther⟩, ⟨36, 4, t.lockLoss⟩])) ∧
    (∀ p, s.dev.trk.predicted = some p → s.dev.trk.tp = none → s.dev.reached p = true →
      let n := s.dev.previewAccounts.length
      (s.dev.trk.state ≠ .predicting ∨ s.dev.pwr.cyclesSinceBackstop < 8 → exec .previewInstant s = s.ok
        ((s.dev.emit (.testPulse 2)).setTrk { s.dev.trk with
          tp := some s.dev.up, wakeFailed := false, suppTrack := sat32 (s.dev.trk.suppTrack + n) }).afterSet) ∧
      (s.dev.trk.state = .predicting → 8 ≤ s.dev.pwr.cyclesSinceBackstop → s.dev.trk.wakeFailed = true →
        exec .previewInstant s = s.ok ((s.dev.emit (.testPulse 2)).setTrk { s.dev.trk with
          tp := some s.dev.up, wakeFailed := false, suppWake := sat32 (s.dev.trk.suppWake + n) }).afterSet) ∧
      (s.dev.trk.state = .predicting → 8 ≤ s.dev.pwr.cyclesSinceBackstop → s.dev.trk.wakeFailed = false →
        Runs .previewInstant s fun t => t.dev.trk.tp = some s.dev.up ∧ t.boot = s.boot)) ∧
    (∀ t, s.dev.trk.tp = some t → s.dev.trk.previews ≠ [] → t + ms 4 ≤ s.dev.up → exec .retractNoCrossing s =
      s.ok (s.dev.followAll (fun _ => 2) s.dev.now (s.dev.stamp (t + ms 4))))

/-- Summaries, harmonics and captures (R488, R494, R510, R511). PQ_SUMMARY in RUN in service, a quarter of an hour after the last, starts the
lowest and highest Urms½ anew. HARMONIC_WINDOW computes the window that closed, which then waits no longer: outside service nothing
else changes; in service with free staging blocks for every record no record waits afterwards; with none free all its
records wait, and those that had waited are dropped and counted. CAPTURE_DELIVERY in service of a triggered capture whose samples up to
POST are stored leaves no sample, no trigger and, without re-arming, no arm block. -/
def Obligations.PqResults : Prop :=
  ∀ s : State,
    (s.dev.pwr.pstate = .run → s.dev.metRuns = true → s.dev.serving = true → s.dev.quarterDue 0x1007 = true → Runs .pqSummary s fun t =>
      t.dev.pq.lowest = {} ∧ t.dev.pq.highest = {} ∧ t.dev.pq.sumVoltB = false ∧ t.dev.led = s.dev.led) ∧
    (∀ w, s.dev.pq.harm.closed = some w →
      let h := s.dev.pq.harm
      let recs := (s.dev.harmRecords w).2
      (s.dev.serving = false → exec .harmonicWindow s = s.ok (s.dev.setHarm { h with closed := none })) ∧
      (s.dev.serving = true → (sumOn (h.delayed ++ recs) fun b => (b.len + 2047) / 2048) ≤ s.dev.poolFree →
        Runs .harmonicWindow s fun t => t.dev.pq.harm.closed = none ∧ t.dev.pq.harm.delayed = [] ∧ t.dev.led = s.dev.led) ∧
      (s.dev.serving = true → s.dev.poolFree = 0 →
        Runs .harmonicWindow s fun t => t.dev.pq.harm.closed = none ∧ t.dev.pq.harm.delayed.length = recs.length ∧
          t.dev.pq.harm.dropped = sat32 (h.dropped + h.delayed.length) ∧ t.dev.led = s.dev.led)) ∧
    (∀ b t, s.dev.pq.cap.arm = some b → s.dev.pq.cap.trig = some t → s.dev.serving = true →
      fieldAt b 6 2 ≤ (s.dev.pq.cap.store.filter fun x => t ≤ x.1).length → bitOf (fieldAt b 3 1) 0 = false →
      Runs .captureDelivery s fun u => u.dev.pq.cap.arm = none ∧ u.dev.pq.cap.store = [] ∧ u.dev.pq.cap.trig = none ∧
        u.dev.led = s.dev.led ∧ u.boot = s.boot)
/-! ### Pulse outputs, the seal and the tamper inputs (chapters 11, 12 and 15) -/

/-- Pulse outputs while metrology runs (R540, R541, R543, R544). PULSE_WIDTH_END of an output in service, outside calibration bursts, whose
width has run: an active one is followed by the rest; a rest by idle, or by the next pending pulse, which leaves the pending count, whose
time at 0 begins with the last. PULSE_SATURATED_END, the pending count having stayed at 0 for 1 s, ends the saturation. PULSE_SHORT
of more than 50 µs (given in tenths) puts an output in service in high impedance and out of service; in a re-drive any difference
ends it, in high impedance. PULSE_SHORT_RETRY 100 ms after the last drives it again, at its inactive level; PULSE_SHORT_CLEAR 1 ms into
that brings it back into service, at rest. PULSE_SUMMARY in RUN in service, a quarter of an hour after the last, posts the eight rows. -/
def Obligations.PulseEvents : Prop :=
  ∀ (s : State) (o : Fin 8), s.dev.stores = [] →
    let p := s.dev.pulse o
    (s.dev.metRuns = true → p.shorted = false → p.ended s.dev.up = true → plsCal p.block = false →
      (p.phase = .active → exec (.pulseWidthEnd o) s = .next { s with dev := s.dev.pulseStop o s.dev.up }) ∧
      (p.phase = .rest → s.dev.pulsePending o = 0 →
        exec (.pulseWidthEnd o) s = .next { s with dev := s.dev.updPulse o fun p => { p with phase := .idle } }) ∧
      (p.phase = .rest → s.dev.pulsePending o = 1 → exec (.pulseWidthEnd o) s =
        s.ok (((s.dev.setPending o 0).updPulse o fun p => { p with zeroSince := some s.dev.up }).pulseStart o s.dev.up)) ∧
      (p.phase = .rest → 1 < s.dev.pulsePending o → exec (.pulseWidthEnd o) s =
        s.ok ((s.dev.setPending o (s.dev.pulsePending o - 1)).pulseStart o s.dev.up))) ∧
    (∀ t, s.dev.metRuns = true → p.zeroSince = some t → p.saturated = true → s.dev.pulsePending o = 0 → t + second ≤ s.dev.up →
      Runs (.pulseSaturatedEnd o) s fun u =>
        u.dev.pulse o = { p with saturated := false, zeroSince := none } ∧ u.dev.led = s.dev.led ∧ u.boot = s.boot) ∧
    (∀ tenths, s.dev.metRuns = true →
      (p.shorted = false → 500 < tenths → Runs (.pulseShort o tenths) s fun t =>
        t.dev.pulse o = { p with shorted := true, redriving := false, shortAt := s.dev.up, phase := .idle, level := false } ∧
        t.dev.led = s.dev.led ∧ t.boot = s.boot) ∧
      (p.shorted = true → p.redriving = true → tenths ≠ 0 → Runs (.pulseShort o tenths) s fun t =>
        t.dev.pulse o = { p with redriving := false } ∧ t.dev.out = .pulseHighZ o :: s.dev.out ∧ t.dev.led = s.dev.led ∧
        t.boot = s.boot)) ∧
    (s.dev.metRuns = true → p.shorted = true → p.redriving = false → p.shortAt + ms 100 ≤ s.dev.up → Runs (.pulseShortRetry o) s fun t =>
      t.dev.pulse o = { p with redriving := true, shortAt := s.dev.up } ∧
      t.dev.out = .pulse o false (plsLow p.block) :: s.dev.out ∧ t.dev.led = s.dev.led ∧ t.boot = s.boot) ∧
    (s.dev.metRuns = true → p.shorted = true → p.redriving = true → p.shortAt + ms 1 ≤ s.dev.up → Runs (.pulseShortClear o) s fun t =>
      t.dev.pulse o = { p with shorted := false, redriving := false, phase := .rest, since := 0, width := 0, calPulse := false } ∧
      t.dev.led = s.dev.led ∧ t.boot = s.boot) ∧
    (s.dev.pwr.pstate = .run → s.dev.serving = true → s.dev.quarterDue 0x1075 = true → exec .pulseSummary s =
      s.ok ((s.dev.quarter 0x1075).postPulse 0x75 ((List.range 8).flatMap fun o =>
        let p := s.dev.pulse o
        ⟨4 + 20 * o, 1, plsAccount p.block⟩ :: if plsAccount p.block = 0xFF then [] else
          [⟨8 + 20 * o, 4, p.emitted⟩, ⟨12 + 20 * o, 4, s.dev.pulsePending o⟩, ⟨16 + 20 * o, 4, p.discarded⟩,
            ⟨20 + 20 * o, 4, p.overflow⟩]) 164))

/-- The calibration seal (R525, R528). SEAL_OPEN outside HOLD, after recall: CAL_EN high for 100 ms (given in µs), counted from no earlier
than the end of recall, clears SEALED, writes the time into the SEAL block, and leaves the last commit and the config store. SEAL_CLOSE in RUN or
DOZE notes CAL_EN low, sets SEALED, and changes nothing else. -/
def Obligations.SealPin : Prop :=
  ∀ s : State,
    (∀ micros, s.dev.units = true → s.dev.cal.sealed = true → 100000 ≤ micros → s.dev.since s.dev.pwr.recallAt (ms 100) = true →
      Runs (.sealOpen micros) s fun t => t.dev.cal = { s.dev.cal with calEn := true, sealed := false } ∧
        t.dev.led.work.sealBlk.lastOpen = s.dev.now ∧ t.dev.led.last = s.dev.led.last ∧ t.dev.store = s.dev.store ∧
        t.boot = s.boot) ∧
    (s.dev.awake = true → s.dev.stores = [] →
      exec .sealClose s = .next { s with dev := { s.dev with cal := { s.dev.cal with calEn := false, sealed := true } } })

/-- The battery check, the sampling window and the tamper summary (R109, R719, R735, Table 19.11). BATTERY_CHECK in RUN, DOZE or HOLD, 250 ms
after the last: below 1.8 V only the run is kept, with the time of its first check, up to the third in a row, and the fourth makes BATTERY a
condition; with the condition, a fourth check in a row from 2.0 V up ends it, and one below sets that run to 0. TAMPER_WINDOW where one is
due counts it, takes new seeds, shows what loops 2 and 3 are driven with, and judges the eight inputs in order, then CAL_EN.
TAMPER_SUMMARY in RUN in service, a quarter of an hour after the last, posts the log entries in use and the conditions of each input. -/
def Obligations.TamperChecks : Prop :=
  ∀ s : State,
    (∀ mv : Int, (s.dev.awake = true ∨ s.dev.pwr.pstate = .hold) → (∀ t, s.dev.tam.lastCheck = some t → t + ms 250 ≤ s.dev.up) →
      (s.dev.tam.batLost = false → mv < 1800 → s.dev.tam.batLowRun < 3 → Runs (.batteryCheck mv) s fun t =>
        t.dev.tam = { s.dev.tam with
          lastCheck := some s.dev.up, batLowRun := s.dev.tam.batLowRun + 1
          batStart := if s.dev.tam.batLowRun = 0 then s.dev.now else s.dev.tam.batStart } ∧ t.dev.led = s.dev.led) ∧
      (s.dev.tam.batLost = false → mv < 1800 → 3 ≤ s.dev.tam.batLowRun → Runs (.batteryCheck mv) s fun t =>
        t.dev.tam.batLost = true ∧ t.dev.tam.batLowRun = 0 ∧ t.dev.led.last = s.dev.led.last) ∧
      (s.dev.tam.batLost = true → 2000 ≤ mv → 3 ≤ s.dev.tam.batOkRun → Runs (.batteryCheck mv) s fun t =>
        t.dev.tam.batLost = false ∧ t.dev.tam.batOkRun = 0) ∧
      (s.dev.tam.batLost = true → mv < 2000 → Runs (.batteryCheck mv) s fun t =>
        t.dev.tam = { s.dev.tam with lastCheck := some s.dev.up, batOkRun := 0 })) ∧
    (∀ inputs calEn, s.dev.windowDue = true → exec (.tamperWindow inputs calEn) s =
      let d := ({ s.dev with tam := { s.dev.tam with windowNo := s.dev.tam.windowNo + 1 } } : Dev).takeSeeds
      let d := d.emit (.loops (loopDrive (d.loopState 2)).1 (loopDrive (d.loopState 3)).1)
      s.ok ((d.each (List.range 8) fun d i => d.judgeInput i (inputs.getD i ⟨4 ≤ i, 0, 22000⟩)).sampleCalEn calEn)) ∧
    (s.dev.pwr.pstate = .run → s.dev.serving = true → s.dev.quarterDue 0x30 = true → exec .tamperSummary s =
      let row := fun i : Nat => (⟨8 + i, 1, sumOn (List.range 4) fun c => 2 ^ c * b2n (s.dev.cond i c).on⟩ : Fld)
      s.ok ((s.dev.quarter 0x30).post
        { ty := 0x30, time := s.dev.now, pay := [⟨0, 1, 5⟩, ⟨1, 1, s.dev.tam.log.length⟩] ++ (List.range 8).map row }))

/-! ### The tariff engine and the second (chapters 10, 13) -/

/-- Steps of the tariff engine taken by command, at a due commit tick that brings no other change (R639, R643, R1064, Table 13.1; the
model's choice of the instant, assumption 141). GRID_FALLBACK, no grid state having come for HOLD_MIN minutes, takes the fallback state.
DEMAND_INTERVAL_CLOSE, local time having passed a demand boundary since the last close with nothing that opens a new interval, runs step 5
of every evaluated account. FRIENDLY_HOURS_END after the friendly hours judges the credit of every evaluated PREPAY tenant that is DEFERRED.
LOAD_RECLOSE of an evaluated account at a second's last tick with RECLOSE_LEFT at most 1 clears the LOAD_LIMIT reason and LL_COUNT; the other
accounts' blocks, the last commit and the outputs stay. -/
def Obligations.TariffEvents : Prop :=
  ∀ s : State, s.dev.tickStill = true →
    ((∀ t, s.dev.tariff.arrivedAt = some t → t + (s.dev.holdMin * 60 * second : Nat) ≤ s.dev.up) →
      s.dev.led.work.device.gridSource ≠ 2 → s.dev.tariff.arrival = none → exec .gridFallback s =
        s.ok ((s.dev.setTariff { s.dev.tariff with arrivedAt := none }).takeGrid s.dev.fallbackGrid 2)) ∧
    (∀ slot off dm, s.dev.ratesStand = true → s.dev.tariff.arrival = none → s.dev.pwr.timeInvalid = false →
      s.dev.tariff.restart = false → s.dev.tariff.wasInvalid = false → s.dev.tariff.lastOffset = some off → off = s.dev.localOffset →
      s.dev.tariff.lastDemandMin = some dm → dm = tarDemandMin s.dev.section_ → s.dev.tariff.lastSlot = some slot →
      slot ≠ s.dev.demandSlot → exec .demandIntervalClose s =
        let d := s.dev.setTariff { s.dev.tariff with lastSlot := some s.dev.demandSlot }
        s.ok (d.each (d.accts.keys.filter d.evaluated) fun d a => d.demandStep a .boundary)) ∧
    (s.dev.ratesStand = true → s.dev.tariff.arrival = none → s.dev.friendly = false → s.dev.demandPlan.2 = .none →
      exec .friendlyHoursEnd s = s.ok (s.dev.each (s.dev.accts.keys.filter fun a =>
        s.dev.evaluated a && a < 64 && blkPrepay (s.dev.acct a).block = 1 && bitOf (s.dev.openBlk a).tst.tflags tfDeferred)
          Dev.judgeCredit)) ∧
    (∀ a : Fin 65, s.dev.ratesStand = true → s.dev.evaluated a = true → s.dev.endsSecond = true →
      bitOf (s.dev.openBlk a).tst.openReasons 1 = true → (s.dev.openBlk a).tst.recloseLeft ≤ 1 → Runs (.loadReclose a) s fun t =>
        (t.dev.openBlk a).tst = { (s.dev.openBlk a).tst with
          openReasons := (s.dev.openBlk a).tst.openReasons &&& 5, llCount := 0, recloseLeft := 0 } ∧
        (∀ b, b ≠ a.val → t.dev.openBlk b = s.dev.openBlk b) ∧ t.dev.led.last = s.dev.led.last ∧ t.dev.out = s.dev.out)

/-- The second (R250, R438, R496). SECOND_BOUNDARY while metrology runs and accumulates, after a second has ended: its SECOND records are
posted in order, the balance checker takes each of its phases, and the second is done with. BALANCE_SUMMARY in RUN in service with the
checker on, a quarter of an hour after the last, starts every phase's counts and sums anew and leaves the ledger. -/
def Obligations.SecondEvents : Prop :=
  ∀ s : State, s.dev.metRuns = true →
    (∀ x, s.dev.pq.secDone = some x → s.dev.pwr.accum = true → exec .secondBoundary s =
      let d := s.dev.each x.recs Dev.post
      let d := d.each x.phases.cells fun d p => d.balancePhase p.1 p.2.1 p.2.2 x.vb
      s.ok (d.setPq { d.pq with secDone := none })) ∧
    (s.dev.pwr.pstate = .run → s.dev.serving = true → s.dev.pqOn 4 = true → s.dev.quarterDue 0x14 = true →
      Runs .balanceSummary s fun t => t.dev.pq.balVoltB = false ∧ t.dev.led = s.dev.led ∧ t.boot = s.boot ∧
        ∀ p, t.dev.bal p = { s.dev.bal p with evalN := 0, devN := 0, sumD := 0, sumLargest := 0 })

/-- Epochs (R339): they count 1 to 255 and wrap from 255 to 1, and never hold 0, whatever counts them up. -/
def Obligations.EpochsWrap : Prop :=
  ∀ (d : Dev) (e a : Nat),
    ((d.bump e).book.get e 1 = if 255 ≤ d.book.get e 1 then 1 else d.book.get e 1 + 1) ∧
    (∀ x, x ≠ e → (d.bump e).book.get x 1 = d.book.get x 1) ∧ (d.bump e).book.get e 1 ≠ 0 ∧
    (1 ≤ d.book.get e 1 ∧ d.book.get e 1 ≤ 255 → 1 ≤ (d.bump e).book.get e 1 ∧ (d.bump e).book.get e 1 ≤ 255) ∧
    (((d.bumpAccount a).openBlk a).epoch = if 255 ≤ (d.openBlk a).epoch then 1 else (d.openBlk a).epoch + 1) ∧
    ∀ b, b ≠ a → (d.bumpAccount a).openBlk b = d.openBlk b

/-! ### Commits, the config store, errors, tests and the generator (chapters 12, 14, 19 and 23) -/

/-- The commit (R35, R42, R77, R564). COMMIT_TICK outside HOLD, after recall, 160 samples after the last: the write under way ends, what the tick finds is
found in one clock, in this order: the second's end, accepted changes, the tariff and the tick's checks, and what the commit gathers;
then it takes the snapshots and begins a commit numbered one above the last. Sooner it changes nothing. COMMIT_COMPLETE of a write that
is not a final one makes the written image the last commit's, with its number, and leaves the working values; without a write under way
it changes nothing. -/
def Obligations.Commits : Prop :=
  ∀ s : State,
    (s.dev.units = true → 160 ≤ s.dev.pwr.tickSmps → exec .commitTick s =
      let d := ({ s.dev with pwr := { s.dev.pwr with tickSmps := s.dev.pwr.tickSmps % 160 } } : Dev).commitDone
      let q := d.led.lastSeq + 1
      let e := d.oneClock fun d =>
        (((d.secondEnd.takeAccepted.firstLevels.takeChanges q).forceModes.tariffTick.reversalTick.lowVoltTick.umpireTick).secondTick).gather q
      s.ok ((e.takeSnaps q).beginCommit q false e.now).startWrite) ∧
    (s.dev.pwr.tickSmps < 160 → s.dev.stores = [] → exec .commitTick s = .next s) ∧
    (∀ w, s.dev.led.writing = some w → w.final = false → s.dev.units = true → Runs .commitComplete s fun t =>
      t.dev.led.writing = none ∧ t.dev.led.last = w.img ∧ t.dev.led.lastSeq = w.seq ∧ t.dev.led.work = s.dev.led.work ∧
      t.boot = s.boot) ∧
    (s.dev.led.writing = none → s.dev.stores = [] → exec .commitComplete s = .next s)

/-- The commit's number and set (R565): a commit that begins carries the number given it and the working values, and, save at a
repair, exactly the blocks that differ from the last commit's or were lost; every other register of the ledger stays. -/
def Obligations.CommitSet : Prop :=
  ∀ (d : Dev) (seq : Nat) (final : Bool) (time : DevTime), d.led.repairDue = false →
    ∃ w, (d.beginCommit seq final time).led.writing = some w ∧ w.img = d.led.work ∧ w.seq = seq ∧ w.final = final ∧ w.time = time ∧
      (∀ id, id ∈ w.blocks ↔ id ∈ blockIds ∧ (id ∈ d.led.rewrite ∨ d.led.work.same d.led.last id = false)) ∧
      (d.beginCommit seq final time).led = { d.led with writing := some w, rewrite := [], repairDue := false } ∧
      (d.beginCommit seq final time).out = d.out

/-- The config store (R582, R584, R587, R595, R596, R598). GROUP_WRITE_DONE of a group other than KEYS that waits for no erase: read back well it
takes the next slot, its change becomes due, its command completes, and the next write starts; read back badly for the first time it
leaves a bad slot and is retried. REFRESH_FORWARD of such a group read back well programs the content and starts the next write. SECTOR_ERASE_DONE
ends the oldest erase, whose sector then reads erased. MARGIN_PASS in RUN in service, 24 h after the last, judges what it found in the
places it reads; LEDGER_SCRUB in service, 60 s after the last, what it found in the ledger; SRAM_SCRUB in service, 4 s after the last,
what it found in staging and the context cache: each in one clock, with the fast domain woken. -/
def Obligations.ConfigStore : Prop :=
  ∀ s : State,
    (∀ x, s.dev.store.executing = some x → s.dev.units = true → s.dev.waitsErase x.w.group = false →
      (x.refresh = false → x.w.group ≠ 0x0B → exec (.groupWriteDone true) s =
        let d := s.dev.programSlot x.w.group x.payload true
        let d := { d with store := { d.store with due := d.store.due ++ [x.w], executing := none } }
        let r := if x.w.group = 0x05 ∨ x.w.group = 0x08 ∨ x.w.group = 0x09 then (d.slotMark x.w.group).1 else x.w.result
        s.ok (match x.w.cmd with | some c => d.doneWith c r | none => d).startWrite) ∧
      (x.refresh = false → x.retried = false → x.w.group ≠ 0x0B → exec (.groupWriteDone false) s =
        let d := s.dev.programSlot x.w.group x.payload false
        s.ok { d with store := { d.store with executing := some { x with retried := true } } }) ∧
      (x.refresh = true → x.w.group ≠ 0x0B → exec (.refreshForward true) s =
        s.ok (s.dev.programSlot x.w.group x.payload true).endWrite)) ∧
    (∀ x t, s.dev.store.erasing = x :: t → s.dev.units = true → Runs .sectorEraseDone s fun u =>
      u.dev.store.erasing = t ∧ x ∉ u.dev.store.dirty ∧ (∀ y, y ≠ x → (y ∈ u.dev.store.dirty ↔ y ∈ s.dev.store.dirty)) ∧
      u.dev.led = s.dev.led ∧ u.boot = s.boot) ∧
    (s.dev.serving = true →
      (∀ found t, s.dev.pwr.pstate = .run → s.dev.store.lastMargin = some t → t + 86400 * 32768 ≤ s.dev.pwr.runTicks →
        exec (.marginPass found) s =
          let d := ({ s.dev with store := { s.dev.store with lastMargin := some s.dev.pwr.runTicks } } : Dev).rouse
          s.ok (d.oneClock fun e => e.each (found.filter d.marginReads) Dev.marginFinding)) ∧
      (∀ found, s.dev.since s.dev.led.scrubAt (60 * second) = true → exec (.ledgerScrub found) s =
        s.ok (({ s.dev with led := { s.dev.led with scrubAt := s.dev.up } } : Dev).rouse.oneClock fun d =>
          d.each found fun d f => d.ledgerFinding f 0)) ∧
      (∀ staging rings, s.dev.since s.dev.led.sramAt (4 * second) = true → exec (.sramScrub staging rings) s =
        s.ok (({ s.dev with led := { s.dev.led with sramAt := s.dev.up } } : Dev).rouse.oneClock fun d =>
          (d.each staging Dev.stagingFinding).each rings fun d p => (d.updRing p.2 fun g => { g with cached := false }).raise
            { code := 0x0302, cls := 0, region := 10, detail := [⟨0, 4, p.1⟩, ⟨4, 2, p.2⟩] })))

/-- Errors, tests and the generator (R695, R697, R908, R1101, R1109). SLOT_WINDOW_CLOSE of an open slot whose window has run closes it into its
record. ERROR_SUMMARY in RUN, a quarter of an hour after the last, posts the totals and leaves them, the ledger's last commit and the open slot.
SELFTEST_COMPLETE of a test that has run its time ends it with its completion: a link test with its streams, VOLT_B with 0, CRYPTO with the
failed known-answer tests and the start test's failure. DRBG_SEED before the first seeding, and DRBG_RESEED when one is due, take
the raw bits. SNAPSHOT_SIGNED of the oldest snapshot, captured, whose commit is written: it waits no longer, and one generate request
more has been made. -/
def Obligations.UnitResults : Prop :=
  ∀ s : State,
    (∀ t, s.dev.err.slot = some t → s.dev.errRuns = true → t.err.cls < 3 → s.dev.since t.since (errWindow t.err.cls) = true →
      exec .slotWindowClose s = s.ok (s.dev.wake.closeSlot false)) ∧
    (s.dev.errRuns = true → s.dev.pwr.pstate = .run → s.dev.quarterDue 0x70 = true → Runs .errorSummary s fun t =>
      t.dev.led.last = s.dev.led.last ∧ t.dev.err.totals = s.dev.err.totals ∧ t.dev.err.slot = s.dev.err.slot ∧ t.boot = s.boot) ∧
    (∀ t bits raw, s.dev.test = some t → s.dev.serving = true → s.dev.since t.since t.span = true →
      (t.test = 0x01 ∨ t.test = 0x02 → exec (.selftestComplete bits raw) s =
        s.ok ((s.dev.linkResult t).1.endTest.doneWith t.cmd (s.dev.linkResult t).2)) ∧
      (t.test = 0x10 → exec (.selftestComplete bits raw) s = s.ok (s.dev.endTest.doneWith t.cmd 0)) ∧
      (∀ bad, t.test = 0x20 → startTest raw = some bad → exec (.selftestComplete bits raw) s =
        let failed := bits % 16 + 16 * b2n bad
        s.ok ((s.dev.endTest.cryptoFailed failed).doneWith t.cmd failed))) ∧
    (∀ raw, s.dev.trngOn = true →
      (s.dev.keys.seeded = false → exec (.drbgSeed raw) s = s.ok (s.dev.wake.seedFrom raw fun _ e => Drbg.instantiate e)) ∧
      (s.dev.keys.seeded = true → s.dev.reseedDue = true → exec (.drbgReseed raw) s = s.ok (s.dev.wake.seedFrom raw Drbg.reseed))) ∧
    (∀ w t bytes, s.dev.keys.snaps = w :: t → w.taken = some bytes → s.dev.serving = true → s.dev.drbgReady = true →
      w.commit ≤ s.dev.led.lastSeq → Runs .snapshotSigned s fun u =>
        u.dev.keys.snaps = t ∧ u.dev.keys.requests = s.dev.keys.requests + 1 ∧ u.dev.led = s.dev.led ∧ u.boot = s.boot)
/-! ### The host port, its registers and interrupts (chapter 16) -/

/-- The host link (R51, R72, R791–R803). HOST_PORT_DOWN with HOSTMODE high and the link up, while the metrology clock runs in RUN or DOZE
or a final commit runs: the link is down from now, VF Enable and D3hot are 0, and the engine, the accepted set, the table and doorbell
bases, the power state and the ledger stay. HOST_PORT_FAIL after 1 ms of that, after recall and outside Backstop, enters Backstop with cause 4.
HOST_PORT_UP in RUN or DOZE sets the link up and changes nothing else. BUS_MASTER_ENABLE and D3HOT take their bit and let mastering follow;
PF_FLR is a soft reset with the configuration space reset. -/
def Obligations.HostLink : Prop :=
  ∀ s : State,
    (s.dev.pwr.hostmode = true → s.dev.metRuns = true → s.dev.host.linkUp = true → Runs .hostPortDown s fun t =>
      t.dev.host.linkUp = false ∧ t.dev.host.downSince = s.dev.up ∧ t.dev.host.vfEnable = false ∧ t.dev.host.d3hot = false ∧
      t.dev.eng = s.dev.eng ∧ t.dev.host.accepted = s.dev.host.accepted ∧ t.dev.host.tablebase = s.dev.host.tablebase ∧
      t.dev.host.doorbase = s.dev.host.doorbase ∧ t.dev.host.negotiated = s.dev.host.negotiated ∧ t.dev.pwr = s.dev.pwr ∧
      t.dev.led = s.dev.led) ∧
    (s.dev.pwr.hostmode = true → s.dev.metRuns = true → s.dev.pwr.step = .ready → s.dev.host.linkUp = false →
      s.dev.since s.dev.host.downSince (ms 1) = true → s.dev.pwr.backstop = false →
      exec .hostPortFail s = s.ok (s.dev.enterBackstop 4 false)) ∧
    (s.dev.pwr.hostmode = true → s.dev.awake = true → s.dev.pwr.metClock = true → s.dev.stores = [] →
      exec .hostPortUp s = .next { s with dev := { s.dev with host := { s.dev.host with linkUp := true } } }) ∧
    (s.dev.hostAlive = true →
      (∀ f on, f = 0 ∨ s.dev.vfExists f = true → exec (.busMasterEnable f on) s =
        s.ok (s.dev.wake.setFn f { s.dev.fn f with bme := on }).masteringChanged) ∧
      (∀ on, exec (.d3hot on) s =
        s.ok (({ s.dev with host := { s.dev.host with d3hot := on } } : Dev).wake).masteringChanged) ∧
      exec .pfFlr s = s.stored (s.dev.wake.softReset true).resetConfigSpace)

/-- Accesses (R767–R770, R776, R780, R788, R985). A write at an offset of a function that answers wakes the port and takes effect; one that is not
well-formed only wakes it; CAUSE_W1C writes CAUSE; on the target port they take effect where it writes. GO and SOFT_RESET are writes of CONTROL
with their bit. A read below the mover's registers gives the register's 8 bytes; a configuration read gives its item, a write of Link
Control takes its two enables, and before step 5 either has retry status for an answer. Where neither port takes writes, writes change nothing. -/
def Obligations.Registers : Prop :=
  ∀ (s : State) (w : RegVal),
    (∀ f off, w.path = .pcie f → s.dev.barAlive f = true →
      exec (.registerWrite off true w) s = s.stored (s.dev.wake.registerWrite off w) ∧
      exec (.registerWrite off false w) s = s.stored s.dev.wake ∧
      exec (.causeW1c w) s = s.ok (s.dev.wake.writeCause f w)) ∧
    (∀ off, w.path = .twt → s.dev.twtWrites = true →
      exec (.registerWrite off true w) s = s.stored (s.dev.registerWrite off w) ∧
      exec (.causeW1c w) s = s.ok (s.dev.writeCause 0 w)) ∧
    (s.dev.regWrite w.path = true →
      exec (.go w) s = s.stored (s.dev.writeControl { w with lo := true, value := w.value ||| 2#64 }) ∧
      exec (.softReset w) s = s.stored (s.dev.writeControl { w with lo := true, value := w.value ||| 8#64 })) ∧
    (∀ f off, s.dev.barAlive f = true → off < 0x48 → exec (.registerRead f (.read off)) s =
      s.ok (s.dev.wake.emit (.readData (BitVec.ofNat 64 (s.dev.wake.regOf f (off / 8 * 8)))))) ∧
    (∀ f, f = 0 ∨ s.dev.vfExists f = true → s.dev.hostAlive = true →
      (∀ i, exec (.registerRead f (.config i)) s = s.ok (s.dev.wake.emit (.configAnswer f i (s.dev.configItem f i)))) ∧
      (∀ l1 ltr, f = 0 → exec (.registerRead f (.linkControl l1 ltr)) s =
        s.ok { s.dev.wake with host := { s.dev.wake.host with aspmL1 := l1, ltrEn := ltr } })) ∧
    (s.dev.pwr.hostmode = true → s.dev.awake = true → s.dev.pwr.metClock = true → s.dev.host.linkUp = true → s.dev.pwr.step ≠ .ready →
      ∀ i l1 ltr, exec (.registerRead 0 (.config i)) s = s.ok (s.dev.emit .retryStatus) ∧
        exec (.registerRead 0 (.linkControl l1 ltr)) s = s.ok (s.dev.emit .retryStatus)) ∧
    (s.dev.stores = [] → s.dev.hostAlive = false → s.dev.twtWrites = false → ∀ off b,
      exec (.registerWrite off b w) s = .next s ∧ exec (.go w) s = .next s ∧ exec (.softReset w) s = .next s ∧
      exec (.causeW1c w) s = .next s)

/-- Registers locked after negotiation, and by a transfer (R773, R777): a write to TABLEBASE or DOORBASE while NEGOTIATED is 1 is ignored, by
whatever path it comes; before negotiation they take it, with their reserved bits 0. MOVESRC and MOVEDST take a write while the mover is
idle, by its halves, and keep their value while it runs; offsets of no register of the PF ignore it. Every other register stays. -/
def Obligations.RegisterLocks : Prop :=
  (∀ (s : State) (w : RegVal) (b : Bool), s.dev.host.negotiated = true → ∀ off ∈ [0x30, 0x38], Runs (.registerWrite off b w) s fun t =>
    t.dev.host = s.dev.host ∧ t.dev.eng = s.dev.eng ∧ t.dev.led = s.dev.led ∧ (s.dev.stores = [] → t.boot = s.boot)) ∧
  ∀ (d : Dev) (w : RegVal), w.path = .pcie 0 →
    (d.host.negotiated = false → w.lo = true → w.hi = true →
      d.registerWrite 0x30 w = { d with host := { d.host with tablebase := w.value &&& 0xFFFFFFFFFFFFF01F#64 } } ∧
      d.registerWrite 0x38 w = { d with host := { d.host with doorbase := w.value &&& 0xFFFFFFFFFFFFF000#64 } }) ∧
    (d.host.mover.isSome = true → d.registerWrite 0x48 w = d ∧ d.registerWrite 0x50 w = d) ∧
    (d.host.mover = none → w.lo = true → w.hi = false →
      d.registerWrite 0x48 w =
        { d with host := { d.host with movesrc := (d.host.movesrc &&& 0xFFFFFFFF00000000#64) ||| (w.value &&& 0xFFFFFFFF#64) } }) ∧
    (∀ off, off ∉ [0x10, 0x18, 0x28, 0x30, 0x38, 0x48, 0x50, 0x58] → d.registerWrite off w = d)

/-- CAUSE is write-one-to-clear (Table 16.6, R781): in the low half a 1 clears its cause and a 0 keeps it; while an error waits in the
internal error queue a 1 written to the PF's FAULT has no effect, and FAULT stays; the high half sets the mask; the other functions
keep their causes and masks. -/
def Obligations.CauseClears : Prop :=
  ∀ (d : Dev) (f : Nat) (w : RegVal),
    ((d.writeCause f w).fn f).mask = (if w.hi then (w.value >>> 32).setWidth 4 else (d.fn f).mask) ∧
    (f ≠ 0 ∨ d.err.queue = [] → ((d.writeCause f w).fn f).cause =
      (d.fn f).cause &&& ~~~(if w.lo then w.value.setWidth 4 else 0#4)) ∧
    (f = 0 → d.err.queue ≠ [] → ((d.writeCause f w).fn f).cause =
      (d.fn f).cause &&& ~~~(if w.lo then w.value.setWidth 4 &&& 0xB#4 else 0#4)) ∧
    ∀ g, g ≠ f → ((d.writeCause f w).fn g).cause = (d.fn g).cause ∧ ((d.writeCause f w).fn g).mask = (d.fn g).mask

/-- Messages and virtual functions (R765, R780, R798). MSIX_HOLDOFF of a vector whose HOLDOFF has run in its window sends its message.
MSIX_UNMASK of an existing function changes nothing but what messages may. VF_FLR of an existing VF resets its tenant's host side.
VF_ENABLE with no VF taken away sets NumVFs, VF Enable and ARI, and leaves the rings and the ledger. VF_FLR_DONE, nothing being owed on
the tenant's stopping rings, ends the reset and leaves the ledger. -/
def Obligations.FunctionsAndMessages : Prop :=
  ∀ s : State,
    (∀ f v, s.dev.units = true → ((s.dev.fn f).win.get v {}).opened = true →
      s.dev.since ((s.dev.fn f).win.get v {}).since (us (s.dev.holdoff f v)) = true →
      exec (.msixHoldoff f v) s = s.ok (s.dev.wake.sendMsix f v) ∧ OnlyPosts (.msixHoldoff f v) s) ∧
    (s.dev.hostAlive = true →
      (∀ f en fmask vmask, f = 0 ∨ s.dev.vfExists f = true → exec (.msixUnmask f en fmask vmask) s =
        s.ok ((s.dev.wake.setFn f { s.dev.fn f with msixEn := en, fmask := fmask, vmask := vmask }).each (List.range 4) fun d v =>
          if ((d.fn f).win.get v {}).pending then d.sendMsix f v else d) ∧ OnlyPosts (.msixUnmask f en fmask vmask) s) ∧
      (∀ t : Fin 64, s.dev.vfExists (t.val + 1) = true → exec (.vfFlr t) s = s.ok (s.dev.wake.resetVf t.val)) ∧
      (∀ (n : Fin 65) ari, (s.dev.host.vfEnable = false ∨ s.dev.host.numVfs ≤ n.val) → Runs (.vfEnable n true ari) s fun u =>
        u.dev.host.numVfs = n.val ∧ u.dev.host.vfEnable = true ∧ u.dev.host.ari = ari ∧ u.dev.eng = s.dev.eng ∧
        u.dev.led = s.dev.led)) ∧
    (∀ t : Fin 64, s.dev.host.flrWait.contains t.val = true →
      (∀ p ∈ s.dev.eng.rings.cells, s.dev.ringOwner p.1 = t.val → p.2.state = .stopping → (s.dev.ring p.1).owed = 0) →
      Runs (.vfFlrDone t) s fun u => u.dev.host.flrWait = s.dev.host.flrWait.erase t.val ∧ u.dev.led = s.dev.led ∧ u.boot = s.boot)

/-- Negotiation and restart (R785–R788, R864, R1113). NEGOTIATION_COMPLETE ends the negotiation in progress with its set: one after another
drops the cached contexts; with HOSTMODE low, Backstop follows what it allows; with HOSTMODE high, rings 0–2 are loaded and the
other rings' contexts written back before that, and out of Backstop the boot image runs after it. Without one in progress it changes nothing.
RESTART_CHECK after a fast-domain fault (cause 3) in the Backstop it is due in: passed, with HOSTMODE low, it ends Backstop; failed in
its wakes or its built-in test, it changes nothing. -/
def Obligations.NegotiationAndRestart : Prop :=
  ∀ s : State,
    (∀ a ctx, s.dev.host.negotiating = some a →
      let fresh := !s.dev.host.negotiated
      let d := (s.dev.takeAccept a).wake
      let d := if fresh then d else d.dropContexts
      (s.dev.pwr.hostmode = false → exec (.negotiationComplete ctx) s = s.stored d.afterNegotiation.lineAutoJoin) ∧
      (s.dev.pwr.hostmode = true →
        let e := (d.takeShadow fresh).startFixed ctx
        let e := (e.each (e.eng.rings.cells.filter fun p => p.2.state != .absent && p.1 > 2) fun d p => d.writeBack p.1).afterNegotiation
        exec (.negotiationComplete ctx) s =
          s.stored (if e.pwr.hostmode = true ∧ e.pwr.backstop = false then e.runBootImage s.boot else e).lineAutoJoin)) ∧
    (∀ ctx, s.dev.host.negotiating = none → s.dev.stores = [] → exec (.negotiationComplete ctx) s = .next s) ∧
    (s.dev.pwr.backstop = true → s.dev.pwr.checking = true → s.dev.host.negotiated = true → s.dev.units = true → s.dev.pwr.cause = 3 →
      (s.dev.led.work.errors.fatalCode ≠ 0x0405 → s.dev.pwr.hostmode = false → exec (.restartCheck true true) s =
        s.stored ({ s.dev with pwr := { s.dev.pwr with checking := false }, eng := { s.dev.eng with quarantined := 0 } } : Dev).endBackstop) ∧
      (∀ pll logic, pll = false ∨ logic = false → s.dev.stores = [] → exec (.restartCheck pll logic) s = .next s))

/-- No event of the host side changes metering (R32, R52, R793): a register write, a reset, a function-level reset, a D-state or a link
state leaves the registers and tamper counts of the ledger, the commit before, the accounts and their states, the pulses, the tariff
engine, the sealed part and what the config store holds. -/
def Obligations.HostEventsKeepMetering : Prop :=
  ∀ (s : State) (w : RegVal) (off : Nat) (b en fm ari : Bool) (f : Nat) (a : HostAccess) (v : BitVec 4) (n : Fin 65) (t : Fin 64),
    ∀ c ∈ [Instr.go w, .softReset w, .causeW1c w, .registerWrite off b w, .registerRead f a, .msixHoldoff f off,
      .msixUnmask f en fm v, .hostPortDown, .hostPortFail, .hostPortUp, .pfFlr, .vfFlr t, .vfFlrDone t, .vfEnable n b ari,
      .busMasterEnable f b, .d3hot b],
      Runs c s fun u =>
        u.dev.led.work.legal = s.dev.led.work.legal ∧ u.dev.led.work.opens = s.dev.led.work.opens ∧
        u.dev.led.work.pulse = s.dev.led.work.pulse ∧ u.dev.led.work.tamper = s.dev.led.work.tamper ∧
        u.dev.led.work.device = s.dev.led.work.device ∧ u.dev.led.work.sealBlk = s.dev.led.work.sealBlk ∧
        u.dev.led.last = s.dev.led.last ∧ u.dev.led.lastSeq = s.dev.led.lastSeq ∧ u.dev.accts = s.dev.accts ∧
        u.dev.pulses = s.dev.pulses ∧ u.dev.tariff = s.dev.tariff ∧ u.dev.cal = s.dev.cal ∧ u.dev.core = s.dev.core ∧
        u.dev.store.slots = s.dev.store.slots ∧ u.dev.store.keys = s.dev.store.keys ∧ u.dev.store.due = s.dev.store.due
/-! ### The mover and the rings (chapter 17) -/

/-- The mover (R860–R862). MOVECTL_GO and MOVECTL_DROP are PF writes of MOVECTL with their bit. MOVE_DONE, after recall and outside HOLD, of a
transfer into the boot area whose bytes were all read: the mover is idle, DONE is 1, FAIL 0, MOVESRC, MOVEDST and COUNT stand past the bytes
moved, each byte stands at its address and no other changes. Of a transfer out of the device that was written whole, or that failed with
every byte written: its bytes go out to host memory, DONE and FAIL say which, COUNT is 0, and the boot area stays. -/
def Obligations.Mover : Prop :=
  ∀ s : State,
    (∀ w, s.dev.pfWrite w.path = true →
      exec (.movectlGo w) s = s.stored (s.dev.wake.writeMovectl { w with hi := true, value := w.value ||| (1#64 <<< 32) }) ∧
      exec (.movectlDrop w) s = s.stored (s.dev.wake.writeMovectl { w with hi := true, value := w.value ||| (1#64 <<< 33) })) ∧
    (∀ m data, s.dev.host.mover = some m → s.dev.units = true → m.dir = false → data.length = m.left → s.Inv →
      Runs (.moveDone data true []) s fun t =>
        t.dev.host.mover = none ∧ t.dev.host.moveDone = true ∧ t.dev.host.moveFail = false ∧
        t.dev.host.movesrc = BitVec.ofNat 64 (m.src + m.left) ∧ t.dev.host.movedst = BitVec.ofNat 64 (m.dst + m.left) ∧
        t.dev.host.moveCount = 0#32 ∧ (∀ i, ∀ h : i < data.length, getCell (m.dst + i) t.boot = data[i]) ∧
        (∀ x, x < m.dst ∨ m.dst + data.length ≤ x → getCell x t.boot = getCell x s.boot) ∧ t.dev.led = s.dev.led ∧
        t.dev.eng = s.dev.eng) ∧
    (∀ m data okay, s.dev.host.mover = some m → s.dev.units = true → m.dir = true → (okay = true ∨ m.left ≤ data.length ∧ m.moved ≤ m.left) →
      Runs (.moveDone data okay []) s fun t =>
        t.dev.host.mover = none ∧ t.dev.host.moveDone = okay ∧ t.dev.host.moveFail = !okay ∧ t.dev.host.moveCount = 0#32 ∧
        t.dev.out = .hostWrite m.dst ((List.range m.left).map fun i => s.dev.wake.windowByte (m.src + i)) :: s.dev.wake.out ∧
        (s.dev.stores = [] → t.boot = s.boot) ∧ t.dev.led = s.dev.led)

/-- Serving the rings in service (R774, R823, R826, R831, R836–R843). KICK by the PF of a ring after negotiation, while it masters, and
SCAN_ALL by the PF of one of its rings, serve that ring's doorbell; KICK by a VF of another owner's ring is counted in its KICK_REJECTED.
HELD_RECHECK where a read of the LY64's own is due, and DOORBELL_SCAN with DOORBELL_POLL accepted, SCAN_US after the last, of a started
command ring whose INDEX has changed, serve it as well. CONTEXT_WRITEBACK of a started ring whose DEV_INDEX has changed
writes its device fields back and changes nothing but what posting may. DESCRIPTOR_FETCH of the ring whose turn it is takes up to its
WEIGHT, or puts it into ERROR where the read failed, as COMPLETION_TIMEOUT does with a started or stopping ring. -/
def Obligations.RingService : Prop :=
  ∀ s : State, s.dev.serving = true →
    (∀ b, s.dev.barAlive 0 = true → s.dev.host.negotiated = true → b.ring < s.dev.ringCount → s.dev.masters 0 = true →
      exec (.kick (.pcie 0) b) s = s.ok (s.dev.wake.serveBell b) ∧
      (fnOfOwner (s.dev.wake.ringOwner b.ring) = 0 → exec (.scanAll (.pcie 0) [b]) s = s.ok (s.dev.wake.serveBell b))) ∧
    (∀ b f, f ≠ 0 → s.dev.barAlive f = true → s.dev.host.negotiated = true → b.ring < s.dev.ringCount → s.dev.has 1 = true →
      s.dev.ringOwner b.ring ≠ f - 1 → exec (.kick (.pcie f) b) s =
        s.ok (s.dev.wake.setFn f { s.dev.fn f with kickRejected := sat32 ((s.dev.fn f).kickRejected + 1) })) ∧
    (∀ b, s.dev.masters (fnOfOwner (s.dev.ringOwner b.ring)) = true → s.dev.bellDue b.ring = true →
      exec (.heldRecheck b) s = s.ok (s.dev.wake.serveBell b)) ∧
    (∀ b w, s.dev.has 12 = true → s.dev.since s.dev.eng.scanAt (us s.dev.scanUs) = true → b.bell = some w →
      (s.dev.ring b.ring).ty = 0 → (s.dev.ring b.ring).state = .started → wrap 32 w.index ≠ (s.dev.ring b.ring).hostIndex →
      s.dev.masters (fnOfOwner (s.dev.ringOwner b.ring)) = true →
      exec (.doorbellScan [b]) s =
        s.ok ((({ s.dev with eng := { s.dev.eng with scanAt := s.dev.up } } : Dev).rouse.wake).serveBell b)) ∧
    (∀ r, (s.dev.ring r).state = .started → (s.dev.ring r).devIndex ≠ (s.dev.ring r).wbIndex → s.dev.masters 0 = true →
      exec (.contextWriteback r) s = s.ok (s.dev.writeBack r) ∧ OnlyPosts (.contextWriteback r) s) ∧
    (∀ r l, s.dev.host.quiesce = false → s.dev.nextService.2 = some r →
      let d := ({ s.dev with
        eng := s.dev.nextService.1.served (s.dev.ringOwner r) (s.dev.turnPlace s.dev.nextService.1.turn r) } : Dev).wake
      exec (.descriptorFetch r (some l)) s = s.ok (d.fetchLoop r (max 1 (min 64 (d.ring r).weight)) l) ∧
      exec (.descriptorFetch r none) s = s.ok (d.ringFault r 2)) ∧
    (∀ r, (s.dev.ring r).state = .started ∨ (s.dev.ring r).state = .stopping →
      exec (.completionTimeout r) s = s.ok (s.dev.wake.ringFault r 2))

/-! ### Opcodes (chapter 18) -/

/-- The common checks, for every opcode command (R891, R900, R341, Table 18.3): one that may not execute yet leaves the device as it is;
then an opcode that may not be issued completes with BAD_OPCODE, an illegal TENANT with BAD_TENANT, and a wrong expected epoch
with STATE_MISMATCH and its record, each changing nothing but what posting may. -/
def Obligations.OpcodeChecks : Prop :=
  ∀ (c : Instr) (s : State) (x : Desc) (row : OpRow), opcodeRow c = some (x, row) →
    let b := s.dev.begun x
    (s.dev.executes x = false → exec c s = s.ok s.dev) ∧
    (s.dev.executes x = true →
      (b.opcodeOk x row = false → exec c s = s.ok (b.done x.ref 0x0010) ∧ OnlyPosts c s) ∧
      (b.opcodeOk x row = true → b.tenantOk x row = false → exec c s = s.ok (b.done x.ref 0x0011) ∧ OnlyPosts c s) ∧
      (∀ n, b.opcodeOk x row = true → b.tenantOk x row = true → row.judged x = some n → x.expEpoch ≠ 0 → x.expEpoch ≠ b.epoch n →
        (∃ state, exec c s = s.ok (b.doneMismatch x row.opcode n state)) ∧ OnlyPosts c s))

/-- A tenant's ring issues six opcodes and only for its own tenant (R345, R895): on a ring that belongs to tenant t, every other
opcode completes with BAD_OPCODE, and one of the six with another TENANT completes with BAD_TENANT; neither changes anything but what
posting may. -/
def Obligations.TenantPrivilege : Prop :=
  ∀ (c : Instr) (s : State) (x : Desc) (row : OpRow), opcodeRow c = some (x, row) → s.dev.executes x = true →
    s.dev.issuer x.ref ≠ 0xFF →
    (row.opcode ∉ [0x0001, 0x0002, 0x0031, 0x0050, 0x0051, 0x0072] →
      exec c s = s.ok ((s.dev.begun x).done x.ref 0x0010) ∧ OnlyPosts c s) ∧
    (row.opcode ∈ [0x0001, 0x0002, 0x0031, 0x0050, 0x0072] ∨ (row.opcode = 0x0051 ∧ s.dev.has 7 = true) →
      x.tenant ≠ s.dev.issuer x.ref → exec c s = s.ok ((s.dev.begun x).done x.ref 0x0011) ∧ OnlyPosts c s)

/-- The opcodes that only read, and NOP: whatever becomes of them, they change nothing but what posting and completing may. Accepted and
with room for their output, NOP completes with OK; CAL_GET, CONFIG_READ, LEDGER_READ, KEY_STATUS, TENANT_GET and LINE_STATUS write their block
and complete with their result; CLOCK_GET completes with device time. AUX_READ writes its block, or triggers a sequence where it is
asked to. -/
def Obligations.ReadingOpcodes : Prop :=
  ∀ (s : State) (x : Desc),
    (∀ c ∈ [Instr.nop x, .calGet x, .configRead x, .ledgerRead x, .tenantGet x, .clockGet x, .keyStatus x, .lineStatus x,
      .ringQuery x, .bufReassign x], OnlyPosts c s) ∧
    let b := s.dev.begun x
    let a := accountOf x.tenant
    (Accepted (.nop x) s → exec (.nop x) s = s.ok (b.done x.ref stOK)) ∧
    (∀ n, Accepted (.calGet x) s → calSize (x.arg 24 1) (x.arg 26 2) = some n → n ≤ x.len →
      (x.arg 24 1 = 0 → exec (.calGet x) s = s.ok ((b.output x b.cal.cabinet).done x.ref stOK)) ∧
      (x.arg 24 1 = 1 → exec (.calGet x) s = s.ok ((b.output x (b.voltBlk (x.arg 26 2))).done x.ref stOK)) ∧
      (x.arg 24 1 = 2 → exec (.calGet x) s = s.ok ((b.output x (b.chanBlk (x.arg 26 2))).done x.ref stOK)) ∧
      (x.arg 24 1 = 3 → exec (.calGet x) s = s.ok ((b.output x b.calStatus).done x.ref stOK)) ∧
      (x.arg 24 1 = 4 → exec (.calGet x) s = s.ok ((b.output x b.calFactory).done x.ref stOK))) ∧
    (Accepted (.configRead x) s → 1 ≤ x.arg 24 1 → x.arg 24 1 ≤ 0x0A → slotSize (x.arg 24 1) ≤ x.len → exec (.configRead x) s =
      s.ok ((b.output x (b.configOut (x.arg 24 1)).1).doneWith x.ref (b.configOut (x.arg 24 1)).2)) ∧
    (Accepted (.ledgerRead x) s → 832 ≤ x.len → exec (.ledgerRead x) s =
      s.ok ((b.output x (b.led.last.bytes (0x0100 + a) (b.led.lastSeqs.get (0x0100 + a) 0) ++
        b.led.last.bytes (0x0200 + a) (b.led.lastSeqs.get (0x0200 + a) 0))).doneWith x.ref b.led.lastSeq)) ∧
    (Accepted (.tenantGet x) s → 64 ≤ x.len → ∃ out : List Byte, out.length = 1 + (b.acct a).block.tail.length + 32 ∧
      exec (.tenantGet x) s = s.ok ((b.output x out).doneWith x.ref ((b.acct a).shown + 256 * (b.openBlk a).epoch))) ∧
    (Accepted (.clockGet x) s → exec (.clockGet x) s = s.ok (b.doneWith x.ref b.now b.pwr.timeInvalid)) ∧
    (Accepted (.keyStatus x) s → (b.issuer x.ref = 0xFF ∨ x.arg 24 1 = b.issuer x.ref) → x.arg 24 1 ≤ 0x41 → 224 ≤ x.len →
      exec (.keyStatus x) s =
        s.ok ((b.output x (b.keyStatus (x.arg 24 1))).doneWith x.ref (fieldAt (b.keyStatus (x.arg 24 1)) 4 4))) ∧
    (Accepted (.lineStatus x) s → 128 ≤ x.len → ∃ out : List Byte, out.length = 128 ∧
      exec (.lineStatus x) s = s.ok ((b.output x out).done x.ref stOK)) ∧
    (Accepted (.auxRead x) s → 288 ≤ x.len →
      (bitOf (x.arg 24 1) 0 = true → exec (.auxRead x) s = s.ok (b.auxTrigger (some x))) ∧
      (bitOf (x.arg 24 1) 0 = false → exec (.auxRead x) s = s.ok ((b.output x b.auxBlock).doneWith x.ref b.aux.runCount)))

/-- The ring opcodes and FENCE, each accepted (R819, R829–R831, R849, R857, R900, R902). RING_ADD of a supervisor's or tenant's ring with a free staging block:
a context that does not fit completes with BAD_ARG; one that fits makes the absent ring STOPPED. RING_START of a stopped supervisor
ring whose context fits starts it; RING_STOP moves a started command ring to STOPPING, without what it held; RING_DEL makes a stopped
ring or one in ERROR that no ring names absent. Each of these counts the host configuration epoch up. RING_QUERY writes the ring back and
then its block; RING_BLOCK_ASSIGN to the supervisor zeroes the doorbell page of a block without rings; BUF_REASSIGN zeroes the buffer; a
FENCE waits for the descriptors fetched before it. -/
def Obligations.RingOpcodes : Prop :=
  ∀ (s : State) (x : Desc),
    let b := s.dev.begun x
    let r := x.ringId
    (∀ bs, Accepted (.ringAdd x) s → x.input = .ok bs → b.poolFree ≠ 0 → 2 < r → r < b.ringCount → b.ringOwner r ≠ 0xFE →
      (b.ctxOk r (({} : Ring).load bs) (fieldAt bs 32 4) false = false → exec (.ringAdd x) s = s.ok (b.done x.ref stBadArg)) ∧
      (b.ctxOk r (({} : Ring).load bs) (fieldAt bs 32 4) false = true → (b.ring r).state = .absent → exec (.ringAdd x) s =
        let d := b.makeCacheRoom
        s.ok ((((d.setRing r { ({} : Ring).load bs with noIrq := bitOf (fieldAt bs 36 1) 0, cached := d.cacheFree }).ringState r
          .stopped).bump 0x47).done x.ref stOK))) ∧
    (∀ bs, Accepted (.ringStart x) s → x.input = .ok bs → b.poolFree ≠ 0 → 2 < r → r < b.ringCount → b.ringOwner r = 0xFF →
      b.ctxOk r ((b.ring r).load bs) 0 true = true → (b.ring r).state = .stopped → exec (.ringStart x) s =
        let g := (b.ring r).load bs
        let was := (b.ring r).cached
        let d := if was then b else b.makeCacheRoom
        let d := ((d.setRing r { g with bufIndex := g.devIndex, cached := was || d.cacheFree }).ringState r .started).bump 0x47
        s.ok ((d.drainOwed r d.eng.owedDone.length).done x.ref stOK)) ∧
    (Accepted (.ringStop x) s → 2 < r → r < b.ringCount → (b.ring r).state = .started → (b.ring r).ty = 0 → exec (.ringStop x) s =
      let d := ((b.updRing r fun g => { g with held := [], bufs := [] }).ringState r .stopping).bump 0x47
      s.ok ({ d with eng := { d.eng with stops := d.eng.stops ++ [(r, x.ref)] } } : Dev).settle) ∧
    (Accepted (.ringDel x) s → 2 < r → r < b.ringCount → (b.ring r).state = .stopped ∨ (b.ring r).state = .error →
      (∀ p ∈ b.eng.rings.cells, p.2.partner ≠ r) →
      exec (.ringDel x) s = s.ok (((b.ringState r .absent).bump 0x47).done x.ref stOK)) ∧
    (Accepted (.ringQuery x) s → r < b.ringCount → 48 ≤ x.len → ∃ out : List Byte, out.length = 48 ∧ exec (.ringQuery x) s =
      s.ok (((b.writeBack r).output x out).doneWith x.ref ((b.ring r).devIndex + 2 ^ 32 * stateCode (b.ring r).state))) ∧
    (Accepted (.ringBlockAssign x) s → 0 < x.arg 24 2 → 512 * x.arg 24 2 < b.ringCount → x.arg 26 1 = 0xFF →
      (∀ p ∈ b.eng.rings.cells, p.1 / 512 = x.arg 24 2 → p.2.state = .absent) → exec (.ringBlockAssign x) s =
        let d := b.emit (.hostZero (b.host.doorbase.toNat / 4096 * 4096 + 4096 * x.arg 24 2) 4096)
        s.ok ((({ d with eng := { d.eng with blocks := d.eng.blocks.set (x.arg 24 2) 0xFF } } : Dev).bump 0x47).done x.ref stOK)) ∧
    (Accepted (.bufReassign x) s → x.tenant = 0xFF → x.addr % 256 = 0 → x.len % 256 = 0 → 256 ≤ x.len → x.len ≤ 16777216 →
      exec (.bufReassign x) s = s.ok ((b.emit (.hostZero x.addr x.len)).done x.ref stOK)) ∧
    (Accepted (.fence x) s → exec (.fence x) s =
      let no := match b.eng.flights.find? fun f => f.ring = x.ref.ring && f.tag = x.tag && f.begun with
        | some f => f.no
        | none => b.eng.fetchNo
      s.ok ({ b with eng := { b.eng with
        fences := b.eng.fences ++ [⟨x.ref, x.ref.ring, no, bitOf (x.arg 24 1) 0, none⟩] } } : Dev).settle)
/-- The opcodes that write a group of the config store, accepted, with their input read and a staging block free (R515, R530, R532, R288,
R584, R666, R672). CAL_SET of a good block: with the seal closed it completes with SEALED, and with it open and nothing of the block pending
the sealed change is queued. TENANT_SET of a good block that leaves the sealed fields as they are, CONFIG_WRITE of a good group,
AUX_SEQ_SET and PULSE_ASSIGN with STORE, are queued as they were asked for; AUX_SEQ_SET without STORE, none being stored, becomes due
and completes; PULSE_ASSIGN without STORE waits for the tick and completes. KEY_LOAD of a tenant's or line key, the other slot
being empty: it completes with AUTH_FAIL where the key does not unwrap, and is queued where it does. PACKAGE_LOAD for any device and any
time is judged in the order of Table 14.12 from the operator key on. -/
def Obligations.StoreOpcodes : Prop :=
  ∀ (s : State) (x : Desc) (bs : List Byte), x.input = .ok bs → (s.dev.begun x).poolFree ≠ 0 →
    let b := s.dev.begun x
    let a := accountOf x.tenant
    (∀ kind i n, kind = x.arg 24 1 → i = x.arg 26 2 → Accepted (.calSet x) s → calSize kind i = some n → n ≤ x.len → kind < 3 →
      (if kind = 0 then b.cabinetOk bs else if kind = 1 then voltBlkOk i bs else chanBlkOk i bs) = true →
      let group := if kind = 2 then 0x03 else 0x02
      let key := if kind = 1 then 1 + i else i
      (b.cal.sealed = true → exec (.calSet x) s = s.ok (b.done x.ref stSealed)) ∧
      (b.cal.sealed = false → b.groupPending group key = false → exec (.calSet x) s =
        s.ok (b.queueGroup x.ref
          { group := group, key := key, block := calKept kind bs, cmd := some x.ref, sealChange := true }))) ∧
    (Accepted (.tenantSet x) s → 32 ≤ x.len → fieldAt bs 0 1 = a → b.blockOk a bs = true → bitOf (fieldAt bs 13 1) 0 = false →
      sameSealed (b.acct a).block bs = true → b.tenantPending a = false → (blkTarget bs ≠ 0 ∨ (b.acct a).shown = 1) →
      exec (.tenantSet x) s = s.ok (b.queueGroup x.ref
        { group := 0x04, key := a, block := blockKept a bs, cmd := some x.ref, sealChange := false, clear := false })) ∧
    (∀ g, g = x.arg 24 1 → Accepted (.configWrite x) s →
      (g = 0x05 → x.len = 32 → pqOk bs = true → exec (.configWrite x) s = s.ok (b.queueWrite x.ref g 0 (configKept g bs))) ∧
      (g = 0x08 → x.len = 64 → hostOk bs = true → exec (.configWrite x) s = s.ok (b.queueWrite x.ref g 0 (configKept g bs))) ∧
      (g = 0x09 → x.len = 64 → lineOk bs = true → exec (.configWrite x) s = s.ok (b.queueWrite x.ref g 0 (configKept g bs)))) ∧
    (Accepted (.auxSeqSet x) s → 40 ≤ x.len → seqOk bs x.len = true →
      (bitOf (seqZx bs) 1 = true → exec (.auxSeqSet x) s = s.ok (b.queueWrite x.ref 0x07 0 (seqKept bs))) ∧
      (bitOf (seqZx bs) 1 = false → b.slotsOf 0x07 = [] → exec (.auxSeqSet x) s = s.ok (({ b with store := { b.store with
        due := b.store.due ++ [{ group := 0x07, key := 0, block := seqKept bs, cmd := none }] } } : Dev).done x.ref stOK))) ∧
    (∀ o, Accepted (.pulseAssign x) s → 16 ≤ x.len → o = fieldAt bs 0 1 → o ≤ 7 → (plsAccount bs ≤ 64 ∨ plsAccount bs = 0xFF) →
      plsQuantity bs ≤ 15 → 1 ≤ plsConst bs → plsConst bs ≤ 16000000 → 2 ≤ plsWidth bs → plsWidth bs ≤ 250 →
      (plsCal bs = false ∨ b.cal.sealed = false) → (b.pulse o).pend = none → b.groupPending 0x06 o = false →
      (bitOf (fieldAt bs 3 1) 2 = true → exec (.pulseAssign x) s = s.ok (b.queueWrite x.ref 0x06 o (pulseKept bs true))) ∧
      (bitOf (fieldAt bs 3 1) 2 = false → exec (.pulseAssign x) s =
        s.ok ((b.updPulse o fun p => { p with pend := some (pulseKept bs true) }).done x.ref stOK))) ∧
    (∀ o, o = fieldAt bs 0 1 → Accepted (.keyLoad x) s → 96 ≤ x.len → o < 0x41 → fieldAt bs 1 1 = 0 →
      (b.keyPtr o).gen < fieldAt bs 4 4 → b.keyPending o = false → b.keys.ccmFailed = false → b.loadedKey o = none →
      (keyUnwrap (bs.take 96) = none → exec (.keyLoad x) s = s.ok (b.done x.ref stAuthFail)) ∧
      (∀ key, keyUnwrap (bs.take 96) = some key → exec (.keyLoad x) s = s.ok (b.queueGroup x.ref
        { group := 0x0B, key := 2 * o + b.inactiveSlot o, block := key, cmd := some x.ref, gen := fieldAt bs 4 4 }))) ∧
    (∀ p, p = bs.take (fieldAt bs 4 4) → Accepted (.packageLoad x) s → b.groupPending 0x0A 0 = false → 432 ≤ fieldAt bs 4 4 →
      fieldAt bs 4 4 ≤ 16352 → fieldAt bs 4 4 ≤ x.len → fieldAt bs 0 4 = 0x01564645 → fieldAt p 16 8 = 0 →
      b.keys.shaFailed = false → b.keys.ecdsaFailed = false → fieldAt p 24 8 = 0 → exec (.packageLoad x) s =
        s.ok (if b.packageAuth p = false then b.done x.ref stAuthFail
          else if fieldAt p 8 8 ≤ b.led.work.sealBlk.pkgVersion then b.done x.ref stEpochStale
          else if directoryOk p = false ∨ sectionsOk p = false then b.done x.ref stBadArg
          else b.queueGroup x.ref { group := 0x0A, key := 0, block := p, cmd := some x.ref, result := fieldAt p 8 8 }))

/-- The opcodes that act on the accounts, the keys, the clock, errors, tests and the line, accepted (R326, R626, R637, R645, R675, R695, R908,
R1111, R1116). TENANT_SUSPEND of a tenant in METERING or SENSOR-LOST and TENANT_RESUME of a suspended one wait for the tick; GRID_STATE_SET
takes an arrival; CREDIT_ADD of an old voucher completes with the credit as it is expected, and of a new one waits for the tick, as RELAY_SET
does; KEY_COMMIT of the loaded generation waits, and of another completes with STATE_MISMATCH; SNAPSHOT waits for its commit; CLOCK_SET
steps device time and completes with the time before; CAPTURE_ARM disarms, arms, or arms and triggers, and is refused with BUSY after a trigger;
ERROR_ACK acknowledges; RECOVER_CANDIDATE and RECOVER_FRESH of an account in FAULT-HOLD with the seal open wait for the tick; the tests begin,
each with what it does; LINE_SEND queues its frame, and LINE_JOIN listens anew. -/
def Obligations.ActingOpcodes : Prop :=
  ∀ (s : State) (x : Desc),
    let b := s.dev.begun x
    let a := accountOf x.tenant
    (Accepted (.tenantSuspend x) s → a ≠ 64 → b.tenantPending a = false → (b.acct a).shown = 2 ∨ (b.acct a).shown = 5 →
      exec (.tenantSuspend x) s =
        s.ok (({ b with accts := b.accts.set a { b.acct a with pend := some .suspend } } : Dev).done x.ref stOK)) ∧
    (Accepted (.tenantResume x) s → a ≠ 64 → b.tenantPending a = false → (b.acct a).shown = 3 → exec (.tenantResume x) s =
      s.ok (({ b with accts := b.accts.set a { b.acct a with pend := some .resume } } : Dev).done x.ref stOK)) ∧
    (Accepted (.gridStateSet x) s → x.arg 24 1 ≤ 3 →
      exec (.gridStateSet x) s = s.ok ((b.gridArrives (x.arg 24 1) 1).done x.ref stOK)) ∧
    (∀ mode v amount, mode = x.arg 24 1 → v = x.arg 28 4 → amount = asSigned 64 x.addr →
      Accepted (.creditAdd x) s → a ≠ 64 → blkPrepay (b.acct a).block ≠ 0 → mode ≤ 1 →
      (v ≤ (b.creditAhead a).2 →
        exec (.creditAdd x) s = s.ok (b.doneWith x.ref (twos 64 (b.creditAhead a).1) true)) ∧
      ((b.creditAhead a).2 < v → exec (.creditAdd x) s =
        s.ok ((b.setTariff { b.tariff with pend := b.tariff.pend ++ [.credit a amount (mode = 1) v] }).doneWith x.ref
          (twos 64 (clampI (-(2 ^ 63)) (2 ^ 63 - 1) (if mode = 1 then amount else (b.creditAhead a).1 + amount)))))) ∧
    (Accepted (.relaySet x) s → a ≠ 64 → blkLink (b.acct a).block ≠ 0xFF → x.arg 24 1 ≤ 2 → exec (.relaySet x) s =
      s.ok ((b.setTariff { b.tariff with pend := b.tariff.pend ++ [.relay a (x.arg 24 1)] }).done x.ref stOK)) ∧
    (∀ k, Accepted (.keyCommit x) s → x.arg 24 1 ≤ 0x41 → b.loadedKey (x.arg 24 1) = some k → b.keyPending (x.arg 24 1) = false →
      (k.gen ≠ x.arg 28 4 → exec (.keyCommit x) s = s.ok (b.done x.ref stMismatch)) ∧
      (k.gen = x.arg 28 4 → exec (.keyCommit x) s = s.ok { b with keys := { b.keys with
        pend := b.keys.pend ++ [⟨x.arg 24 1, b.inactiveSlot (x.arg 24 1), x.arg 28 4, some x.ref, none⟩] } })) ∧
    (Accepted (.snapshot x) s → 288 ≤ x.len → b.keys.snaps.length < 4 → b.keys.shaFailed = false → b.keys.ecdsaFailed = false →
      b.drbgReady = true → exec (.snapshot x) s =
        s.ok { b with keys := { b.keys with snaps := b.keys.snaps ++ [{ cmd := x, account := a }] } }) ∧
    (Accepted (.clockSet x) s → second ≤ x.addr →
      exec (.clockSet x) s = s.ok ((b.stepTime (x.addr % 2 ^ 64) 0).doneWith x.ref b.now)) ∧
    (∀ bs, Accepted (.captureArm x) s → x.input = .ok bs → b.poolFree ≠ 0 → 32 ≤ x.len → armOk bs = true →
      let d := b.setCap { b.pq.cap with arm := some (bs.take 16), store := [] }
      (b.pq.cap.trig.isSome = true → exec (.captureArm x) s = s.ok (b.done x.ref stBusy)) ∧
      (b.pq.cap.trig = none → fieldAt bs 0 1 = 0 →
        exec (.captureArm x) s = s.ok ((b.setCap { b.pq.cap with arm := none, store := [] }).done x.ref stOK)) ∧
      (b.pq.cap.trig = none → fieldAt bs 0 1 ≠ 0 → fieldAt bs 1 1 ≠ 0 → exec (.captureArm x) s = s.ok (d.done x.ref stOK)) ∧
      (b.pq.cap.trig = none → fieldAt bs 0 1 ≠ 0 → fieldAt bs 1 1 = 0 → exec (.captureArm x) s =
        s.ok ((d.captureTrig 0 0 d.up).done x.ref stOK))) ∧
    (∀ n, n = x.arg 28 4 → Accepted (.errorAck x) s → x.arg 24 1 = 0 → n < b.recs.seq.get (256 * 0x70 + 0xFF) 0 → exec (.errorAck x) s =
      s.ok (({ b with err := { b.err with
        unackList := b.err.unackList.erase n, ackDue := b.err.ackDue || b.err.latchSeq = some n } } : Dev).done x.ref stOK)) ∧
    (Accepted (.recoverCandidate x) s → x.arg 26 1 ≤ 64 → x.arg 25 1 ≤ 3 → b.cal.sealed = false → b.faultHold (x.arg 26 1) = true →
      (b.led.work.recovery.get (x.arg 25 1) {}).account = x.arg 26 1 → (b.acct (x.arg 26 1)).recover = none →
      exec (.recoverCandidate x) s =
        let c := { b.acct (x.arg 26 1) with recover := some (.candidate (x.arg 25 1)) }
        s.ok (({ b with accts := b.accts.set (x.arg 26 1) c } : Dev).done x.ref stOK)) ∧
    (Accepted (.recoverFresh x) s → x.arg 26 1 ≤ 64 → b.cal.sealed = false → b.faultHold (x.arg 26 1) = true →
      (b.acct (x.arg 26 1)).recover = none → exec (.recoverFresh x) s = s.ok (({ b with
        accts := b.accts.set (x.arg 26 1) { b.acct (x.arg 26 1) with recover := some .fresh } } : Dev).done x.ref stOK)) ∧
    (∀ (d : Dev) (t : SelfTest), b.test = none →
      t = { cmd := x.ref, test := x.arg 24 1, target := x.arg 25 1, duration := x.arg 26 2, since := b.up } →
      d = { b with test := some t } →
      (Accepted (.linkZero x) s → x.arg 24 1 = 0x01 → x.arg 25 1 ≤ 15 → 1 ≤ x.arg 26 2 → x.arg 26 2 ≤ 60 →
        b.linkTestable (x.arg 25 1) = true →
        exec (.linkZero x) s = s.ok (d.setLink (x.arg 25 1) { d.link (x.arg 25 1) with cmdTest := 1 })) ∧
      (Accepted (.linkWalk x) s → x.arg 24 1 = 0x02 → x.arg 25 1 ≤ 15 → x.arg 26 2 = 0 → b.linkTestable (x.arg 25 1) = true →
        exec (.linkWalk x) s = s.ok (d.setLink (x.arg 25 1) { d.link (x.arg 25 1) with cmdTest := 2 })) ∧
      (Accepted (.voltB x) s → x.arg 24 1 = 0x10 → x.arg 25 1 = 0 → 1 ≤ x.arg 26 2 → x.arg 26 2 ≤ 600 → b.cal.sealed = false →
        b.volt.serving = 0 → b.volt.healthB.good = true → exec (.voltB x) s = s.ok (d.serve 1).refreshFrame) ∧
      (Accepted (.refTest x) s → x.arg 24 1 = 0x11 → x.arg 25 1 = 0 → x.arg 26 2 = 0 → b.volt.test = none →
        b.store.factoryLost = false → exec (.refTest x) s = s.ok (d.startTest 3 (some x.ref))) ∧
      (Accepted (.crypto x) s → x.arg 24 1 = 0x20 → x.arg 25 1 = 0 → x.arg 26 2 = 0 → exec (.crypto x) s = s.ok d)) ∧
    (∀ bs ty fl, Accepted (.lineSend x) s → x.input = .ok bs → b.poolFree ≠ 0 → ty = x.arg 26 1 → fl = x.arg 27 1 →
      (0x20 ≤ ty ∧ ty ≤ 0x7F ∨ ty = 0x10 ∧ b.lnet.role = 2) → x.len ≤ 194 → x.arg 24 2 ≠ 0 →
      (bitOf fl 1 = true → x.arg 24 2 ≠ 0xFFFF) → b.lnet.role ≠ 0 → (bitOf fl 0 = true → b.lineExhausted = false) →
      (b.lnet.queue.filter fun f => f.role = 0 && f.cmd.isSome).length < 8 → exec (.lineSend x) s =
        let f : TxLine :=
          { dest := x.arg 24 2, src := 0, ftype := ty, secured := bitOf fl 0, ackReq := bitOf fl 1
            payload := exactly x.len bs, cmd := some x.ref, handed := b.up }
        s.ok (b.setNet { b.lnet with queue := b.lnet.queue ++ [f] })) ∧
    (Accepted (.lineJoin x) s → x.arg 24 1 ≤ 1 → (b.activeKey 0x40).isSome = true → exec (.lineJoin x) s =
      let d := if b.lnet.role = 0 then b else b.postLine 0x07 [⟨16, 1, 3⟩]
      let d := (d.setNet { d.lnet with w := 64 }).enterListen (if b.pwr.hostmode then x.arg 24 1 else 0) (x.arg 26 2) none false
      s.ok ((d.postLine 0x01 []).done x.ref stOK))
/-! ### The pod bus and the target port (chapter 20) -/

/-- The pod bus (R961–R971, R974–R983). A legal POD_XFER waits its turn on the bus; while a line-up runs it completes with BUSY, and on a stuck bus with nothing
moved. POD_LINEUP begins a line-up on a bus that is free, sets the bus and completes where it has NOROLL and SET, and on a stuck bus
completes with END = BUS. POD_XFER_END gives the transaction at the head its outcome, ARB_STOP_LOSS with its error, once its bits are
clocked or, for a busy bus, 100 ms have passed; STRETCH_LIMIT ends it with outcome 7, or breaks a line-up off. A line low for LOW_MS
makes the bus stuck. The recovery that reads SDA high within nine clocks is recorded and ends it; after nine lows the bus stays stuck. A
line-up that ended on the bus is over once its pods are marked: the addresses in use and the link of each pod stand, and the accounts and the
boot image area are as before. -/
def Obligations.PodBus : Prop :=
  ∀ (s : State),
    (∀ x bs, x.input = .ok bs → Accepted (.podXfer x) s → (s.dev.begun x).poolFree ≠ 0 → 0x40 ≤ xferTarget x → xferTarget x ≤ 0x4F →
      xferWrite x ≤ 256 → xferRead x ≤ 256 → xferWrite x + xferRead x ≠ 0 → xferWrite x + xferRead x ≤ x.len →
      let b := s.dev.begun x
      (b.tw.lineup.isSome = true → exec (.podXfer x) s = s.ok (b.done x.ref stBusy)) ∧
      (∀ sda t, b.tw.lineup = none → b.tw.stuck = some (sda, t) →
        exec (.podXfer x) s = s.ok (b.xferFail x (if sda then 6 else 5) 0)) ∧
      (b.tw.lineup = none → b.tw.stuck = none →
        exec (.podXfer x) s = s.ok (b.setTw { b.tw with xfers := b.tw.xfers ++ [(x, b.up)] }))) ∧
    (∀ x, Accepted (.podLineup x) s → (s.dev.begun x).tw.lineup = none →
      let b := s.dev.begun x
      (x.arg 24 1 = 0 → b.tw.stuck = none →
        exec (.podLineup x) s = s.ok (b.setTw { b.tw with lineup := some { cmd := some x.ref, flags := 0, since := b.up } })) ∧
      (x.arg 24 1 = 0 → b.tw.stuck.isSome = true → exec (.podLineup x) s = s.ok (b.lineupStuck (some x.ref))) ∧
      (x.arg 24 1 = 6 → x.arg 25 1 ≤ 2 → 1 ≤ x.arg 26 1 → x.arg 26 1 ≤ 25 → x.arg 26 1 < x.arg 27 1 → x.arg 27 1 ≤ 64 →
        exec (.podLineup x) s = s.ok ((b.setBus (x.arg 25 1) (x.arg 26 1) (x.arg 27 1)).done x.ref stOK))) ∧
    (s.dev.units = true → s.dev.tw.stuck = none →
      (∀ x t rest e, s.dev.tw.xfers = (x, t) :: rest → e.fits x = true →
        (e = .busBusy → s.dev.since t (ms 100) = true) →
        (∀ read, e = .done read → s.dev.since t (s.dev.tw.bits (xferClocks x)) = true) →
        exec (.podXferEnd e) s =
          let o := e.outcome x
          let d := s.dev.drive o.2.2.2
          s.ok ((if o.1 = 4 then d.twmError 0x0703 4 (o.2.1 + o.2.2.1.length) else d).endXfer o.1 o.2.1 o.2.2.1)) ∧
      (∀ x t rest micros moved data, s.dev.tw.xfers = (x, t) :: rest → 1000 * s.dev.tw.stretchMs < micros →
        s.dev.since t (us micros) = true → moved ≤ xferWrite x → data.length ≤ xferRead x → exec (.stretchLimit micros moved data) s =
          s.ok ((s.dev.drive (xferParts x moved data.length (!data.isEmpty))).endXfer 7 moved data)) ∧
      (∀ micros moved data, s.dev.tw.xfers = [] → 1000 * s.dev.tw.stretchMs < micros →
        exec (.stretchLimit micros moved data) s = s.ok s.dev.breakLineup) ∧
      (∀ micros moved data, s.dev.tw.xfers = [] → 1000 * s.dev.tw.lowMs ≤ micros →
        let broken := s.dev.tw.lineup.map fun l => { l with broken := true }
        (Runs (.twmSclStuck micros moved data) s fun t =>
          t.dev.tw = { s.dev.tw with stuck := some (false, s.dev.up), recovered := none, lineup := broken }) ∧
        (Runs (.twmSdaStuck micros true moved data) s fun t =>
          t.dev.tw = { s.dev.tw with stuck := some (true, s.dev.up), recovered := none, lineup := broken }))) ∧
    (∀ t sda micros, s.dev.tw.stuck = some (true, t) → s.dev.tw.recovered = none → s.dev.units = true →
      (∀ n, sda = List.replicate n false ++ [true] → n ≤ 8 → exec (.busRecovery micros sda) s =
        s.ok (((s.dev.setTw { s.dev.tw with stuck := none, recovered := none }).drive [.clocks (n + 1)]).postPod 0x23 0xFF 0xFFFF
          [⟨5, 1, 1⟩, ⟨20, 4, toMicros (s.dev.up - t)⟩])) ∧
      (sda = List.replicate 9 false → exec (.busRecovery micros sda) s =
        s.ok ((s.dev.setTw { s.dev.tw with recovered := some s.dev.up }).drive [.clocks 9]))) ∧
    (∀ r l, s.dev.tw.lineup = some l → l.broken = false → s.dev.units = true → s.dev.tw.xfers = [] →
      let b := lineupBook (bitOf l.flags 0) r.passes
      let pods := s.dev.toMap b
      b.ending.isSome = true → r.marks.length = pods.length →
      s.dev.since l.since (s.dev.tw.bits (b.clocks + 54 * r.marks.length) + ms r.marks.length) = true → Runs (.lineupEnd r) s fun u =>
        u.dev.tw = { s.dev.tw with
          lineup := none, addressed := b.inUse
          map := (pods.zip (r.marks.map notedLinks)).foldl (fun m p => m.set p.1.2.1 (mappedLink p.2)) s.dev.tw.map } ∧
        u.dev.accts = s.dev.accts ∧ u.boot = s.boot)

/-- The target port (R984–R990). It answers its own address only, and in OFF none. While it sleeps, or is busy, it refuses, and a sleeping port
wakes; awake and free it does the parts of the transaction in their order, an address alone counting as a write of no byte; in BACKUP it
refuses. In DOZE and HOLD it sleeps after 10 ms without a transaction. -/
def Obligations.TargetPort : Prop :=
  ∀ s : State,
    (∀ addr parts, addr ≠ s.dev.twtAddress ∨ s.dev.pwr.pstate = .off → exec (.twtAddress addr parts) s = s.stored s.dev) ∧
    (∀ parts, s.dev.pwr.pstate = .backup →
      exec (.twtAddress s.dev.twtAddress parts) s = s.stored (s.dev.emit (.twtAnswer [false] []))) ∧
    (∀ parts, s.dev.pwr.pstate = .doze → s.dev.tw.asleep = true → Runs (.twtAddress s.dev.twtAddress parts) s fun t =>
      t.dev.tw = { s.dev.tw with lastUse := s.dev.up, asleep := false, wakeAt := s.dev.up + us 50, staged := [] } ∧
      t.dev.out = .twtAnswer [false] [] :: s.dev.out ∧ t.dev.host = s.dev.host ∧ t.dev.led = s.dev.led) ∧
    (∀ parts, s.dev.pwr.pstate = .run → s.dev.twtBusy = true → exec (.twtAddress s.dev.twtAddress parts) s =
      s.stored ((s.dev.setTw { s.dev.tw with lastUse := s.dev.up, asleep := false, staged := [] }).emit (.twtAnswer [false] []))) ∧
    (∀ parts, s.dev.pwr.pstate = .run → s.dev.twtBusy = false → exec (.twtAddress s.dev.twtAddress parts) s =
      let d := s.dev.setTw { s.dev.tw with lastUse := s.dev.up, asleep := false, staged := [] }
      let q := twtParts d none (if parts.isEmpty then [.write []] else parts)
      s.stored ((q.1.setTw { q.1.tw with staged := [] }).emit (.twtAnswer q.2.1 q.2.2))) ∧
    (s.dev.pwr.pstate = .doze ∨ s.dev.pwr.pstate = .hold → s.dev.since s.dev.tw.lastUse (ms 10) = true →
      exec .twtSleep s = s.ok (s.dev.setTw { s.dev.tw with asleep := true }))
/-! ### The line network (chapters 21 and 22) -/

/-- The line's receiver and transmitter (R1011, R1016–R1025, R1034, R1040), where reception is not stopped: MAIN takes a detected frame when it holds none; one less
than 6 dB above the frame held is counted and otherwise ignored, one at least 6 dB above captures MAIN; a frame fully received goes
to the MAC, unless two wait there; after 10 s without a detection the gain rises by one step, up to 7. A slot start offers the
frame whose turn it is; a frame's end switches the line off and judges its load; a short ends the frame at once, be it the current limit or a
load below 20 Ω over the SSD. Levels are in quarter dBµV. -/
def Obligations.LineFrames : Prop :=
  ∀ s : State, s.dev.lphy.stopped = false →
    (s.dev.lineHears = true →
      (∀ h : Heard, h.detects = true →
        (s.dev.lphy.rx = none → exec (.frameDetect h) s = s.ok (s.dev.takeFrame h)) ∧
        (∀ r, s.dev.lphy.rx = some r → h.level < r.level + 24 → Runs (.frameDetect h) s fun t =>
          t.dev.lphy = { s.dev.lphy with lastLevel := h.level, counts := s.dev.lphy.counts.upd 24 0 fun n => sat32 (n + 1) } ∧
          t.dev.lnet = { s.dev.lnet with gapNoise := true } ∧ t.dev.out = s.dev.out) ∧
        (∀ r part, s.dev.lphy.rx = some r → r.level + 24 ≤ h.level → part.length < 32 → exec (.captured h part) s =
          let d := (s.dev.wake.takeFrame h).phyCount 20
          let d := d.setNet { d.lnet with gapNoise := true }
          s.ok (d.postRx 1 [] r.level d.lphy.rate 0 [] d.now))) ∧
      (∀ bits r, s.dev.lphy.rx = some r → bits.length = 304 → s.dev.since r.start (clocks (336 * s.dev.lphy.bitClocks)) = true →
        let l := s.dev.lphy
        let psdu := r.bytes bits
        let d := ((s.dev.setPhy { l with rx := none, gain := if l.agcFixed then l.gain else gainFor r.level }).phyCount 16).lineApply.wake
        (2 ≤ d.lnet.inbox.length → exec (.phyFrameReceived bits) s = s.ok (d.phyCount 36)) ∧
        (d.lnet.inbox.length < 2 → psduCrc psdu = fieldAt psdu 36 2 →
          exec (.phyFrameReceived bits) s = s.ok (d.takeSegment psdu r l.rate))) ∧
      (s.dev.lphy.agcFixed = false → s.dev.lphy.rx = none → s.dev.since s.dev.lphy.quietSince (10 * second) = true →
        exec .agcRise s = s.ok (s.dev.setPhy { s.dev.lphy with gain := min 7 (s.dev.lphy.gain + 1), quietSince := s.dev.up }))) ∧
    (∀ p, s.dev.macRuns = true → s.dev.lphy.tx = none → s.dev.slotNear (us 10) = some p →
      let d := (s.dev.setPhy { s.dev.lphy with slotUsed := some p }).lineApply.beaconSlot.claimSlot.feedTunnel
      (d.lnet.pick = none → exec .txSlotStart s = s.ok d) ∧
      (∀ ahead f, d.lnet.pick = some (ahead, f) → exec .txSlotStart s = s.ok (d.offerSlot ahead f))) ∧
    (∀ x, s.dev.lphy.tx = some x → s.dev.units = true →
      (exec (.txShort none) s = s.ok (s.dev.txShorted x)) ∧
      (∀ ohms, ohms < 20 → s.dev.since x.since (clocks (32 * x.clocks)) = true →
        exec (.txShort (some ohms)) s = s.ok ((s.dev.setPhy { s.dev.lphy with loadOhms := ohms }).txShorted x)) ∧
      (∀ ohms, 20 ≤ ohms → s.dev.since x.since (clocks (336 * x.clocks)) = true → exec (.txFrameEnd ohms) s =
        let d := ((s.dev.setPhy { s.dev.lphy with tx := none, txEnd := some s.dev.up }).phyCount 40).emit .lineOff
        s.ok ((d.judgeLoad ohms).lineApply.segmentSent x)))

/-- The frames the MAC acts on (R1052–R1076, R1090), each taken from the front of those accepted: a beacon or a CLAIM from a lower ID
makes Captain merge, and a CLAIM from one a claimant give way; a JOIN_REQ is answered by Captain only, which refuses a node it has no
address for and takes one it has; JOIN_ACK is only learnt by a node that does not join, and makes a joining one it names a member; an ACK
that matches the frame awaited ends it; KEYREQ is posted by Captain; tunnel parts and application frames are handed on. -/
def Obligations.LineMessages : Prop :=
  ∀ (s : State) (f : RxLine) (rest : List RxLine), s.dev.lnet.inbox = f :: rest → s.dev.macRuns = true →
    let d := (s.dev.setNet { s.dev.lnet with inbox := rest }).wake
    (f.ftype = 0x01 →
      let b := d.setNet { d.lnet with lastBeacon := d.now }
      (b.lnet.role = 2 → exec .beacon s = s.ok (if f.srcId < ownId then b.startMerge f.srcId else b)) ∧
      (b.lnet.role = 1 → f.net = b.lnet.netId → f.srcId = b.lnet.captainId → exec .beacon s = s.ok (b.beaconMember f)) ∧
      (b.lnet.role = 0 → b.lnet.kstate = 1 → exec .beacon s = s.ok (b.beaconListen f))) ∧
    (f.ftype = 0x02 →
      let b := d.setNet { d.lnet with gapClaim := true }
      (b.lnet.role = 2 → exec .claim s = s.ok (if f.srcId < ownId then b.startMerge f.srcId else b)) ∧
      (b.lnet.role = 0 → b.lnet.kstate = 2 → exec .claim s = s.ok (if f.srcId < ownId then b.claimLost f.srcId else b)) ∧
      (b.lnet.role = 0 → b.lnet.kstate = 3 → exec .claim s = s.ok b)) ∧
    (f.ftype = 0x03 →
      (d.lnet.role ≠ 2 → exec .joinReq s = s.ok d) ∧
      (d.lnet.role = 2 → d.lineExhausted = false → fieldAt f.payload 0 1 = 0 →
        let reply : Option Nat → TxLine := fun a =>
          { dest := 0xFFFF, src := 0, ftype := 4, secured := true, ackReq := false, role := 2, handed := d.up
            payload := layout 15 [⟨0, 8, f.srcId⟩, ⟨8, 2, a.getD 0⟩, ⟨10, 1, b2n a.isNone⟩, ⟨11, 4, d.lnet.rosterEpoch⟩] }
        (d.lnet.addressFor f.srcId 0 = none →
          exec .joinReq s = s.ok (d.setNet { d.lnet with urgent := d.lnet.urgent ++ [reply none] })) ∧
        (∀ a, d.lnet.addressFor f.srcId 0 = some a → exec .joinReq s =
          let r := d.lnet.roster.set a f.srcId
          let l := { d.lnet with urgent := d.lnet.urgent ++ [reply (some a)] }
          let l := { l with roster := r, table := l.table.set a f.srcId, nodes := (r.keys.filter fun x => x ≤ 0x20).length }
          s.ok ((d.setNet l).postLine 0x09 [⟨0, 8, f.srcId⟩, ⟨8, 2, a⟩, ⟨16, 1, 0⟩])))) ∧
    (f.ftype = 0x04 →
      (d.lnet.kstate ≠ 3 →
        (fieldAt f.payload 10 1 = 0 → exec .joinAck s =
          s.ok (d.setNet { d.lnet with table := d.lnet.table.set (fieldAt f.payload 8 2) (fieldAt f.payload 0 8) })) ∧
        (fieldAt f.payload 10 1 ≠ 0 → exec .joinAck s = s.ok d)) ∧
      (d.lnet.kstate = 3 → fieldAt f.payload 0 8 = ownId → fieldAt f.payload 10 1 = 0 → Runs .joinAck s fun t =>
        t.dev.lnet.role = 1 ∧ t.dev.lnet.kstate = 4 ∧ t.dev.lnet.addr = fieldAt f.payload 8 2 ∧ t.dev.lnet.netId = d.lnet.joinNet ∧
        t.dev.lnet.captainId = d.lnet.joinId ∧ t.dev.lnet.rosterEpoch = fieldAt f.payload 11 4 ∧ t.dev.lnet.beaconAt = d.up)) ∧
    (f.ftype = 0x05 → ∀ q t, d.lnet.queue = q :: t → q.ackFrom.isSome = true → q.dest = f.src →
      (q.xid = fieldAt f.payload 0 1 → q.counter = fieldAt f.payload 1 4 → exec .ack s = s.ok (d.frameOver false q true)) ∧
      (q.xid ≠ fieldAt f.payload 0 1 → exec .ack s = s.ok d)) ∧
    (f.ftype = 0x06 → d.lnet.role = 2 → exec .keyreq s =
      s.ok (d.postLine 0x0A [⟨0, 8, f.srcId⟩, ⟨8, 2, f.src⟩, ⟨12, 4, fieldAt f.payload 0 4⟩])) ∧
    (f.ftype = 0x10 → d.pwr.hostmode = false → d.has 15 = true → d.lnet.role = 1 → 6 ≤ f.payload.length →
      fieldAt f.payload 0 2 < 0x8000 → fieldAt f.payload 4 1 = 0 → exec .tunnelCmd s =
        s.ok (d.tunPartIn (fieldAt f.payload 0 2) (fieldAt f.payload 2 1) (fieldAt f.payload 3 1) (f.payload.drop 5))) ∧
    (f.ftype = 0x11 → d.lnet.role = 2 → exec .tunnelRec s = s.ok (d.deliver f)) ∧
    (0x20 ≤ f.ftype → f.ftype ≤ 0x7F → exec .app s = s.ok (d.deliver f))

/-- The MAC's times (R1055–R1078, R1082): a listener claims after 6 s; a claimant is Captain 2 s after its third CLAIM unless all three
collided; a beacon is due once in an even second; a member leaves after 30 s without a beacon; a frame is
sent again 1 s after it went unanswered, with CW doubled, and given up after its retries; a KEYREQ and a JOIN_REQ go again after 60 s, and a
message not completed in 60 s is discarded; so is a line frame whose next segment does not come in 2 s. LINE_SUMMARY in RUN posts W and NODES
every 15 minutes. -/
def Obligations.LineTimers : Prop :=
  ∀ s : State,
    (s.dev.macRuns = true →
      (s.dev.lnet.kstate = 1 → s.dev.lnet.mode = 1 → s.dev.since s.dev.lnet.listenSince (6 * second) = true →
        exec .listenTimeout s = s.ok s.dev.enterClaiming) ∧
      (∀ t, s.dev.lnet.claimEnd = some t → s.dev.lnet.kstate = 2 → 3 ≤ s.dev.lnet.claims → s.dev.since t (2 * second) = true →
        s.dev.lnet.judgeGap.collided < 3 → Runs .captainTimeout s fun u =>
          u.dev.lnet.kstate = 4 ∧ u.dev.lnet.role = 2 ∧ u.dev.lnet.w = 64 ∧ u.dev.lnet.captainId = ownId ∧
          u.dev.led = s.dev.led ∧ u.boot = s.boot) ∧
      (s.dev.lnet.role = 2 → s.dev.lineExhausted = false → s.dev.lnet.beaconSec ≠ some (s.dev.now / 2 ^ 31) →
        s.dev.lnet.dissolve = none → exec .beaconDue s =
          let q := s.dev.lfsrDraw 8
          s.ok (q.1.setNet { q.1.lnet with beaconSec := some (q.1.now / 2 ^ 31), beaconWait := some q.2 })) ∧
      (s.dev.lnet.role = 1 → s.dev.since s.dev.lnet.beaconAt (30 * second) = true →
        exec .beaconLoss s = s.ok (s.dev.wake.leave 0 none false)) ∧
      (∀ f q t, s.dev.lnet.queue = f :: q → f.ackFrom = some t → s.dev.since t second = true →
        (f.tries < s.dev.lineRetries → exec .ackTimeout s =
          let l := { s.dev.lnet with cw := min 64 (2 * s.dev.curCw) }
          s.ok ((s.dev.setNet (l.putHead false { f with next := 0, tries := f.tries + 1, wait := none, ackFrom := none })).netCount 100)) ∧
        (s.dev.lineRetries ≤ f.tries → exec .ackTimeout s = s.ok ((s.dev.netCount 104).frameOver false f false))) ∧
      (s.dev.lineExhausted = true → s.dev.lnet.exhausted = true →
        (∀ t, s.dev.lnet.keyreqAt = some t → s.dev.since t (60 * second) = true) →
        exec .keyreqRepeat s = s.ok s.dev.sendKeyreq) ∧
      (∀ t, s.dev.lnet.refusedAt = some t → s.dev.lnet.kstate = 3 → s.dev.since t (60 * second) = true →
        exec .joinRetry s = s.ok (s.dev.setNet { s.dev.lnet with refusedAt := none }).queueJoin) ∧
      (∀ tid j, s.dev.lnet.tunJoin.find? (fun j => j.tid = tid) = some j → s.dev.since j.last (60 * second) = true →
        exec (.tunnelTimeout tid) s = s.ok (s.dev.setNet { s.dev.lnet with tunJoin := s.dev.lnet.tunJoin.erase j })) ∧
      (∀ src j, s.dev.lnet.rx.get? src = some j → s.dev.since j.ended (2 * second) = true →
        exec (.segmentTimeout src) s = s.ok (s.dev.wake.loseJoin src))) ∧
    (s.dev.pwr.pstate = .run → s.dev.serving = true → s.dev.quarterDue 0x41 = true → exec .lineSummary s =
      s.ok ((s.dev.postLine 0x0C [⟨10, 2, s.dev.lnet.w⟩, ⟨16, 1, s.dev.lnet.nodes⟩]).quarter 0x41))
end

