-- ==== Sys2Proof/Laws/Memory.lean ====
section
/-!
SUPPORT. Laws/Memory.lean: the laws of the boot image area: read after write, and every operation keeps the canonical form.
-/
namespace Sys2Proof.Machine

/-- A canonical area stays canonical when the bound on its first address is lowered. -/
theorem Memory.wfFrom_mono {lo lo' : Nat} (h : lo' ≤ lo) :
    ∀ {m : List Host.Cell}, Memory.wfFrom lo m = true → Memory.wfFrom lo' m = true
  | [], _ => rfl
  | c :: t, hm => by
    simp only [Memory.wfFrom, Bool.and_eq_true, decide_eq_true_eq] at hm ⊢
    exact ⟨⟨by omega, hm.1.2⟩, hm.2⟩

/-- Writing a byte keeps the canonical form above a bound that the address respects. -/
theorem wfFrom_putCell {a lo : Nat} {b : Byte} (h : lo ≤ a) :
    ∀ {m : List Host.Cell}, Memory.wfFrom lo m = true → Memory.wfFrom lo (putCell a b m) = true
  | [], _ => by
    unfold putCell
    split <;> simp_all [Memory.wfFrom]
  | c :: t, hm => by
    simp only [Memory.wfFrom, Bool.and_eq_true, decide_eq_true_eq] at hm
    unfold putCell
    split
    · split
      · simp_all [Memory.wfFrom]
      · simp_all [Memory.wfFrom]
    · split
      · split
        · exact Memory.wfFrom_mono (by omega) hm.2
        · simp_all [Memory.wfFrom]
      · simp only [Memory.wfFrom, Bool.and_eq_true, decide_eq_true_eq]
        exact ⟨hm.1, wfFrom_putCell (by omega) hm.2⟩

/-- Writing a byte keeps the canonical form. -/
theorem wf_putCell {a : Nat} {b : Byte} {m : List Host.Cell} (h : Memory.wf m = true) : Memory.wf (putCell a b m) = true :=
  wfFrom_putCell (Nat.zero_le a) h

/-- Writing any bytes keeps the canonical form. -/
theorem wf_storeCells (l : List Host.Cell) {m : List Host.Cell} (h : Memory.wf m = true) : Memory.wf (storeCells l m) = true := by
  induction l generalizing m with
  | nil => exact h
  | cons c t ih => exact ih (wf_putCell h)

/-- An address below every listed one reads 0. -/
theorem getCell_below {a : Nat} : ∀ {m : List Host.Cell} {lo : Nat}, a < lo → Memory.wfFrom lo m = true → getCell a m = 0#8
  | [], _, _, _ => rfl
  | c :: t, lo, h, hm => by
    simp only [Memory.wfFrom, Bool.and_eq_true, decide_eq_true_eq] at hm
    unfold getCell
    rw [if_neg (by omega)]
    exact getCell_below (lo := c.1 + 1) (by omega) hm.2

/-- A byte just written reads back. -/
theorem getCell_putCell_same {a : Nat} {b : Byte} :
    ∀ {m : List Host.Cell} {lo : Nat}, Memory.wfFrom lo m = true → getCell a (putCell a b m) = b
  | [], _, _ => by
    unfold putCell
    split <;> simp_all [getCell]
  | c :: t, lo, hm => by
    have hc := hm
    simp only [Memory.wfFrom, Bool.and_eq_true, decide_eq_true_eq] at hm
    unfold putCell
    split
    · next h =>
      split
      · next hb =>
        rw [hb]
        unfold getCell
        rw [if_neg (by omega)]
        exact getCell_below (lo := c.1 + 1) (by omega) hm.2
      · simp [getCell]
    · split
      · next h =>
        split
        · next hb =>
          rw [hb]
          exact getCell_below (lo := c.1 + 1) (by omega) hm.2
        · simp [getCell]
      · next h1 h2 =>
        unfold getCell
        rw [if_neg (fun h => h2 h.symm)]
        exact getCell_putCell_same hm.2

/-- A write leaves every other address as it reads. -/
theorem getCell_putCell_other {a x : Nat} {b : Byte} (hx : x ≠ a) : ∀ {m : List Host.Cell}, getCell x (putCell a b m) = getCell x m
  | [] => by
    unfold putCell
    split <;> simp [getCell, Ne.symm hx]
  | c :: t => by
    unfold putCell
    split
    · split
      · rfl
      · simp [getCell, Ne.symm hx]
    · split
      · next h =>
        split
        · conv => rhs; unfold getCell
          rw [if_neg (fun e => hx (e.symm.trans h.symm))]
        · simp [getCell, Ne.symm hx, ← h]
      · simp only [getCell]
        rw [getCell_putCell_other hx]

end Sys2Proof.Machine
end

