-- ==== Sys2Proof/Laws/State.lean ====
section
/-!
SUPPORT. Laws/State.lean: what each named update of the device leaves of each field, one lemma per field per update.
-/
namespace Sys2Proof.Machine

/-! ### The next state -/

theorem State.ok_eq (s : State) (d : Dev) : s.ok d = .next { s with dev := { d with stores := [] } } := rfl
/-- Where nothing changes and no byte is on its way, the next state is the same. -/
theorem State.ok_same {s : State} (h : s.dev.stores = []) : s.ok s.dev = .next s := by
  rcases s with ⟨d, b, p⟩
  rcases d
  cases h
  rfl
theorem State.stored_eq (s : State) (d : Dev) :
    s.stored d = .next { s with dev := { d with stores := [] }, boot := storeCells d.stores s.boot } := rfl
theorem State.fresh_eq (s : State) (d : Dev) : s.fresh d = .next { s with dev := { d with stores := [] }, boot := [] } := rfl

/-! ### Dev.emit -/

@[simp] theorem Dev.emit_pwr (d : Dev) (o : Out) : (d.emit o).pwr = d.pwr := rfl
@[simp] theorem Dev.emit_host (d : Dev) (o : Out) : (d.emit o).host = d.host := rfl
@[simp] theorem Dev.emit_eng (d : Dev) (o : Out) : (d.emit o).eng = d.eng := rfl
@[simp] theorem Dev.emit_recs (d : Dev) (o : Out) : (d.emit o).recs = d.recs := rfl
@[simp] theorem Dev.emit_test (d : Dev) (o : Out) : (d.emit o).test = d.test := rfl
@[simp] theorem Dev.emit_err (d : Dev) (o : Out) : (d.emit o).err = d.err := rfl
@[simp] theorem Dev.emit_led (d : Dev) (o : Out) : (d.emit o).led = d.led := rfl
@[simp] theorem Dev.emit_store (d : Dev) (o : Out) : (d.emit o).store = d.store := rfl
@[simp] theorem Dev.emit_book (d : Dev) (o : Out) : (d.emit o).book = d.book := rfl
@[simp] theorem Dev.emit_links (d : Dev) (o : Out) : (d.emit o).links = d.links := rfl
@[simp] theorem Dev.emit_intake (d : Dev) (o : Out) : (d.emit o).intake = d.intake := rfl
@[simp] theorem Dev.emit_core (d : Dev) (o : Out) : (d.emit o).core = d.core := rfl
@[simp] theorem Dev.emit_accts (d : Dev) (o : Out) : (d.emit o).accts = d.accts := rfl
@[simp] theorem Dev.emit_volt (d : Dev) (o : Out) : (d.emit o).volt = d.volt := rfl
@[simp] theorem Dev.emit_aux (d : Dev) (o : Out) : (d.emit o).aux = d.aux := rfl
@[simp] theorem Dev.emit_trk (d : Dev) (o : Out) : (d.emit o).trk = d.trk := rfl
@[simp] theorem Dev.emit_pq (d : Dev) (o : Out) : (d.emit o).pq = d.pq := rfl
@[simp] theorem Dev.emit_cal (d : Dev) (o : Out) : (d.emit o).cal = d.cal := rfl
@[simp] theorem Dev.emit_pulses (d : Dev) (o : Out) : (d.emit o).pulses = d.pulses := rfl
@[simp] theorem Dev.emit_tariff (d : Dev) (o : Out) : (d.emit o).tariff = d.tariff := rfl
@[simp] theorem Dev.emit_keys (d : Dev) (o : Out) : (d.emit o).keys = d.keys := rfl
@[simp] theorem Dev.emit_tam (d : Dev) (o : Out) : (d.emit o).tam = d.tam := rfl
@[simp] theorem Dev.emit_tw (d : Dev) (o : Out) : (d.emit o).tw = d.tw := rfl
@[simp] theorem Dev.emit_lphy (d : Dev) (o : Out) : (d.emit o).lphy = d.lphy := rfl
@[simp] theorem Dev.emit_lnet (d : Dev) (o : Out) : (d.emit o).lnet = d.lnet := rfl
@[simp] theorem Dev.emit_stores (d : Dev) (o : Out) : (d.emit o).stores = d.stores := rfl
@[simp] theorem Dev.emit_free (d : Dev) (o : Out) : (d.emit o).free = d.free := rfl
@[simp] theorem Dev.emit_out (d : Dev) (o : Out) : (d.emit o).out = o :: d.out := rfl

/-! ### Dev.setRing -/

@[simp] theorem Dev.setRing_pwr (d : Dev) (r : Nat) (g : Ring) : (d.setRing r g).pwr = d.pwr := rfl
@[simp] theorem Dev.setRing_host (d : Dev) (r : Nat) (g : Ring) : (d.setRing r g).host = d.host := rfl
@[simp] theorem Dev.setRing_eng (d : Dev) (r : Nat) (g : Ring) : (d.setRing r g).eng = { d.eng with rings := d.eng.rings.set r g } := rfl
@[simp] theorem Dev.setRing_recs (d : Dev) (r : Nat) (g : Ring) : (d.setRing r g).recs = d.recs := rfl
@[simp] theorem Dev.setRing_test (d : Dev) (r : Nat) (g : Ring) : (d.setRing r g).test = d.test := rfl
@[simp] theorem Dev.setRing_err (d : Dev) (r : Nat) (g : Ring) : (d.setRing r g).err = d.err := rfl
@[simp] theorem Dev.setRing_led (d : Dev) (r : Nat) (g : Ring) : (d.setRing r g).led = d.led := rfl
@[simp] theorem Dev.setRing_store (d : Dev) (r : Nat) (g : Ring) : (d.setRing r g).store = d.store := rfl
@[simp] theorem Dev.setRing_book (d : Dev) (r : Nat) (g : Ring) : (d.setRing r g).book = d.book := rfl
@[simp] theorem Dev.setRing_links (d : Dev) (r : Nat) (g : Ring) : (d.setRing r g).links = d.links := rfl
@[simp] theorem Dev.setRing_intake (d : Dev) (r : Nat) (g : Ring) : (d.setRing r g).intake = d.intake := rfl
@[simp] theorem Dev.setRing_core (d : Dev) (r : Nat) (g : Ring) : (d.setRing r g).core = d.core := rfl
@[simp] theorem Dev.setRing_accts (d : Dev) (r : Nat) (g : Ring) : (d.setRing r g).accts = d.accts := rfl
@[simp] theorem Dev.setRing_volt (d : Dev) (r : Nat) (g : Ring) : (d.setRing r g).volt = d.volt := rfl
@[simp] theorem Dev.setRing_aux (d : Dev) (r : Nat) (g : Ring) : (d.setRing r g).aux = d.aux := rfl
@[simp] theorem Dev.setRing_trk (d : Dev) (r : Nat) (g : Ring) : (d.setRing r g).trk = d.trk := rfl
@[simp] theorem Dev.setRing_pq (d : Dev) (r : Nat) (g : Ring) : (d.setRing r g).pq = d.pq := rfl
@[simp] theorem Dev.setRing_cal (d : Dev) (r : Nat) (g : Ring) : (d.setRing r g).cal = d.cal := rfl
@[simp] theorem Dev.setRing_pulses (d : Dev) (r : Nat) (g : Ring) : (d.setRing r g).pulses = d.pulses := rfl
@[simp] theorem Dev.setRing_tariff (d : Dev) (r : Nat) (g : Ring) : (d.setRing r g).tariff = d.tariff := rfl
@[simp] theorem Dev.setRing_keys (d : Dev) (r : Nat) (g : Ring) : (d.setRing r g).keys = d.keys := rfl
@[simp] theorem Dev.setRing_tam (d : Dev) (r : Nat) (g : Ring) : (d.setRing r g).tam = d.tam := rfl
@[simp] theorem Dev.setRing_tw (d : Dev) (r : Nat) (g : Ring) : (d.setRing r g).tw = d.tw := rfl
@[simp] theorem Dev.setRing_lphy (d : Dev) (r : Nat) (g : Ring) : (d.setRing r g).lphy = d.lphy := rfl
@[simp] theorem Dev.setRing_lnet (d : Dev) (r : Nat) (g : Ring) : (d.setRing r g).lnet = d.lnet := rfl
@[simp] theorem Dev.setRing_stores (d : Dev) (r : Nat) (g : Ring) : (d.setRing r g).stores = d.stores := rfl
@[simp] theorem Dev.setRing_free (d : Dev) (r : Nat) (g : Ring) : (d.setRing r g).free = d.free := rfl
@[simp] theorem Dev.setRing_out (d : Dev) (r : Nat) (g : Ring) : (d.setRing r g).out = d.out := rfl

/-! ### Dev.updRing -/

@[simp] theorem Dev.updRing_pwr (d : Dev) (r : Nat) (f : Ring → Ring) : (d.updRing r f).pwr = d.pwr := rfl
@[simp] theorem Dev.updRing_host (d : Dev) (r : Nat) (f : Ring → Ring) : (d.updRing r f).host = d.host := rfl
@[simp] theorem Dev.updRing_eng (d : Dev) (r : Nat) (f : Ring → Ring) : (d.updRing r f).eng = { d.eng with rings := d.eng.rings.set r (f (d.ring r)) } := rfl
@[simp] theorem Dev.updRing_recs (d : Dev) (r : Nat) (f : Ring → Ring) : (d.updRing r f).recs = d.recs := rfl
@[simp] theorem Dev.updRing_test (d : Dev) (r : Nat) (f : Ring → Ring) : (d.updRing r f).test = d.test := rfl
@[simp] theorem Dev.updRing_err (d : Dev) (r : Nat) (f : Ring → Ring) : (d.updRing r f).err = d.err := rfl
@[simp] theorem Dev.updRing_led (d : Dev) (r : Nat) (f : Ring → Ring) : (d.updRing r f).led = d.led := rfl
@[simp] theorem Dev.updRing_store (d : Dev) (r : Nat) (f : Ring → Ring) : (d.updRing r f).store = d.store := rfl
@[simp] theorem Dev.updRing_book (d : Dev) (r : Nat) (f : Ring → Ring) : (d.updRing r f).book = d.book := rfl
@[simp] theorem Dev.updRing_links (d : Dev) (r : Nat) (f : Ring → Ring) : (d.updRing r f).links = d.links := rfl
@[simp] theorem Dev.updRing_intake (d : Dev) (r : Nat) (f : Ring → Ring) : (d.updRing r f).intake = d.intake := rfl
@[simp] theorem Dev.updRing_core (d : Dev) (r : Nat) (f : Ring → Ring) : (d.updRing r f).core = d.core := rfl
@[simp] theorem Dev.updRing_accts (d : Dev) (r : Nat) (f : Ring → Ring) : (d.updRing r f).accts = d.accts := rfl
@[simp] theorem Dev.updRing_volt (d : Dev) (r : Nat) (f : Ring → Ring) : (d.updRing r f).volt = d.volt := rfl
@[simp] theorem Dev.updRing_aux (d : Dev) (r : Nat) (f : Ring → Ring) : (d.updRing r f).aux = d.aux := rfl
@[simp] theorem Dev.updRing_trk (d : Dev) (r : Nat) (f : Ring → Ring) : (d.updRing r f).trk = d.trk := rfl
@[simp] theorem Dev.updRing_pq (d : Dev) (r : Nat) (f : Ring → Ring) : (d.updRing r f).pq = d.pq := rfl
@[simp] theorem Dev.updRing_cal (d : Dev) (r : Nat) (f : Ring → Ring) : (d.updRing r f).cal = d.cal := rfl
@[simp] theorem Dev.updRing_pulses (d : Dev) (r : Nat) (f : Ring → Ring) : (d.updRing r f).pulses = d.pulses := rfl
@[simp] theorem Dev.updRing_tariff (d : Dev) (r : Nat) (f : Ring → Ring) : (d.updRing r f).tariff = d.tariff := rfl
@[simp] theorem Dev.updRing_keys (d : Dev) (r : Nat) (f : Ring → Ring) : (d.updRing r f).keys = d.keys := rfl
@[simp] theorem Dev.updRing_tam (d : Dev) (r : Nat) (f : Ring → Ring) : (d.updRing r f).tam = d.tam := rfl
@[simp] theorem Dev.updRing_tw (d : Dev) (r : Nat) (f : Ring → Ring) : (d.updRing r f).tw = d.tw := rfl
@[simp] theorem Dev.updRing_lphy (d : Dev) (r : Nat) (f : Ring → Ring) : (d.updRing r f).lphy = d.lphy := rfl
@[simp] theorem Dev.updRing_lnet (d : Dev) (r : Nat) (f : Ring → Ring) : (d.updRing r f).lnet = d.lnet := rfl
@[simp] theorem Dev.updRing_stores (d : Dev) (r : Nat) (f : Ring → Ring) : (d.updRing r f).stores = d.stores := rfl
@[simp] theorem Dev.updRing_free (d : Dev) (r : Nat) (f : Ring → Ring) : (d.updRing r f).free = d.free := rfl
@[simp] theorem Dev.updRing_out (d : Dev) (r : Nat) (f : Ring → Ring) : (d.updRing r f).out = d.out := rfl

/-! ### Dev.setFn -/

@[simp] theorem Dev.setFn_pwr (d : Dev) (f : Nat) (x : Fn) : (d.setFn f x).pwr = d.pwr := rfl
@[simp] theorem Dev.setFn_host (d : Dev) (f : Nat) (x : Fn) : (d.setFn f x).host = { d.host with fns := d.host.fns.set f x } := rfl
@[simp] theorem Dev.setFn_eng (d : Dev) (f : Nat) (x : Fn) : (d.setFn f x).eng = d.eng := rfl
@[simp] theorem Dev.setFn_recs (d : Dev) (f : Nat) (x : Fn) : (d.setFn f x).recs = d.recs := rfl
@[simp] theorem Dev.setFn_test (d : Dev) (f : Nat) (x : Fn) : (d.setFn f x).test = d.test := rfl
@[simp] theorem Dev.setFn_err (d : Dev) (f : Nat) (x : Fn) : (d.setFn f x).err = d.err := rfl
@[simp] theorem Dev.setFn_led (d : Dev) (f : Nat) (x : Fn) : (d.setFn f x).led = d.led := rfl
@[simp] theorem Dev.setFn_store (d : Dev) (f : Nat) (x : Fn) : (d.setFn f x).store = d.store := rfl
@[simp] theorem Dev.setFn_book (d : Dev) (f : Nat) (x : Fn) : (d.setFn f x).book = d.book := rfl
@[simp] theorem Dev.setFn_links (d : Dev) (f : Nat) (x : Fn) : (d.setFn f x).links = d.links := rfl
@[simp] theorem Dev.setFn_intake (d : Dev) (f : Nat) (x : Fn) : (d.setFn f x).intake = d.intake := rfl
@[simp] theorem Dev.setFn_core (d : Dev) (f : Nat) (x : Fn) : (d.setFn f x).core = d.core := rfl
@[simp] theorem Dev.setFn_accts (d : Dev) (f : Nat) (x : Fn) : (d.setFn f x).accts = d.accts := rfl
@[simp] theorem Dev.setFn_volt (d : Dev) (f : Nat) (x : Fn) : (d.setFn f x).volt = d.volt := rfl
@[simp] theorem Dev.setFn_aux (d : Dev) (f : Nat) (x : Fn) : (d.setFn f x).aux = d.aux := rfl
@[simp] theorem Dev.setFn_trk (d : Dev) (f : Nat) (x : Fn) : (d.setFn f x).trk = d.trk := rfl
@[simp] theorem Dev.setFn_pq (d : Dev) (f : Nat) (x : Fn) : (d.setFn f x).pq = d.pq := rfl
@[simp] theorem Dev.setFn_cal (d : Dev) (f : Nat) (x : Fn) : (d.setFn f x).cal = d.cal := rfl
@[simp] theorem Dev.setFn_pulses (d : Dev) (f : Nat) (x : Fn) : (d.setFn f x).pulses = d.pulses := rfl
@[simp] theorem Dev.setFn_tariff (d : Dev) (f : Nat) (x : Fn) : (d.setFn f x).tariff = d.tariff := rfl
@[simp] theorem Dev.setFn_keys (d : Dev) (f : Nat) (x : Fn) : (d.setFn f x).keys = d.keys := rfl
@[simp] theorem Dev.setFn_tam (d : Dev) (f : Nat) (x : Fn) : (d.setFn f x).tam = d.tam := rfl
@[simp] theorem Dev.setFn_tw (d : Dev) (f : Nat) (x : Fn) : (d.setFn f x).tw = d.tw := rfl
@[simp] theorem Dev.setFn_lphy (d : Dev) (f : Nat) (x : Fn) : (d.setFn f x).lphy = d.lphy := rfl
@[simp] theorem Dev.setFn_lnet (d : Dev) (f : Nat) (x : Fn) : (d.setFn f x).lnet = d.lnet := rfl
@[simp] theorem Dev.setFn_stores (d : Dev) (f : Nat) (x : Fn) : (d.setFn f x).stores = d.stores := rfl
@[simp] theorem Dev.setFn_free (d : Dev) (f : Nat) (x : Fn) : (d.setFn f x).free = d.free := rfl
@[simp] theorem Dev.setFn_out (d : Dev) (f : Nat) (x : Fn) : (d.setFn f x).out = d.out := rfl

/-! ### Dev.setWork -/

@[simp] theorem Dev.setWork_pwr (d : Dev) (w : Image) : (d.setWork w).pwr = d.pwr := rfl
@[simp] theorem Dev.setWork_host (d : Dev) (w : Image) : (d.setWork w).host = d.host := rfl
@[simp] theorem Dev.setWork_eng (d : Dev) (w : Image) : (d.setWork w).eng = d.eng := rfl
@[simp] theorem Dev.setWork_recs (d : Dev) (w : Image) : (d.setWork w).recs = d.recs := rfl
@[simp] theorem Dev.setWork_test (d : Dev) (w : Image) : (d.setWork w).test = d.test := rfl
@[simp] theorem Dev.setWork_err (d : Dev) (w : Image) : (d.setWork w).err = d.err := rfl
@[simp] theorem Dev.setWork_led (d : Dev) (w : Image) : (d.setWork w).led = { d.led with work := w } := rfl
@[simp] theorem Dev.setWork_store (d : Dev) (w : Image) : (d.setWork w).store = d.store := rfl
@[simp] theorem Dev.setWork_book (d : Dev) (w : Image) : (d.setWork w).book = d.book := rfl
@[simp] theorem Dev.setWork_links (d : Dev) (w : Image) : (d.setWork w).links = d.links := rfl
@[simp] theorem Dev.setWork_intake (d : Dev) (w : Image) : (d.setWork w).intake = d.intake := rfl
@[simp] theorem Dev.setWork_core (d : Dev) (w : Image) : (d.setWork w).core = d.core := rfl
@[simp] theorem Dev.setWork_accts (d : Dev) (w : Image) : (d.setWork w).accts = d.accts := rfl
@[simp] theorem Dev.setWork_volt (d : Dev) (w : Image) : (d.setWork w).volt = d.volt := rfl
@[simp] theorem Dev.setWork_aux (d : Dev) (w : Image) : (d.setWork w).aux = d.aux := rfl
@[simp] theorem Dev.setWork_trk (d : Dev) (w : Image) : (d.setWork w).trk = d.trk := rfl
@[simp] theorem Dev.setWork_pq (d : Dev) (w : Image) : (d.setWork w).pq = d.pq := rfl
@[simp] theorem Dev.setWork_cal (d : Dev) (w : Image) : (d.setWork w).cal = d.cal := rfl
@[simp] theorem Dev.setWork_pulses (d : Dev) (w : Image) : (d.setWork w).pulses = d.pulses := rfl
@[simp] theorem Dev.setWork_tariff (d : Dev) (w : Image) : (d.setWork w).tariff = d.tariff := rfl
@[simp] theorem Dev.setWork_keys (d : Dev) (w : Image) : (d.setWork w).keys = d.keys := rfl
@[simp] theorem Dev.setWork_tam (d : Dev) (w : Image) : (d.setWork w).tam = d.tam := rfl
@[simp] theorem Dev.setWork_tw (d : Dev) (w : Image) : (d.setWork w).tw = d.tw := rfl
@[simp] theorem Dev.setWork_lphy (d : Dev) (w : Image) : (d.setWork w).lphy = d.lphy := rfl
@[simp] theorem Dev.setWork_lnet (d : Dev) (w : Image) : (d.setWork w).lnet = d.lnet := rfl
@[simp] theorem Dev.setWork_stores (d : Dev) (w : Image) : (d.setWork w).stores = d.stores := rfl
@[simp] theorem Dev.setWork_free (d : Dev) (w : Image) : (d.setWork w).free = d.free := rfl
@[simp] theorem Dev.setWork_out (d : Dev) (w : Image) : (d.setWork w).out = d.out := rfl

/-! ### Dev.updLegal -/

@[simp] theorem Dev.updLegal_pwr (d : Dev) (a : Nat) (f : Legal → Legal) : (d.updLegal a f).pwr = d.pwr := rfl
@[simp] theorem Dev.updLegal_host (d : Dev) (a : Nat) (f : Legal → Legal) : (d.updLegal a f).host = d.host := rfl
@[simp] theorem Dev.updLegal_eng (d : Dev) (a : Nat) (f : Legal → Legal) : (d.updLegal a f).eng = d.eng := rfl
@[simp] theorem Dev.updLegal_recs (d : Dev) (a : Nat) (f : Legal → Legal) : (d.updLegal a f).recs = d.recs := rfl
@[simp] theorem Dev.updLegal_test (d : Dev) (a : Nat) (f : Legal → Legal) : (d.updLegal a f).test = d.test := rfl
@[simp] theorem Dev.updLegal_err (d : Dev) (a : Nat) (f : Legal → Legal) : (d.updLegal a f).err = d.err := rfl
@[simp] theorem Dev.updLegal_led (d : Dev) (a : Nat) (f : Legal → Legal) : (d.updLegal a f).led = { d.led with work := { d.led.work with legal := d.led.work.legal.set a (f (d.legal a)) } } := rfl
@[simp] theorem Dev.updLegal_store (d : Dev) (a : Nat) (f : Legal → Legal) : (d.updLegal a f).store = d.store := rfl
@[simp] theorem Dev.updLegal_book (d : Dev) (a : Nat) (f : Legal → Legal) : (d.updLegal a f).book = d.book := rfl
@[simp] theorem Dev.updLegal_links (d : Dev) (a : Nat) (f : Legal → Legal) : (d.updLegal a f).links = d.links := rfl
@[simp] theorem Dev.updLegal_intake (d : Dev) (a : Nat) (f : Legal → Legal) : (d.updLegal a f).intake = d.intake := rfl
@[simp] theorem Dev.updLegal_core (d : Dev) (a : Nat) (f : Legal → Legal) : (d.updLegal a f).core = d.core := rfl
@[simp] theorem Dev.updLegal_accts (d : Dev) (a : Nat) (f : Legal → Legal) : (d.updLegal a f).accts = d.accts := rfl
@[simp] theorem Dev.updLegal_volt (d : Dev) (a : Nat) (f : Legal → Legal) : (d.updLegal a f).volt = d.volt := rfl
@[simp] theorem Dev.updLegal_aux (d : Dev) (a : Nat) (f : Legal → Legal) : (d.updLegal a f).aux = d.aux := rfl
@[simp] theorem Dev.updLegal_trk (d : Dev) (a : Nat) (f : Legal → Legal) : (d.updLegal a f).trk = d.trk := rfl
@[simp] theorem Dev.updLegal_pq (d : Dev) (a : Nat) (f : Legal → Legal) : (d.updLegal a f).pq = d.pq := rfl
@[simp] theorem Dev.updLegal_cal (d : Dev) (a : Nat) (f : Legal → Legal) : (d.updLegal a f).cal = d.cal := rfl
@[simp] theorem Dev.updLegal_pulses (d : Dev) (a : Nat) (f : Legal → Legal) : (d.updLegal a f).pulses = d.pulses := rfl
@[simp] theorem Dev.updLegal_tariff (d : Dev) (a : Nat) (f : Legal → Legal) : (d.updLegal a f).tariff = d.tariff := rfl
@[simp] theorem Dev.updLegal_keys (d : Dev) (a : Nat) (f : Legal → Legal) : (d.updLegal a f).keys = d.keys := rfl
@[simp] theorem Dev.updLegal_tam (d : Dev) (a : Nat) (f : Legal → Legal) : (d.updLegal a f).tam = d.tam := rfl
@[simp] theorem Dev.updLegal_tw (d : Dev) (a : Nat) (f : Legal → Legal) : (d.updLegal a f).tw = d.tw := rfl
@[simp] theorem Dev.updLegal_lphy (d : Dev) (a : Nat) (f : Legal → Legal) : (d.updLegal a f).lphy = d.lphy := rfl
@[simp] theorem Dev.updLegal_lnet (d : Dev) (a : Nat) (f : Legal → Legal) : (d.updLegal a f).lnet = d.lnet := rfl
@[simp] theorem Dev.updLegal_stores (d : Dev) (a : Nat) (f : Legal → Legal) : (d.updLegal a f).stores = d.stores := rfl
@[simp] theorem Dev.updLegal_free (d : Dev) (a : Nat) (f : Legal → Legal) : (d.updLegal a f).free = d.free := rfl
@[simp] theorem Dev.updLegal_out (d : Dev) (a : Nat) (f : Legal → Legal) : (d.updLegal a f).out = d.out := rfl

/-! ### Dev.updOpen -/

@[simp] theorem Dev.updOpen_pwr (d : Dev) (a : Nat) (f : OpenBlk → OpenBlk) : (d.updOpen a f).pwr = d.pwr := rfl
@[simp] theorem Dev.updOpen_host (d : Dev) (a : Nat) (f : OpenBlk → OpenBlk) : (d.updOpen a f).host = d.host := rfl
@[simp] theorem Dev.updOpen_eng (d : Dev) (a : Nat) (f : OpenBlk → OpenBlk) : (d.updOpen a f).eng = d.eng := rfl
@[simp] theorem Dev.updOpen_recs (d : Dev) (a : Nat) (f : OpenBlk → OpenBlk) : (d.updOpen a f).recs = d.recs := rfl
@[simp] theorem Dev.updOpen_test (d : Dev) (a : Nat) (f : OpenBlk → OpenBlk) : (d.updOpen a f).test = d.test := rfl
@[simp] theorem Dev.updOpen_err (d : Dev) (a : Nat) (f : OpenBlk → OpenBlk) : (d.updOpen a f).err = d.err := rfl
@[simp] theorem Dev.updOpen_led (d : Dev) (a : Nat) (f : OpenBlk → OpenBlk) : (d.updOpen a f).led = { d.led with work := { d.led.work with opens := d.led.work.opens.set a (f (d.openBlk a)) } } := rfl
@[simp] theorem Dev.updOpen_store (d : Dev) (a : Nat) (f : OpenBlk → OpenBlk) : (d.updOpen a f).store = d.store := rfl
@[simp] theorem Dev.updOpen_book (d : Dev) (a : Nat) (f : OpenBlk → OpenBlk) : (d.updOpen a f).book = d.book := rfl
@[simp] theorem Dev.updOpen_links (d : Dev) (a : Nat) (f : OpenBlk → OpenBlk) : (d.updOpen a f).links = d.links := rfl
@[simp] theorem Dev.updOpen_intake (d : Dev) (a : Nat) (f : OpenBlk → OpenBlk) : (d.updOpen a f).intake = d.intake := rfl
@[simp] theorem Dev.updOpen_core (d : Dev) (a : Nat) (f : OpenBlk → OpenBlk) : (d.updOpen a f).core = d.core := rfl
@[simp] theorem Dev.updOpen_accts (d : Dev) (a : Nat) (f : OpenBlk → OpenBlk) : (d.updOpen a f).accts = d.accts := rfl
@[simp] theorem Dev.updOpen_volt (d : Dev) (a : Nat) (f : OpenBlk → OpenBlk) : (d.updOpen a f).volt = d.volt := rfl
@[simp] theorem Dev.updOpen_aux (d : Dev) (a : Nat) (f : OpenBlk → OpenBlk) : (d.updOpen a f).aux = d.aux := rfl
@[simp] theorem Dev.updOpen_trk (d : Dev) (a : Nat) (f : OpenBlk → OpenBlk) : (d.updOpen a f).trk = d.trk := rfl
@[simp] theorem Dev.updOpen_pq (d : Dev) (a : Nat) (f : OpenBlk → OpenBlk) : (d.updOpen a f).pq = d.pq := rfl
@[simp] theorem Dev.updOpen_cal (d : Dev) (a : Nat) (f : OpenBlk → OpenBlk) : (d.updOpen a f).cal = d.cal := rfl
@[simp] theorem Dev.updOpen_pulses (d : Dev) (a : Nat) (f : OpenBlk → OpenBlk) : (d.updOpen a f).pulses = d.pulses := rfl
@[simp] theorem Dev.updOpen_tariff (d : Dev) (a : Nat) (f : OpenBlk → OpenBlk) : (d.updOpen a f).tariff = d.tariff := rfl
@[simp] theorem Dev.updOpen_keys (d : Dev) (a : Nat) (f : OpenBlk → OpenBlk) : (d.updOpen a f).keys = d.keys := rfl
@[simp] theorem Dev.updOpen_tam (d : Dev) (a : Nat) (f : OpenBlk → OpenBlk) : (d.updOpen a f).tam = d.tam := rfl
@[simp] theorem Dev.updOpen_tw (d : Dev) (a : Nat) (f : OpenBlk → OpenBlk) : (d.updOpen a f).tw = d.tw := rfl
@[simp] theorem Dev.updOpen_lphy (d : Dev) (a : Nat) (f : OpenBlk → OpenBlk) : (d.updOpen a f).lphy = d.lphy := rfl
@[simp] theorem Dev.updOpen_lnet (d : Dev) (a : Nat) (f : OpenBlk → OpenBlk) : (d.updOpen a f).lnet = d.lnet := rfl
@[simp] theorem Dev.updOpen_stores (d : Dev) (a : Nat) (f : OpenBlk → OpenBlk) : (d.updOpen a f).stores = d.stores := rfl
@[simp] theorem Dev.updOpen_free (d : Dev) (a : Nat) (f : OpenBlk → OpenBlk) : (d.updOpen a f).free = d.free := rfl
@[simp] theorem Dev.updOpen_out (d : Dev) (a : Nat) (f : OpenBlk → OpenBlk) : (d.updOpen a f).out = d.out := rfl

/-! ### Dev.updErr -/

@[simp] theorem Dev.updErr_pwr (d : Dev) (f : ErrBlk → ErrBlk) : (d.updErr f).pwr = d.pwr := rfl
@[simp] theorem Dev.updErr_host (d : Dev) (f : ErrBlk → ErrBlk) : (d.updErr f).host = d.host := rfl
@[simp] theorem Dev.updErr_eng (d : Dev) (f : ErrBlk → ErrBlk) : (d.updErr f).eng = d.eng := rfl
@[simp] theorem Dev.updErr_recs (d : Dev) (f : ErrBlk → ErrBlk) : (d.updErr f).recs = d.recs := rfl
@[simp] theorem Dev.updErr_test (d : Dev) (f : ErrBlk → ErrBlk) : (d.updErr f).test = d.test := rfl
@[simp] theorem Dev.updErr_err (d : Dev) (f : ErrBlk → ErrBlk) : (d.updErr f).err = d.err := rfl
@[simp] theorem Dev.updErr_led (d : Dev) (f : ErrBlk → ErrBlk) : (d.updErr f).led = { d.led with work := { d.led.work with errors := f d.led.work.errors } } := rfl
@[simp] theorem Dev.updErr_store (d : Dev) (f : ErrBlk → ErrBlk) : (d.updErr f).store = d.store := rfl
@[simp] theorem Dev.updErr_book (d : Dev) (f : ErrBlk → ErrBlk) : (d.updErr f).book = d.book := rfl
@[simp] theorem Dev.updErr_links (d : Dev) (f : ErrBlk → ErrBlk) : (d.updErr f).links = d.links := rfl
@[simp] theorem Dev.updErr_intake (d : Dev) (f : ErrBlk → ErrBlk) : (d.updErr f).intake = d.intake := rfl
@[simp] theorem Dev.updErr_core (d : Dev) (f : ErrBlk → ErrBlk) : (d.updErr f).core = d.core := rfl
@[simp] theorem Dev.updErr_accts (d : Dev) (f : ErrBlk → ErrBlk) : (d.updErr f).accts = d.accts := rfl
@[simp] theorem Dev.updErr_volt (d : Dev) (f : ErrBlk → ErrBlk) : (d.updErr f).volt = d.volt := rfl
@[simp] theorem Dev.updErr_aux (d : Dev) (f : ErrBlk → ErrBlk) : (d.updErr f).aux = d.aux := rfl
@[simp] theorem Dev.updErr_trk (d : Dev) (f : ErrBlk → ErrBlk) : (d.updErr f).trk = d.trk := rfl
@[simp] theorem Dev.updErr_pq (d : Dev) (f : ErrBlk → ErrBlk) : (d.updErr f).pq = d.pq := rfl
@[simp] theorem Dev.updErr_cal (d : Dev) (f : ErrBlk → ErrBlk) : (d.updErr f).cal = d.cal := rfl
@[simp] theorem Dev.updErr_pulses (d : Dev) (f : ErrBlk → ErrBlk) : (d.updErr f).pulses = d.pulses := rfl
@[simp] theorem Dev.updErr_tariff (d : Dev) (f : ErrBlk → ErrBlk) : (d.updErr f).tariff = d.tariff := rfl
@[simp] theorem Dev.updErr_keys (d : Dev) (f : ErrBlk → ErrBlk) : (d.updErr f).keys = d.keys := rfl
@[simp] theorem Dev.updErr_tam (d : Dev) (f : ErrBlk → ErrBlk) : (d.updErr f).tam = d.tam := rfl
@[simp] theorem Dev.updErr_tw (d : Dev) (f : ErrBlk → ErrBlk) : (d.updErr f).tw = d.tw := rfl
@[simp] theorem Dev.updErr_lphy (d : Dev) (f : ErrBlk → ErrBlk) : (d.updErr f).lphy = d.lphy := rfl
@[simp] theorem Dev.updErr_lnet (d : Dev) (f : ErrBlk → ErrBlk) : (d.updErr f).lnet = d.lnet := rfl
@[simp] theorem Dev.updErr_stores (d : Dev) (f : ErrBlk → ErrBlk) : (d.updErr f).stores = d.stores := rfl
@[simp] theorem Dev.updErr_free (d : Dev) (f : ErrBlk → ErrBlk) : (d.updErr f).free = d.free := rfl
@[simp] theorem Dev.updErr_out (d : Dev) (f : ErrBlk → ErrBlk) : (d.updErr f).out = d.out := rfl

/-! ### Dev.setTamper -/

@[simp] theorem Dev.setTamper_pwr (d : Dev) (k : Nat) (t : TSlot) : (d.setTamper k t).pwr = d.pwr := rfl
@[simp] theorem Dev.setTamper_host (d : Dev) (k : Nat) (t : TSlot) : (d.setTamper k t).host = d.host := rfl
@[simp] theorem Dev.setTamper_eng (d : Dev) (k : Nat) (t : TSlot) : (d.setTamper k t).eng = d.eng := rfl
@[simp] theorem Dev.setTamper_recs (d : Dev) (k : Nat) (t : TSlot) : (d.setTamper k t).recs = d.recs := rfl
@[simp] theorem Dev.setTamper_test (d : Dev) (k : Nat) (t : TSlot) : (d.setTamper k t).test = d.test := rfl
@[simp] theorem Dev.setTamper_err (d : Dev) (k : Nat) (t : TSlot) : (d.setTamper k t).err = d.err := rfl
@[simp] theorem Dev.setTamper_led (d : Dev) (k : Nat) (t : TSlot) : (d.setTamper k t).led = { d.led with work := { d.led.work with tamper := d.led.work.tamper.set k t } } := rfl
@[simp] theorem Dev.setTamper_store (d : Dev) (k : Nat) (t : TSlot) : (d.setTamper k t).store = d.store := rfl
@[simp] theorem Dev.setTamper_book (d : Dev) (k : Nat) (t : TSlot) : (d.setTamper k t).book = d.book := rfl
@[simp] theorem Dev.setTamper_links (d : Dev) (k : Nat) (t : TSlot) : (d.setTamper k t).links = d.links := rfl
@[simp] theorem Dev.setTamper_intake (d : Dev) (k : Nat) (t : TSlot) : (d.setTamper k t).intake = d.intake := rfl
@[simp] theorem Dev.setTamper_core (d : Dev) (k : Nat) (t : TSlot) : (d.setTamper k t).core = d.core := rfl
@[simp] theorem Dev.setTamper_accts (d : Dev) (k : Nat) (t : TSlot) : (d.setTamper k t).accts = d.accts := rfl
@[simp] theorem Dev.setTamper_volt (d : Dev) (k : Nat) (t : TSlot) : (d.setTamper k t).volt = d.volt := rfl
@[simp] theorem Dev.setTamper_aux (d : Dev) (k : Nat) (t : TSlot) : (d.setTamper k t).aux = d.aux := rfl
@[simp] theorem Dev.setTamper_trk (d : Dev) (k : Nat) (t : TSlot) : (d.setTamper k t).trk = d.trk := rfl
@[simp] theorem Dev.setTamper_pq (d : Dev) (k : Nat) (t : TSlot) : (d.setTamper k t).pq = d.pq := rfl
@[simp] theorem Dev.setTamper_cal (d : Dev) (k : Nat) (t : TSlot) : (d.setTamper k t).cal = d.cal := rfl
@[simp] theorem Dev.setTamper_pulses (d : Dev) (k : Nat) (t : TSlot) : (d.setTamper k t).pulses = d.pulses := rfl
@[simp] theorem Dev.setTamper_tariff (d : Dev) (k : Nat) (t : TSlot) : (d.setTamper k t).tariff = d.tariff := rfl
@[simp] theorem Dev.setTamper_keys (d : Dev) (k : Nat) (t : TSlot) : (d.setTamper k t).keys = d.keys := rfl
@[simp] theorem Dev.setTamper_tam (d : Dev) (k : Nat) (t : TSlot) : (d.setTamper k t).tam = d.tam := rfl
@[simp] theorem Dev.setTamper_tw (d : Dev) (k : Nat) (t : TSlot) : (d.setTamper k t).tw = d.tw := rfl
@[simp] theorem Dev.setTamper_lphy (d : Dev) (k : Nat) (t : TSlot) : (d.setTamper k t).lphy = d.lphy := rfl
@[simp] theorem Dev.setTamper_lnet (d : Dev) (k : Nat) (t : TSlot) : (d.setTamper k t).lnet = d.lnet := rfl
@[simp] theorem Dev.setTamper_stores (d : Dev) (k : Nat) (t : TSlot) : (d.setTamper k t).stores = d.stores := rfl
@[simp] theorem Dev.setTamper_free (d : Dev) (k : Nat) (t : TSlot) : (d.setTamper k t).free = d.free := rfl
@[simp] theorem Dev.setTamper_out (d : Dev) (k : Nat) (t : TSlot) : (d.setTamper k t).out = d.out := rfl

/-! ### Dev.bump -/

@[simp] theorem Dev.bump_pwr (d : Dev) (e : Nat) : (d.bump e).pwr = d.pwr := rfl
@[simp] theorem Dev.bump_host (d : Dev) (e : Nat) : (d.bump e).host = d.host := rfl
@[simp] theorem Dev.bump_eng (d : Dev) (e : Nat) : (d.bump e).eng = d.eng := rfl
@[simp] theorem Dev.bump_recs (d : Dev) (e : Nat) : (d.bump e).recs = d.recs := rfl
@[simp] theorem Dev.bump_test (d : Dev) (e : Nat) : (d.bump e).test = d.test := rfl
@[simp] theorem Dev.bump_err (d : Dev) (e : Nat) : (d.bump e).err = d.err := rfl
@[simp] theorem Dev.bump_led (d : Dev) (e : Nat) : (d.bump e).led = d.led := rfl
@[simp] theorem Dev.bump_store (d : Dev) (e : Nat) : (d.bump e).store = d.store := rfl
@[simp] theorem Dev.bump_book (d : Dev) (e : Nat) : (d.bump e).book = d.book.set e (nextEpoch (d.book.get e 1)) := rfl
@[simp] theorem Dev.bump_links (d : Dev) (e : Nat) : (d.bump e).links = d.links := rfl
@[simp] theorem Dev.bump_intake (d : Dev) (e : Nat) : (d.bump e).intake = d.intake := rfl
@[simp] theorem Dev.bump_core (d : Dev) (e : Nat) : (d.bump e).core = d.core := rfl
@[simp] theorem Dev.bump_accts (d : Dev) (e : Nat) : (d.bump e).accts = d.accts := rfl
@[simp] theorem Dev.bump_volt (d : Dev) (e : Nat) : (d.bump e).volt = d.volt := rfl
@[simp] theorem Dev.bump_aux (d : Dev) (e : Nat) : (d.bump e).aux = d.aux := rfl
@[simp] theorem Dev.bump_trk (d : Dev) (e : Nat) : (d.bump e).trk = d.trk := rfl
@[simp] theorem Dev.bump_pq (d : Dev) (e : Nat) : (d.bump e).pq = d.pq := rfl
@[simp] theorem Dev.bump_cal (d : Dev) (e : Nat) : (d.bump e).cal = d.cal := rfl
@[simp] theorem Dev.bump_pulses (d : Dev) (e : Nat) : (d.bump e).pulses = d.pulses := rfl
@[simp] theorem Dev.bump_tariff (d : Dev) (e : Nat) : (d.bump e).tariff = d.tariff := rfl
@[simp] theorem Dev.bump_keys (d : Dev) (e : Nat) : (d.bump e).keys = d.keys := rfl
@[simp] theorem Dev.bump_tam (d : Dev) (e : Nat) : (d.bump e).tam = d.tam := rfl
@[simp] theorem Dev.bump_tw (d : Dev) (e : Nat) : (d.bump e).tw = d.tw := rfl
@[simp] theorem Dev.bump_lphy (d : Dev) (e : Nat) : (d.bump e).lphy = d.lphy := rfl
@[simp] theorem Dev.bump_lnet (d : Dev) (e : Nat) : (d.bump e).lnet = d.lnet := rfl
@[simp] theorem Dev.bump_stores (d : Dev) (e : Nat) : (d.bump e).stores = d.stores := rfl
@[simp] theorem Dev.bump_free (d : Dev) (e : Nat) : (d.bump e).free = d.free := rfl
@[simp] theorem Dev.bump_out (d : Dev) (e : Nat) : (d.bump e).out = d.out := rfl

/-! ### Dev.land -/

@[simp] theorem Dev.land_pwr (d : Dev) (c : CmdRef) : (d.land c).pwr = d.pwr := rfl
@[simp] theorem Dev.land_host (d : Dev) (c : CmdRef) : (d.land c).host = d.host := rfl
@[simp] theorem Dev.land_recs (d : Dev) (c : CmdRef) : (d.land c).recs = d.recs := rfl
@[simp] theorem Dev.land_test (d : Dev) (c : CmdRef) : (d.land c).test = d.test := rfl
@[simp] theorem Dev.land_err (d : Dev) (c : CmdRef) : (d.land c).err = d.err := rfl
@[simp] theorem Dev.land_led (d : Dev) (c : CmdRef) : (d.land c).led = d.led := rfl
@[simp] theorem Dev.land_store (d : Dev) (c : CmdRef) : (d.land c).store = d.store := rfl
@[simp] theorem Dev.land_book (d : Dev) (c : CmdRef) : (d.land c).book = d.book := rfl
@[simp] theorem Dev.land_links (d : Dev) (c : CmdRef) : (d.land c).links = d.links := rfl
@[simp] theorem Dev.land_intake (d : Dev) (c : CmdRef) : (d.land c).intake = d.intake := rfl
@[simp] theorem Dev.land_core (d : Dev) (c : CmdRef) : (d.land c).core = d.core := rfl
@[simp] theorem Dev.land_accts (d : Dev) (c : CmdRef) : (d.land c).accts = d.accts := rfl
@[simp] theorem Dev.land_volt (d : Dev) (c : CmdRef) : (d.land c).volt = d.volt := rfl
@[simp] theorem Dev.land_aux (d : Dev) (c : CmdRef) : (d.land c).aux = d.aux := rfl
@[simp] theorem Dev.land_trk (d : Dev) (c : CmdRef) : (d.land c).trk = d.trk := rfl
@[simp] theorem Dev.land_pq (d : Dev) (c : CmdRef) : (d.land c).pq = d.pq := rfl
@[simp] theorem Dev.land_cal (d : Dev) (c : CmdRef) : (d.land c).cal = d.cal := rfl
@[simp] theorem Dev.land_pulses (d : Dev) (c : CmdRef) : (d.land c).pulses = d.pulses := rfl
@[simp] theorem Dev.land_tariff (d : Dev) (c : CmdRef) : (d.land c).tariff = d.tariff := rfl
@[simp] theorem Dev.land_keys (d : Dev) (c : CmdRef) : (d.land c).keys = d.keys := rfl
@[simp] theorem Dev.land_tam (d : Dev) (c : CmdRef) : (d.land c).tam = d.tam := rfl
@[simp] theorem Dev.land_tw (d : Dev) (c : CmdRef) : (d.land c).tw = d.tw := rfl
@[simp] theorem Dev.land_lphy (d : Dev) (c : CmdRef) : (d.land c).lphy = d.lphy := rfl
@[simp] theorem Dev.land_lnet (d : Dev) (c : CmdRef) : (d.land c).lnet = d.lnet := rfl
@[simp] theorem Dev.land_stores (d : Dev) (c : CmdRef) : (d.land c).stores = d.stores := rfl
@[simp] theorem Dev.land_free (d : Dev) (c : CmdRef) : (d.land c).free = d.free := rfl
@[simp] theorem Dev.land_out (d : Dev) (c : CmdRef) : (d.land c).out = d.out := rfl

/-! ### Dev.setLink -/

@[simp] theorem Dev.setLink_pwr (d : Dev) (n : Nat) (l : Link) : (d.setLink n l).pwr = d.pwr := rfl
@[simp] theorem Dev.setLink_host (d : Dev) (n : Nat) (l : Link) : (d.setLink n l).host = d.host := rfl
@[simp] theorem Dev.setLink_eng (d : Dev) (n : Nat) (l : Link) : (d.setLink n l).eng = d.eng := rfl
@[simp] theorem Dev.setLink_recs (d : Dev) (n : Nat) (l : Link) : (d.setLink n l).recs = d.recs := rfl
@[simp] theorem Dev.setLink_test (d : Dev) (n : Nat) (l : Link) : (d.setLink n l).test = d.test := rfl
@[simp] theorem Dev.setLink_err (d : Dev) (n : Nat) (l : Link) : (d.setLink n l).err = d.err := rfl
@[simp] theorem Dev.setLink_led (d : Dev) (n : Nat) (l : Link) : (d.setLink n l).led = d.led := rfl
@[simp] theorem Dev.setLink_store (d : Dev) (n : Nat) (l : Link) : (d.setLink n l).store = d.store := rfl
@[simp] theorem Dev.setLink_book (d : Dev) (n : Nat) (l : Link) : (d.setLink n l).book = d.book := rfl
@[simp] theorem Dev.setLink_links (d : Dev) (n : Nat) (l : Link) : (d.setLink n l).links = d.links.set n l := rfl
@[simp] theorem Dev.setLink_intake (d : Dev) (n : Nat) (l : Link) : (d.setLink n l).intake = d.intake := rfl
@[simp] theorem Dev.setLink_core (d : Dev) (n : Nat) (l : Link) : (d.setLink n l).core = d.core := rfl
@[simp] theorem Dev.setLink_accts (d : Dev) (n : Nat) (l : Link) : (d.setLink n l).accts = d.accts := rfl
@[simp] theorem Dev.setLink_volt (d : Dev) (n : Nat) (l : Link) : (d.setLink n l).volt = d.volt := rfl
@[simp] theorem Dev.setLink_aux (d : Dev) (n : Nat) (l : Link) : (d.setLink n l).aux = d.aux := rfl
@[simp] theorem Dev.setLink_trk (d : Dev) (n : Nat) (l : Link) : (d.setLink n l).trk = d.trk := rfl
@[simp] theorem Dev.setLink_pq (d : Dev) (n : Nat) (l : Link) : (d.setLink n l).pq = d.pq := rfl
@[simp] theorem Dev.setLink_cal (d : Dev) (n : Nat) (l : Link) : (d.setLink n l).cal = d.cal := rfl
@[simp] theorem Dev.setLink_pulses (d : Dev) (n : Nat) (l : Link) : (d.setLink n l).pulses = d.pulses := rfl
@[simp] theorem Dev.setLink_tariff (d : Dev) (n : Nat) (l : Link) : (d.setLink n l).tariff = d.tariff := rfl
@[simp] theorem Dev.setLink_keys (d : Dev) (n : Nat) (l : Link) : (d.setLink n l).keys = d.keys := rfl
@[simp] theorem Dev.setLink_tam (d : Dev) (n : Nat) (l : Link) : (d.setLink n l).tam = d.tam := rfl
@[simp] theorem Dev.setLink_tw (d : Dev) (n : Nat) (l : Link) : (d.setLink n l).tw = d.tw := rfl
@[simp] theorem Dev.setLink_lphy (d : Dev) (n : Nat) (l : Link) : (d.setLink n l).lphy = d.lphy := rfl
@[simp] theorem Dev.setLink_lnet (d : Dev) (n : Nat) (l : Link) : (d.setLink n l).lnet = d.lnet := rfl
@[simp] theorem Dev.setLink_stores (d : Dev) (n : Nat) (l : Link) : (d.setLink n l).stores = d.stores := rfl
@[simp] theorem Dev.setLink_free (d : Dev) (n : Nat) (l : Link) : (d.setLink n l).free = d.free := rfl
@[simp] theorem Dev.setLink_out (d : Dev) (n : Nat) (l : Link) : (d.setLink n l).out = d.out := rfl

/-! ### Dev.setVolt -/

@[simp] theorem Dev.setVolt_pwr (d : Dev) (v : Volt) : (d.setVolt v).pwr = d.pwr := rfl
@[simp] theorem Dev.setVolt_host (d : Dev) (v : Volt) : (d.setVolt v).host = d.host := rfl
@[simp] theorem Dev.setVolt_eng (d : Dev) (v : Volt) : (d.setVolt v).eng = d.eng := rfl
@[simp] theorem Dev.setVolt_recs (d : Dev) (v : Volt) : (d.setVolt v).recs = d.recs := rfl
@[simp] theorem Dev.setVolt_test (d : Dev) (v : Volt) : (d.setVolt v).test = d.test := rfl
@[simp] theorem Dev.setVolt_err (d : Dev) (v : Volt) : (d.setVolt v).err = d.err := rfl
@[simp] theorem Dev.setVolt_led (d : Dev) (v : Volt) : (d.setVolt v).led = d.led := rfl
@[simp] theorem Dev.setVolt_store (d : Dev) (v : Volt) : (d.setVolt v).store = d.store := rfl
@[simp] theorem Dev.setVolt_book (d : Dev) (v : Volt) : (d.setVolt v).book = d.book := rfl
@[simp] theorem Dev.setVolt_links (d : Dev) (v : Volt) : (d.setVolt v).links = d.links := rfl
@[simp] theorem Dev.setVolt_intake (d : Dev) (v : Volt) : (d.setVolt v).intake = d.intake := rfl
@[simp] theorem Dev.setVolt_core (d : Dev) (v : Volt) : (d.setVolt v).core = d.core := rfl
@[simp] theorem Dev.setVolt_accts (d : Dev) (v : Volt) : (d.setVolt v).accts = d.accts := rfl
@[simp] theorem Dev.setVolt_volt (d : Dev) (v : Volt) : (d.setVolt v).volt = v := rfl
@[simp] theorem Dev.setVolt_aux (d : Dev) (v : Volt) : (d.setVolt v).aux = d.aux := rfl
@[simp] theorem Dev.setVolt_trk (d : Dev) (v : Volt) : (d.setVolt v).trk = d.trk := rfl
@[simp] theorem Dev.setVolt_pq (d : Dev) (v : Volt) : (d.setVolt v).pq = d.pq := rfl
@[simp] theorem Dev.setVolt_cal (d : Dev) (v : Volt) : (d.setVolt v).cal = d.cal := rfl
@[simp] theorem Dev.setVolt_pulses (d : Dev) (v : Volt) : (d.setVolt v).pulses = d.pulses := rfl
@[simp] theorem Dev.setVolt_tariff (d : Dev) (v : Volt) : (d.setVolt v).tariff = d.tariff := rfl
@[simp] theorem Dev.setVolt_keys (d : Dev) (v : Volt) : (d.setVolt v).keys = d.keys := rfl
@[simp] theorem Dev.setVolt_tam (d : Dev) (v : Volt) : (d.setVolt v).tam = d.tam := rfl
@[simp] theorem Dev.setVolt_tw (d : Dev) (v : Volt) : (d.setVolt v).tw = d.tw := rfl
@[simp] theorem Dev.setVolt_lphy (d : Dev) (v : Volt) : (d.setVolt v).lphy = d.lphy := rfl
@[simp] theorem Dev.setVolt_lnet (d : Dev) (v : Volt) : (d.setVolt v).lnet = d.lnet := rfl
@[simp] theorem Dev.setVolt_stores (d : Dev) (v : Volt) : (d.setVolt v).stores = d.stores := rfl
@[simp] theorem Dev.setVolt_free (d : Dev) (v : Volt) : (d.setVolt v).free = d.free := rfl
@[simp] theorem Dev.setVolt_out (d : Dev) (v : Volt) : (d.setVolt v).out = d.out := rfl

/-! ### Dev.setAux -/

@[simp] theorem Dev.setAux_pwr (d : Dev) (a : Aux) : (d.setAux a).pwr = d.pwr := rfl
@[simp] theorem Dev.setAux_host (d : Dev) (a : Aux) : (d.setAux a).host = d.host := rfl
@[simp] theorem Dev.setAux_eng (d : Dev) (a : Aux) : (d.setAux a).eng = d.eng := rfl
@[simp] theorem Dev.setAux_recs (d : Dev) (a : Aux) : (d.setAux a).recs = d.recs := rfl
@[simp] theorem Dev.setAux_test (d : Dev) (a : Aux) : (d.setAux a).test = d.test := rfl
@[simp] theorem Dev.setAux_err (d : Dev) (a : Aux) : (d.setAux a).err = d.err := rfl
@[simp] theorem Dev.setAux_led (d : Dev) (a : Aux) : (d.setAux a).led = d.led := rfl
@[simp] theorem Dev.setAux_store (d : Dev) (a : Aux) : (d.setAux a).store = d.store := rfl
@[simp] theorem Dev.setAux_book (d : Dev) (a : Aux) : (d.setAux a).book = d.book := rfl
@[simp] theorem Dev.setAux_links (d : Dev) (a : Aux) : (d.setAux a).links = d.links := rfl
@[simp] theorem Dev.setAux_intake (d : Dev) (a : Aux) : (d.setAux a).intake = d.intake := rfl
@[simp] theorem Dev.setAux_core (d : Dev) (a : Aux) : (d.setAux a).core = d.core := rfl
@[simp] theorem Dev.setAux_accts (d : Dev) (a : Aux) : (d.setAux a).accts = d.accts := rfl
@[simp] theorem Dev.setAux_volt (d : Dev) (a : Aux) : (d.setAux a).volt = d.volt := rfl
@[simp] theorem Dev.setAux_aux (d : Dev) (a : Aux) : (d.setAux a).aux = a := rfl
@[simp] theorem Dev.setAux_trk (d : Dev) (a : Aux) : (d.setAux a).trk = d.trk := rfl
@[simp] theorem Dev.setAux_pq (d : Dev) (a : Aux) : (d.setAux a).pq = d.pq := rfl
@[simp] theorem Dev.setAux_cal (d : Dev) (a : Aux) : (d.setAux a).cal = d.cal := rfl
@[simp] theorem Dev.setAux_pulses (d : Dev) (a : Aux) : (d.setAux a).pulses = d.pulses := rfl
@[simp] theorem Dev.setAux_tariff (d : Dev) (a : Aux) : (d.setAux a).tariff = d.tariff := rfl
@[simp] theorem Dev.setAux_keys (d : Dev) (a : Aux) : (d.setAux a).keys = d.keys := rfl
@[simp] theorem Dev.setAux_tam (d : Dev) (a : Aux) : (d.setAux a).tam = d.tam := rfl
@[simp] theorem Dev.setAux_tw (d : Dev) (a : Aux) : (d.setAux a).tw = d.tw := rfl
@[simp] theorem Dev.setAux_lphy (d : Dev) (a : Aux) : (d.setAux a).lphy = d.lphy := rfl
@[simp] theorem Dev.setAux_lnet (d : Dev) (a : Aux) : (d.setAux a).lnet = d.lnet := rfl
@[simp] theorem Dev.setAux_stores (d : Dev) (a : Aux) : (d.setAux a).stores = d.stores := rfl
@[simp] theorem Dev.setAux_free (d : Dev) (a : Aux) : (d.setAux a).free = d.free := rfl
@[simp] theorem Dev.setAux_out (d : Dev) (a : Aux) : (d.setAux a).out = d.out := rfl

/-! ### Dev.setTrk -/

@[simp] theorem Dev.setTrk_pwr (d : Dev) (t : Tracker) : (d.setTrk t).pwr = d.pwr := rfl
@[simp] theorem Dev.setTrk_host (d : Dev) (t : Tracker) : (d.setTrk t).host = d.host := rfl
@[simp] theorem Dev.setTrk_eng (d : Dev) (t : Tracker) : (d.setTrk t).eng = d.eng := rfl
@[simp] theorem Dev.setTrk_recs (d : Dev) (t : Tracker) : (d.setTrk t).recs = d.recs := rfl
@[simp] theorem Dev.setTrk_test (d : Dev) (t : Tracker) : (d.setTrk t).test = d.test := rfl
@[simp] theorem Dev.setTrk_err (d : Dev) (t : Tracker) : (d.setTrk t).err = d.err := rfl
@[simp] theorem Dev.setTrk_led (d : Dev) (t : Tracker) : (d.setTrk t).led = d.led := rfl
@[simp] theorem Dev.setTrk_store (d : Dev) (t : Tracker) : (d.setTrk t).store = d.store := rfl
@[simp] theorem Dev.setTrk_book (d : Dev) (t : Tracker) : (d.setTrk t).book = d.book := rfl
@[simp] theorem Dev.setTrk_links (d : Dev) (t : Tracker) : (d.setTrk t).links = d.links := rfl
@[simp] theorem Dev.setTrk_intake (d : Dev) (t : Tracker) : (d.setTrk t).intake = d.intake := rfl
@[simp] theorem Dev.setTrk_core (d : Dev) (t : Tracker) : (d.setTrk t).core = d.core := rfl
@[simp] theorem Dev.setTrk_accts (d : Dev) (t : Tracker) : (d.setTrk t).accts = d.accts := rfl
@[simp] theorem Dev.setTrk_volt (d : Dev) (t : Tracker) : (d.setTrk t).volt = d.volt := rfl
@[simp] theorem Dev.setTrk_aux (d : Dev) (t : Tracker) : (d.setTrk t).aux = d.aux := rfl
@[simp] theorem Dev.setTrk_trk (d : Dev) (t : Tracker) : (d.setTrk t).trk = t := rfl
@[simp] theorem Dev.setTrk_pq (d : Dev) (t : Tracker) : (d.setTrk t).pq = d.pq := rfl
@[simp] theorem Dev.setTrk_cal (d : Dev) (t : Tracker) : (d.setTrk t).cal = d.cal := rfl
@[simp] theorem Dev.setTrk_pulses (d : Dev) (t : Tracker) : (d.setTrk t).pulses = d.pulses := rfl
@[simp] theorem Dev.setTrk_tariff (d : Dev) (t : Tracker) : (d.setTrk t).tariff = d.tariff := rfl
@[simp] theorem Dev.setTrk_keys (d : Dev) (t : Tracker) : (d.setTrk t).keys = d.keys := rfl
@[simp] theorem Dev.setTrk_tam (d : Dev) (t : Tracker) : (d.setTrk t).tam = d.tam := rfl
@[simp] theorem Dev.setTrk_tw (d : Dev) (t : Tracker) : (d.setTrk t).tw = d.tw := rfl
@[simp] theorem Dev.setTrk_lphy (d : Dev) (t : Tracker) : (d.setTrk t).lphy = d.lphy := rfl
@[simp] theorem Dev.setTrk_lnet (d : Dev) (t : Tracker) : (d.setTrk t).lnet = d.lnet := rfl
@[simp] theorem Dev.setTrk_stores (d : Dev) (t : Tracker) : (d.setTrk t).stores = d.stores := rfl
@[simp] theorem Dev.setTrk_free (d : Dev) (t : Tracker) : (d.setTrk t).free = d.free := rfl
@[simp] theorem Dev.setTrk_out (d : Dev) (t : Tracker) : (d.setTrk t).out = d.out := rfl

/-! ### Dev.setPq -/

@[simp] theorem Dev.setPq_pwr (d : Dev) (q : Pq) : (d.setPq q).pwr = d.pwr := rfl
@[simp] theorem Dev.setPq_host (d : Dev) (q : Pq) : (d.setPq q).host = d.host := rfl
@[simp] theorem Dev.setPq_eng (d : Dev) (q : Pq) : (d.setPq q).eng = d.eng := rfl
@[simp] theorem Dev.setPq_recs (d : Dev) (q : Pq) : (d.setPq q).recs = d.recs := rfl
@[simp] theorem Dev.setPq_test (d : Dev) (q : Pq) : (d.setPq q).test = d.test := rfl
@[simp] theorem Dev.setPq_err (d : Dev) (q : Pq) : (d.setPq q).err = d.err := rfl
@[simp] theorem Dev.setPq_led (d : Dev) (q : Pq) : (d.setPq q).led = d.led := rfl
@[simp] theorem Dev.setPq_store (d : Dev) (q : Pq) : (d.setPq q).store = d.store := rfl
@[simp] theorem Dev.setPq_book (d : Dev) (q : Pq) : (d.setPq q).book = d.book := rfl
@[simp] theorem Dev.setPq_links (d : Dev) (q : Pq) : (d.setPq q).links = d.links := rfl
@[simp] theorem Dev.setPq_intake (d : Dev) (q : Pq) : (d.setPq q).intake = d.intake := rfl
@[simp] theorem Dev.setPq_core (d : Dev) (q : Pq) : (d.setPq q).core = d.core := rfl
@[simp] theorem Dev.setPq_accts (d : Dev) (q : Pq) : (d.setPq q).accts = d.accts := rfl
@[simp] theorem Dev.setPq_volt (d : Dev) (q : Pq) : (d.setPq q).volt = d.volt := rfl
@[simp] theorem Dev.setPq_aux (d : Dev) (q : Pq) : (d.setPq q).aux = d.aux := rfl
@[simp] theorem Dev.setPq_trk (d : Dev) (q : Pq) : (d.setPq q).trk = d.trk := rfl
@[simp] theorem Dev.setPq_pq (d : Dev) (q : Pq) : (d.setPq q).pq = q := rfl
@[simp] theorem Dev.setPq_cal (d : Dev) (q : Pq) : (d.setPq q).cal = d.cal := rfl
@[simp] theorem Dev.setPq_pulses (d : Dev) (q : Pq) : (d.setPq q).pulses = d.pulses := rfl
@[simp] theorem Dev.setPq_tariff (d : Dev) (q : Pq) : (d.setPq q).tariff = d.tariff := rfl
@[simp] theorem Dev.setPq_keys (d : Dev) (q : Pq) : (d.setPq q).keys = d.keys := rfl
@[simp] theorem Dev.setPq_tam (d : Dev) (q : Pq) : (d.setPq q).tam = d.tam := rfl
@[simp] theorem Dev.setPq_tw (d : Dev) (q : Pq) : (d.setPq q).tw = d.tw := rfl
@[simp] theorem Dev.setPq_lphy (d : Dev) (q : Pq) : (d.setPq q).lphy = d.lphy := rfl
@[simp] theorem Dev.setPq_lnet (d : Dev) (q : Pq) : (d.setPq q).lnet = d.lnet := rfl
@[simp] theorem Dev.setPq_stores (d : Dev) (q : Pq) : (d.setPq q).stores = d.stores := rfl
@[simp] theorem Dev.setPq_free (d : Dev) (q : Pq) : (d.setPq q).free = d.free := rfl
@[simp] theorem Dev.setPq_out (d : Dev) (q : Pq) : (d.setPq q).out = d.out := rfl

/-! ### Dev.setTariff -/

@[simp] theorem Dev.setTariff_pwr (d : Dev) (t : Tariff) : (d.setTariff t).pwr = d.pwr := rfl
@[simp] theorem Dev.setTariff_host (d : Dev) (t : Tariff) : (d.setTariff t).host = d.host := rfl
@[simp] theorem Dev.setTariff_eng (d : Dev) (t : Tariff) : (d.setTariff t).eng = d.eng := rfl
@[simp] theorem Dev.setTariff_recs (d : Dev) (t : Tariff) : (d.setTariff t).recs = d.recs := rfl
@[simp] theorem Dev.setTariff_test (d : Dev) (t : Tariff) : (d.setTariff t).test = d.test := rfl
@[simp] theorem Dev.setTariff_err (d : Dev) (t : Tariff) : (d.setTariff t).err = d.err := rfl
@[simp] theorem Dev.setTariff_led (d : Dev) (t : Tariff) : (d.setTariff t).led = d.led := rfl
@[simp] theorem Dev.setTariff_store (d : Dev) (t : Tariff) : (d.setTariff t).store = d.store := rfl
@[simp] theorem Dev.setTariff_book (d : Dev) (t : Tariff) : (d.setTariff t).book = d.book := rfl
@[simp] theorem Dev.setTariff_links (d : Dev) (t : Tariff) : (d.setTariff t).links = d.links := rfl
@[simp] theorem Dev.setTariff_intake (d : Dev) (t : Tariff) : (d.setTariff t).intake = d.intake := rfl
@[simp] theorem Dev.setTariff_core (d : Dev) (t : Tariff) : (d.setTariff t).core = d.core := rfl
@[simp] theorem Dev.setTariff_accts (d : Dev) (t : Tariff) : (d.setTariff t).accts = d.accts := rfl
@[simp] theorem Dev.setTariff_volt (d : Dev) (t : Tariff) : (d.setTariff t).volt = d.volt := rfl
@[simp] theorem Dev.setTariff_aux (d : Dev) (t : Tariff) : (d.setTariff t).aux = d.aux := rfl
@[simp] theorem Dev.setTariff_trk (d : Dev) (t : Tariff) : (d.setTariff t).trk = d.trk := rfl
@[simp] theorem Dev.setTariff_pq (d : Dev) (t : Tariff) : (d.setTariff t).pq = d.pq := rfl
@[simp] theorem Dev.setTariff_cal (d : Dev) (t : Tariff) : (d.setTariff t).cal = d.cal := rfl
@[simp] theorem Dev.setTariff_pulses (d : Dev) (t : Tariff) : (d.setTariff t).pulses = d.pulses := rfl
@[simp] theorem Dev.setTariff_tariff (d : Dev) (t : Tariff) : (d.setTariff t).tariff = t := rfl
@[simp] theorem Dev.setTariff_keys (d : Dev) (t : Tariff) : (d.setTariff t).keys = d.keys := rfl
@[simp] theorem Dev.setTariff_tam (d : Dev) (t : Tariff) : (d.setTariff t).tam = d.tam := rfl
@[simp] theorem Dev.setTariff_tw (d : Dev) (t : Tariff) : (d.setTariff t).tw = d.tw := rfl
@[simp] theorem Dev.setTariff_lphy (d : Dev) (t : Tariff) : (d.setTariff t).lphy = d.lphy := rfl
@[simp] theorem Dev.setTariff_lnet (d : Dev) (t : Tariff) : (d.setTariff t).lnet = d.lnet := rfl
@[simp] theorem Dev.setTariff_stores (d : Dev) (t : Tariff) : (d.setTariff t).stores = d.stores := rfl
@[simp] theorem Dev.setTariff_free (d : Dev) (t : Tariff) : (d.setTariff t).free = d.free := rfl
@[simp] theorem Dev.setTariff_out (d : Dev) (t : Tariff) : (d.setTariff t).out = d.out := rfl

/-! ### Dev.updPulse -/

@[simp] theorem Dev.updPulse_pwr (d : Dev) (o : Nat) (f : Pulse → Pulse) : (d.updPulse o f).pwr = d.pwr := rfl
@[simp] theorem Dev.updPulse_host (d : Dev) (o : Nat) (f : Pulse → Pulse) : (d.updPulse o f).host = d.host := rfl
@[simp] theorem Dev.updPulse_eng (d : Dev) (o : Nat) (f : Pulse → Pulse) : (d.updPulse o f).eng = d.eng := rfl
@[simp] theorem Dev.updPulse_recs (d : Dev) (o : Nat) (f : Pulse → Pulse) : (d.updPulse o f).recs = d.recs := rfl
@[simp] theorem Dev.updPulse_test (d : Dev) (o : Nat) (f : Pulse → Pulse) : (d.updPulse o f).test = d.test := rfl
@[simp] theorem Dev.updPulse_err (d : Dev) (o : Nat) (f : Pulse → Pulse) : (d.updPulse o f).err = d.err := rfl
@[simp] theorem Dev.updPulse_led (d : Dev) (o : Nat) (f : Pulse → Pulse) : (d.updPulse o f).led = d.led := rfl
@[simp] theorem Dev.updPulse_store (d : Dev) (o : Nat) (f : Pulse → Pulse) : (d.updPulse o f).store = d.store := rfl
@[simp] theorem Dev.updPulse_book (d : Dev) (o : Nat) (f : Pulse → Pulse) : (d.updPulse o f).book = d.book := rfl
@[simp] theorem Dev.updPulse_links (d : Dev) (o : Nat) (f : Pulse → Pulse) : (d.updPulse o f).links = d.links := rfl
@[simp] theorem Dev.updPulse_intake (d : Dev) (o : Nat) (f : Pulse → Pulse) : (d.updPulse o f).intake = d.intake := rfl
@[simp] theorem Dev.updPulse_core (d : Dev) (o : Nat) (f : Pulse → Pulse) : (d.updPulse o f).core = d.core := rfl
@[simp] theorem Dev.updPulse_accts (d : Dev) (o : Nat) (f : Pulse → Pulse) : (d.updPulse o f).accts = d.accts := rfl
@[simp] theorem Dev.updPulse_volt (d : Dev) (o : Nat) (f : Pulse → Pulse) : (d.updPulse o f).volt = d.volt := rfl
@[simp] theorem Dev.updPulse_aux (d : Dev) (o : Nat) (f : Pulse → Pulse) : (d.updPulse o f).aux = d.aux := rfl
@[simp] theorem Dev.updPulse_trk (d : Dev) (o : Nat) (f : Pulse → Pulse) : (d.updPulse o f).trk = d.trk := rfl
@[simp] theorem Dev.updPulse_pq (d : Dev) (o : Nat) (f : Pulse → Pulse) : (d.updPulse o f).pq = d.pq := rfl
@[simp] theorem Dev.updPulse_cal (d : Dev) (o : Nat) (f : Pulse → Pulse) : (d.updPulse o f).cal = d.cal := rfl
@[simp] theorem Dev.updPulse_pulses (d : Dev) (o : Nat) (f : Pulse → Pulse) : (d.updPulse o f).pulses = d.pulses.set o (f (d.pulse o)) := rfl
@[simp] theorem Dev.updPulse_tariff (d : Dev) (o : Nat) (f : Pulse → Pulse) : (d.updPulse o f).tariff = d.tariff := rfl
@[simp] theorem Dev.updPulse_keys (d : Dev) (o : Nat) (f : Pulse → Pulse) : (d.updPulse o f).keys = d.keys := rfl
@[simp] theorem Dev.updPulse_tam (d : Dev) (o : Nat) (f : Pulse → Pulse) : (d.updPulse o f).tam = d.tam := rfl
@[simp] theorem Dev.updPulse_tw (d : Dev) (o : Nat) (f : Pulse → Pulse) : (d.updPulse o f).tw = d.tw := rfl
@[simp] theorem Dev.updPulse_lphy (d : Dev) (o : Nat) (f : Pulse → Pulse) : (d.updPulse o f).lphy = d.lphy := rfl
@[simp] theorem Dev.updPulse_lnet (d : Dev) (o : Nat) (f : Pulse → Pulse) : (d.updPulse o f).lnet = d.lnet := rfl
@[simp] theorem Dev.updPulse_stores (d : Dev) (o : Nat) (f : Pulse → Pulse) : (d.updPulse o f).stores = d.stores := rfl
@[simp] theorem Dev.updPulse_free (d : Dev) (o : Nat) (f : Pulse → Pulse) : (d.updPulse o f).free = d.free := rfl
@[simp] theorem Dev.updPulse_out (d : Dev) (o : Nat) (f : Pulse → Pulse) : (d.updPulse o f).out = d.out := rfl

/-! ### Dev.setTw -/

@[simp] theorem Dev.setTw_pwr (d : Dev) (t : TwoWire) : (d.setTw t).pwr = d.pwr := rfl
@[simp] theorem Dev.setTw_host (d : Dev) (t : TwoWire) : (d.setTw t).host = d.host := rfl
@[simp] theorem Dev.setTw_eng (d : Dev) (t : TwoWire) : (d.setTw t).eng = d.eng := rfl
@[simp] theorem Dev.setTw_recs (d : Dev) (t : TwoWire) : (d.setTw t).recs = d.recs := rfl
@[simp] theorem Dev.setTw_test (d : Dev) (t : TwoWire) : (d.setTw t).test = d.test := rfl
@[simp] theorem Dev.setTw_err (d : Dev) (t : TwoWire) : (d.setTw t).err = d.err := rfl
@[simp] theorem Dev.setTw_led (d : Dev) (t : TwoWire) : (d.setTw t).led = d.led := rfl
@[simp] theorem Dev.setTw_store (d : Dev) (t : TwoWire) : (d.setTw t).store = d.store := rfl
@[simp] theorem Dev.setTw_book (d : Dev) (t : TwoWire) : (d.setTw t).book = d.book := rfl
@[simp] theorem Dev.setTw_links (d : Dev) (t : TwoWire) : (d.setTw t).links = d.links := rfl
@[simp] theorem Dev.setTw_intake (d : Dev) (t : TwoWire) : (d.setTw t).intake = d.intake := rfl
@[simp] theorem Dev.setTw_core (d : Dev) (t : TwoWire) : (d.setTw t).core = d.core := rfl
@[simp] theorem Dev.setTw_accts (d : Dev) (t : TwoWire) : (d.setTw t).accts = d.accts := rfl
@[simp] theorem Dev.setTw_volt (d : Dev) (t : TwoWire) : (d.setTw t).volt = d.volt := rfl
@[simp] theorem Dev.setTw_aux (d : Dev) (t : TwoWire) : (d.setTw t).aux = d.aux := rfl
@[simp] theorem Dev.setTw_trk (d : Dev) (t : TwoWire) : (d.setTw t).trk = d.trk := rfl
@[simp] theorem Dev.setTw_pq (d : Dev) (t : TwoWire) : (d.setTw t).pq = d.pq := rfl
@[simp] theorem Dev.setTw_cal (d : Dev) (t : TwoWire) : (d.setTw t).cal = d.cal := rfl
@[simp] theorem Dev.setTw_pulses (d : Dev) (t : TwoWire) : (d.setTw t).pulses = d.pulses := rfl
@[simp] theorem Dev.setTw_tariff (d : Dev) (t : TwoWire) : (d.setTw t).tariff = d.tariff := rfl
@[simp] theorem Dev.setTw_keys (d : Dev) (t : TwoWire) : (d.setTw t).keys = d.keys := rfl
@[simp] theorem Dev.setTw_tam (d : Dev) (t : TwoWire) : (d.setTw t).tam = d.tam := rfl
@[simp] theorem Dev.setTw_tw (d : Dev) (t : TwoWire) : (d.setTw t).tw = t := rfl
@[simp] theorem Dev.setTw_lphy (d : Dev) (t : TwoWire) : (d.setTw t).lphy = d.lphy := rfl
@[simp] theorem Dev.setTw_lnet (d : Dev) (t : TwoWire) : (d.setTw t).lnet = d.lnet := rfl
@[simp] theorem Dev.setTw_stores (d : Dev) (t : TwoWire) : (d.setTw t).stores = d.stores := rfl
@[simp] theorem Dev.setTw_free (d : Dev) (t : TwoWire) : (d.setTw t).free = d.free := rfl
@[simp] theorem Dev.setTw_out (d : Dev) (t : TwoWire) : (d.setTw t).out = d.out := rfl

/-! ### Dev.setPhy -/

@[simp] theorem Dev.setPhy_pwr (d : Dev) (l : LinePhy) : (d.setPhy l).pwr = d.pwr := rfl
@[simp] theorem Dev.setPhy_host (d : Dev) (l : LinePhy) : (d.setPhy l).host = d.host := rfl
@[simp] theorem Dev.setPhy_eng (d : Dev) (l : LinePhy) : (d.setPhy l).eng = d.eng := rfl
@[simp] theorem Dev.setPhy_recs (d : Dev) (l : LinePhy) : (d.setPhy l).recs = d.recs := rfl
@[simp] theorem Dev.setPhy_test (d : Dev) (l : LinePhy) : (d.setPhy l).test = d.test := rfl
@[simp] theorem Dev.setPhy_err (d : Dev) (l : LinePhy) : (d.setPhy l).err = d.err := rfl
@[simp] theorem Dev.setPhy_led (d : Dev) (l : LinePhy) : (d.setPhy l).led = d.led := rfl
@[simp] theorem Dev.setPhy_store (d : Dev) (l : LinePhy) : (d.setPhy l).store = d.store := rfl
@[simp] theorem Dev.setPhy_book (d : Dev) (l : LinePhy) : (d.setPhy l).book = d.book := rfl
@[simp] theorem Dev.setPhy_links (d : Dev) (l : LinePhy) : (d.setPhy l).links = d.links := rfl
@[simp] theorem Dev.setPhy_intake (d : Dev) (l : LinePhy) : (d.setPhy l).intake = d.intake := rfl
@[simp] theorem Dev.setPhy_core (d : Dev) (l : LinePhy) : (d.setPhy l).core = d.core := rfl
@[simp] theorem Dev.setPhy_accts (d : Dev) (l : LinePhy) : (d.setPhy l).accts = d.accts := rfl
@[simp] theorem Dev.setPhy_volt (d : Dev) (l : LinePhy) : (d.setPhy l).volt = d.volt := rfl
@[simp] theorem Dev.setPhy_aux (d : Dev) (l : LinePhy) : (d.setPhy l).aux = d.aux := rfl
@[simp] theorem Dev.setPhy_trk (d : Dev) (l : LinePhy) : (d.setPhy l).trk = d.trk := rfl
@[simp] theorem Dev.setPhy_pq (d : Dev) (l : LinePhy) : (d.setPhy l).pq = d.pq := rfl
@[simp] theorem Dev.setPhy_cal (d : Dev) (l : LinePhy) : (d.setPhy l).cal = d.cal := rfl
@[simp] theorem Dev.setPhy_pulses (d : Dev) (l : LinePhy) : (d.setPhy l).pulses = d.pulses := rfl
@[simp] theorem Dev.setPhy_tariff (d : Dev) (l : LinePhy) : (d.setPhy l).tariff = d.tariff := rfl
@[simp] theorem Dev.setPhy_keys (d : Dev) (l : LinePhy) : (d.setPhy l).keys = d.keys := rfl
@[simp] theorem Dev.setPhy_tam (d : Dev) (l : LinePhy) : (d.setPhy l).tam = d.tam := rfl
@[simp] theorem Dev.setPhy_tw (d : Dev) (l : LinePhy) : (d.setPhy l).tw = d.tw := rfl
@[simp] theorem Dev.setPhy_lphy (d : Dev) (l : LinePhy) : (d.setPhy l).lphy = l := rfl
@[simp] theorem Dev.setPhy_lnet (d : Dev) (l : LinePhy) : (d.setPhy l).lnet = d.lnet := rfl
@[simp] theorem Dev.setPhy_stores (d : Dev) (l : LinePhy) : (d.setPhy l).stores = d.stores := rfl
@[simp] theorem Dev.setPhy_free (d : Dev) (l : LinePhy) : (d.setPhy l).free = d.free := rfl
@[simp] theorem Dev.setPhy_out (d : Dev) (l : LinePhy) : (d.setPhy l).out = d.out := rfl

/-! ### Dev.setNet -/

@[simp] theorem Dev.setNet_pwr (d : Dev) (l : LineNet) : (d.setNet l).pwr = d.pwr := rfl
@[simp] theorem Dev.setNet_host (d : Dev) (l : LineNet) : (d.setNet l).host = d.host := rfl
@[simp] theorem Dev.setNet_eng (d : Dev) (l : LineNet) : (d.setNet l).eng = d.eng := rfl
@[simp] theorem Dev.setNet_recs (d : Dev) (l : LineNet) : (d.setNet l).recs = d.recs := rfl
@[simp] theorem Dev.setNet_test (d : Dev) (l : LineNet) : (d.setNet l).test = d.test := rfl
@[simp] theorem Dev.setNet_err (d : Dev) (l : LineNet) : (d.setNet l).err = d.err := rfl
@[simp] theorem Dev.setNet_led (d : Dev) (l : LineNet) : (d.setNet l).led = d.led := rfl
@[simp] theorem Dev.setNet_store (d : Dev) (l : LineNet) : (d.setNet l).store = d.store := rfl
@[simp] theorem Dev.setNet_book (d : Dev) (l : LineNet) : (d.setNet l).book = d.book := rfl
@[simp] theorem Dev.setNet_links (d : Dev) (l : LineNet) : (d.setNet l).links = d.links := rfl
@[simp] theorem Dev.setNet_intake (d : Dev) (l : LineNet) : (d.setNet l).intake = d.intake := rfl
@[simp] theorem Dev.setNet_core (d : Dev) (l : LineNet) : (d.setNet l).core = d.core := rfl
@[simp] theorem Dev.setNet_accts (d : Dev) (l : LineNet) : (d.setNet l).accts = d.accts := rfl
@[simp] theorem Dev.setNet_volt (d : Dev) (l : LineNet) : (d.setNet l).volt = d.volt := rfl
@[simp] theorem Dev.setNet_aux (d : Dev) (l : LineNet) : (d.setNet l).aux = d.aux := rfl
@[simp] theorem Dev.setNet_trk (d : Dev) (l : LineNet) : (d.setNet l).trk = d.trk := rfl
@[simp] theorem Dev.setNet_pq (d : Dev) (l : LineNet) : (d.setNet l).pq = d.pq := rfl
@[simp] theorem Dev.setNet_cal (d : Dev) (l : LineNet) : (d.setNet l).cal = d.cal := rfl
@[simp] theorem Dev.setNet_pulses (d : Dev) (l : LineNet) : (d.setNet l).pulses = d.pulses := rfl
@[simp] theorem Dev.setNet_tariff (d : Dev) (l : LineNet) : (d.setNet l).tariff = d.tariff := rfl
@[simp] theorem Dev.setNet_keys (d : Dev) (l : LineNet) : (d.setNet l).keys = d.keys := rfl
@[simp] theorem Dev.setNet_tam (d : Dev) (l : LineNet) : (d.setNet l).tam = d.tam := rfl
@[simp] theorem Dev.setNet_tw (d : Dev) (l : LineNet) : (d.setNet l).tw = d.tw := rfl
@[simp] theorem Dev.setNet_lphy (d : Dev) (l : LineNet) : (d.setNet l).lphy = d.lphy := rfl
@[simp] theorem Dev.setNet_lnet (d : Dev) (l : LineNet) : (d.setNet l).lnet = l := rfl
@[simp] theorem Dev.setNet_stores (d : Dev) (l : LineNet) : (d.setNet l).stores = d.stores := rfl
@[simp] theorem Dev.setNet_free (d : Dev) (l : LineNet) : (d.setNet l).free = d.free := rfl
@[simp] theorem Dev.setNet_out (d : Dev) (l : LineNet) : (d.setNet l).out = d.out := rfl

/-! ### A free value -/

@[simp] theorem Dev.draw_pwr (d : Dev) : d.draw.1.pwr = d.pwr := rfl
@[simp] theorem Dev.draw_host (d : Dev) : d.draw.1.host = d.host := rfl
@[simp] theorem Dev.draw_eng (d : Dev) : d.draw.1.eng = d.eng := rfl
@[simp] theorem Dev.draw_recs (d : Dev) : d.draw.1.recs = d.recs := rfl
@[simp] theorem Dev.draw_test (d : Dev) : d.draw.1.test = d.test := rfl
@[simp] theorem Dev.draw_err (d : Dev) : d.draw.1.err = d.err := rfl
@[simp] theorem Dev.draw_led (d : Dev) : d.draw.1.led = d.led := rfl
@[simp] theorem Dev.draw_store (d : Dev) : d.draw.1.store = d.store := rfl
@[simp] theorem Dev.draw_book (d : Dev) : d.draw.1.book = d.book := rfl
@[simp] theorem Dev.draw_links (d : Dev) : d.draw.1.links = d.links := rfl
@[simp] theorem Dev.draw_intake (d : Dev) : d.draw.1.intake = d.intake := rfl
@[simp] theorem Dev.draw_core (d : Dev) : d.draw.1.core = d.core := rfl
@[simp] theorem Dev.draw_accts (d : Dev) : d.draw.1.accts = d.accts := rfl
@[simp] theorem Dev.draw_volt (d : Dev) : d.draw.1.volt = d.volt := rfl
@[simp] theorem Dev.draw_aux (d : Dev) : d.draw.1.aux = d.aux := rfl
@[simp] theorem Dev.draw_trk (d : Dev) : d.draw.1.trk = d.trk := rfl
@[simp] theorem Dev.draw_pq (d : Dev) : d.draw.1.pq = d.pq := rfl
@[simp] theorem Dev.draw_cal (d : Dev) : d.draw.1.cal = d.cal := rfl
@[simp] theorem Dev.draw_pulses (d : Dev) : d.draw.1.pulses = d.pulses := rfl
@[simp] theorem Dev.draw_tariff (d : Dev) : d.draw.1.tariff = d.tariff := rfl
@[simp] theorem Dev.draw_keys (d : Dev) : d.draw.1.keys = d.keys := rfl
@[simp] theorem Dev.draw_tam (d : Dev) : d.draw.1.tam = d.tam := rfl
@[simp] theorem Dev.draw_tw (d : Dev) : d.draw.1.tw = d.tw := rfl
@[simp] theorem Dev.draw_lphy (d : Dev) : d.draw.1.lphy = d.lphy := rfl
@[simp] theorem Dev.draw_lnet (d : Dev) : d.draw.1.lnet = d.lnet := rfl
@[simp] theorem Dev.draw_stores (d : Dev) : d.draw.1.stores = d.stores := rfl
@[simp] theorem Dev.draw_free (d : Dev) : d.draw.1.free = d.free + 1 := rfl
@[simp] theorem Dev.draw_out (d : Dev) : d.draw.1.out = d.out := rfl

end Sys2Proof.Machine
end

