-- ==== Sys2Proof/Laws/Exec.lean ====
section
/-!
SUPPORT. Laws/Exec.lean: what every command can do to the parts of the state outside the device.
-/
namespace Sys2Proof.Machine

/-- A next state in which only the device has changed. -/
def Plain (s : State) (o : Host.Outcome State Fault Refusal) : Prop := ∃ d, o = s.ok d

/-- A next state in which only the device and the boot image area have changed: bytes a command stored have arrived there, or,
where power-up begins, it is all 0. -/
def Shaped (s : State) (o : Host.Outcome State Fault Refusal) : Prop := ∃ d, o = s.ok d ∨ o = s.stored d ∨ o = s.fresh d

theorem Plain.ok (s : State) (d : Dev) : Plain s (s.ok d) := ⟨d, rfl⟩
theorem Shaped.ok (s : State) (d : Dev) : Shaped s (s.ok d) := ⟨d, .inl rfl⟩
theorem Shaped.stored (s : State) (d : Dev) : Shaped s (s.stored d) := ⟨d, .inr (.inl rfl)⟩
theorem Shaped.fresh (s : State) (d : Dev) : Shaped s (s.fresh d) := ⟨d, .inr (.inr rfl)⟩

theorem Plain.shaped {s : State} {o : Host.Outcome State Fault Refusal} (h : Plain s o) : Shaped s o :=
  h.elim fun d hd => ⟨d, .inl hd⟩

/-- A shaped outcome is a next state with the queue as before. -/
theorem Shaped.next {s : State} {o : Host.Outcome State Fault Refusal} (h : Shaped s o) :
    ∃ t, o = .next t ∧ t.pending = s.pending := by
  obtain ⟨d, rfl | rfl | rfl⟩ := h <;> exact ⟨_, rfl, rfl⟩

/-- A shaped outcome keeps the invariant. -/
theorem Shaped.inv {s t : State} {o : Host.Outcome State Fault Refusal} (h : Shaped s o) (hi : s.Inv) (ho : o = .next t) : t.Inv := by
  obtain ⟨d, rfl | rfl | rfl⟩ := h <;> cases ho
  · exact ⟨hi.1, rfl⟩
  · exact ⟨wf_storeCells _ hi.1, rfl⟩
  · exact ⟨rfl, rfl⟩

/-- A plain outcome leaves the boot image area alone. -/
theorem Plain.boot {s t : State} {o : Host.Outcome State Fault Refusal} (h : Plain s o) (ho : o = .next t) : t.boot = s.boot := by
  obtain ⟨d, rfl⟩ := h
  cases ho
  rfl

/-- A command that answers `s.ok d` completes with what holds of that state. -/
theorem Runs.ok {c : Instr} {s : State} {P : State → Prop} (d : Dev) (h : exec c s = s.ok d)
    (hp : P { s with dev := { d with stores := [] } }) : Runs c s P := ⟨_, h, hp⟩

/-- A command that answers `s.stored d` completes with what holds of that state. -/
theorem Runs.stored {c : Instr} {s : State} {P : State → Prop} (d : Dev) (h : exec c s = s.stored d)
    (hp : P { s with dev := { d with stores := [] }, boot := storeCells d.stores s.boot }) : Runs c s P := ⟨_, h, hp⟩

/-- A command that answers `s.fresh d` completes with what holds of that state. -/
theorem Runs.fresh {c : Instr} {s : State} {P : State → Prop} (d : Dev) (h : exec c s = s.fresh d)
    (hp : P { s with dev := { d with stores := [] }, boot := [] }) : Runs c s P := ⟨_, h, hp⟩

/-! ### Each command -/

theorem execAlwaysOnPor_shaped (p : Straps) (mainsOk : Bool) (s : State) : Shaped s (execAlwaysOnPor p mainsOk s) := by
  dsimp only [execAlwaysOnPor]; (repeat' split) <;> first | exact Shaped.ok _ _ | exact Shaped.fresh _ _
theorem execResetN_shaped (p : Straps) (mainsOk : Bool) (micros : Nat) (s : State) : Shaped s (execResetN p mainsOk micros s) := by
  dsimp only [execResetN]; (repeat' split) <;> first | exact Shaped.ok _ _ | exact Shaped.fresh _ _
theorem execConfigRecallDone_plain (bad : List SlotBad) (s : State) : Plain s (execConfigRecallDone bad s) := by
  dsimp only [execConfigRecallDone]; (repeat' split) <;> exact Plain.ok _ _
theorem execLedgerRecallDone_plain (bad : List BlockBad) (s : State) : Plain s (execLedgerRecallDone bad s) := by
  dsimp only [execLedgerRecallDone]; (repeat' split) <;> exact Plain.ok _ _
theorem execPowerUpTestEnd_plain (s : State) : Plain s (execPowerUpTestEnd s) := by
  dsimp only [execPowerUpTestEnd]; (repeat' split) <;> exact Plain.ok _ _
theorem execAccumulationStart_plain (s : State) : Plain s (execAccumulationStart s) := by
  dsimp only [execAccumulationStart]; (repeat' split) <;> exact Plain.ok _ _
theorem execStandaloneNegotiation_plain (s : State) : Plain s (execStandaloneNegotiation s) := by
  dsimp only [execStandaloneNegotiation]; (repeat' split) <;> exact Plain.ok _ _
theorem execSamplePeriod_plain (x : Sample) (s : State) : Plain s (execSamplePeriod x s) := by
  dsimp only [execSamplePeriod]; (repeat' split) <;> exact Plain.ok _ _
theorem execCommitTick_plain (s : State) : Plain s (execCommitTick s) := by
  dsimp only [execCommitTick]; (repeat' split) <;> exact Plain.ok _ _
theorem execCommitComplete_plain (s : State) : Plain s (execCommitComplete s) := by
  dsimp only [execCommitComplete]; (repeat' split) <;> exact Plain.ok _ _
theorem execHoldEntry_plain (vdd33 : Nat) (lowTenths : Nat) (s : State) : Plain s (execHoldEntry vdd33 lowTenths s) := by
  dsimp only [execHoldEntry]; (repeat' split) <;> exact Plain.ok _ _
theorem execVddaLow_plain (tenths : Nat) (s : State) : Plain s (execVddaLow tenths s) := by
  dsimp only [execVddaLow]; (repeat' split) <;> exact Plain.ok _ _
theorem execFinalCommitDone_plain (s : State) : Plain s (execFinalCommitDone s) := by
  dsimp only [execFinalCommitDone]; (repeat' split) <;> exact Plain.ok _ _
theorem execBackupEntry_plain (s : State) : Plain s (execBackupEntry s) := by
  dsimp only [execBackupEntry]; (repeat' split) <;> exact Plain.ok _ _
theorem execBackupExit_plain (s : State) : Plain s (execBackupExit s) := by
  dsimp only [execBackupExit]; (repeat' split) <;> exact Plain.ok _ _
theorem execOffEntry_plain (s : State) : Plain s (execOffEntry s) := by
  dsimp only [execOffEntry]; (repeat' split) <;> exact Plain.ok _ _
theorem execHoldExit_shaped (micros : Nat) (vdd33 : Nat) (vdda : Nat) (s : State) :
    Shaped s (execHoldExit micros vdd33 vdda s) := by
  dsimp only [execHoldExit]; (repeat' split) <;> first | exact Shaped.ok _ _ | exact Shaped.fresh _ _
theorem execMetrologyClockLost_plain (l : ClockLook) (s : State) : Plain s (execMetrologyClockLost l s) := by
  dsimp only [execMetrologyClockLost]; (repeat' split) <;> exact Plain.ok _ _
theorem execMetrologyClockReturn_shaped (s : State) : Shaped s (execMetrologyClockReturn s) := by
  dsimp only [execMetrologyClockReturn]; (repeat' split) <;> first | exact Shaped.ok _ _ | exact Shaped.fresh _ _
theorem execXt32Fail_plain (micros : Nat) (s : State) : Plain s (execXt32Fail micros s) := by
  dsimp only [execXt32Fail]; (repeat' split) <;> exact Plain.ok _ _
theorem execXt32Restored_plain (cycles : Nat) (shortest : Nat) (longest : Nat) (s : State) :
    Plain s (execXt32Restored cycles shortest longest s) := by
  dsimp only [execXt32Restored]; (repeat' split) <;> exact Plain.ok _ _
theorem execVbatLow_plain (mv : Nat) (s : State) : Plain s (execVbatLow mv s) := by
  dsimp only [execVbatLow]; (repeat' split) <;> exact Plain.ok _ _
theorem execDozeEntry_plain (s : State) : Plain s (execDozeEntry s) := by
  dsimp only [execDozeEntry]; (repeat' split) <;> exact Plain.ok _ _
theorem execPreWake_plain (tx : Bool) (s : State) : Plain s (execPreWake tx s) := by
  dsimp only [execPreWake]; (repeat' split) <;> exact Plain.ok _ _
theorem execPllLock_plain (locked : Bool) (s : State) : Plain s (execPllLock locked s) := by
  dsimp only [execPllLock]; (repeat' split) <;> exact Plain.ok _ _
theorem execFastSleep_plain (s : State) : Plain s (execFastSleep s) := by
  dsimp only [execFastSleep]; (repeat' split) <;> exact Plain.ok _ _
theorem execBackstopEntry_plain (s : State) : Plain s (execBackstopEntry s) := by
  dsimp only [execBackstopEntry]; (repeat' split) <;> exact Plain.ok _ _
theorem execFastLogicFault_plain (unit : Fin 6) (s : State) : Plain s (execFastLogicFault unit s) := by
  dsimp only [execFastLogicFault]; (repeat' split) <;> exact Plain.ok _ _
theorem execSampleRelease_plain (n : Fin 16) (s : State) : Plain s (execSampleRelease n s) := by
  dsimp only [execSampleRelease]; (repeat' split) <;> exact Plain.ok _ _
theorem execRelayMismatch_plain (n : Fin 16) (r : Fin 12) (s : State) : Plain s (execRelayMismatch n r s) := by
  dsimp only [execRelayMismatch]; (repeat' split) <;> exact Plain.ok _ _
theorem execDnShort_plain (n : Fin 16) (common : Nat) (limit : Bool) (tenths : Nat) (s : State) :
    Plain s (execDnShort n common limit tenths s) := by
  dsimp only [execDnShort]; (repeat' split) <;> exact Plain.ok _ _
theorem execDnShortRetry_plain (n : Fin 16) (s : State) : Plain s (execDnShortRetry n s) := by
  dsimp only [execDnShortRetry]; (repeat' split) <;> exact Plain.ok _ _
theorem execDnShortClear_plain (n : Fin 16) (s : State) : Plain s (execDnShortClear n s) := by
  dsimp only [execDnShortClear]; (repeat' split) <;> exact Plain.ok _ _
theorem execChFlatline_plain (c : Fin 196) (s : State) : Plain s (execChFlatline c s) := by
  dsimp only [execChFlatline]; (repeat' split) <;> exact Plain.ok _ _
theorem execChFlatlineEnd_plain (c : Fin 196) (s : State) : Plain s (execChFlatlineEnd c s) := by
  dsimp only [execChFlatlineEnd]; (repeat' split) <;> exact Plain.ok _ _
theorem execChOverloadEnd_plain (c : Fin 196) (s : State) : Plain s (execChOverloadEnd c s) := by
  dsimp only [execChOverloadEnd]; (repeat' split) <;> exact Plain.ok _ _
theorem execDmLock_plain (x : Fin 4) (s : State) : Plain s (execDmLock x s) := by
  dsimp only [execDmLock]; (repeat' split) <;> exact Plain.ok _ _
theorem execDmInputLost_plain (x : Fin 4) (s : State) : Plain s (execDmInputLost x s) := by
  dsimp only [execDmInputLost]; (repeat' split) <;> exact Plain.ok _ _
theorem execDmAlignError_plain (x : Fin 4) (s : State) : Plain s (execDmAlignError x s) := by
  dsimp only [execDmAlignError]; (repeat' split) <;> exact Plain.ok _ _
theorem execUmpireBlock_plain (s : State) : Plain s (execUmpireBlock s) := by
  dsimp only [execUmpireBlock]; (repeat' split) <;> exact Plain.ok _ _
theorem execReferenceTestEnd_plain (s : State) : Plain s (execReferenceTestEnd s) := by
  dsimp only [execReferenceTestEnd]; (repeat' split) <;> exact Plain.ok _ _
theorem execConverterRetest_plain (conv : Fin 2) (s : State) : Plain s (execConverterRetest conv s) := by
  dsimp only [execConverterRetest]; (repeat' split) <;> exact Plain.ok _ _
theorem execConverterRetestEnd_plain (conv : Fin 2) (s : State) : Plain s (execConverterRetestEnd conv s) := by
  dsimp only [execConverterRetestEnd]; (repeat' split) <;> exact Plain.ok _ _
theorem execVchkWatch_plain (s : State) : Plain s (execVchkWatch s) := by
  dsimp only [execVchkWatch]; (repeat' split) <;> exact Plain.ok _ _
theorem execVinClipEnd_plain (c : Fin 4) (s : State) : Plain s (execVinClipEnd c s) := by
  dsimp only [execVinClipEnd]; (repeat' split) <;> exact Plain.ok _ _
theorem execVinOpenTest_plain (c : Fin 4) (s : State) : Plain s (execVinOpenTest c s) := by
  dsimp only [execVinOpenTest]; (repeat' split) <;> exact Plain.ok _ _
theorem execVinOpenTestEnd_plain (c : Fin 4) (shift : Int) (s : State) : Plain s (execVinOpenTestEnd c shift s) := by
  dsimp only [execVinOpenTestEnd]; (repeat' split) <;> exact Plain.ok _ _
theorem execCompCrossing_plain (n : Fin 4) (nanovolts : Nat) (tenths : Nat) (s : State) :
    Plain s (execCompCrossing n nanovolts tenths s) := by
  dsimp only [execCompCrossing]; (repeat' split) <;> exact Plain.ok _ _
theorem execAuxConversion_plain (c : AuxStep) (s : State) : Plain s (execAuxConversion c s) := by
  dsimp only [execAuxConversion]; (repeat' split) <;> exact Plain.ok _ _
theorem execReverseCurrent_plain (a : Fin 64) (k : Fin 3) (s : State) : Plain s (execReverseCurrent a k s) := by
  dsimp only [execReverseCurrent]; (repeat' split) <;> exact Plain.ok _ _
theorem execReversalEnd_plain (a : Fin 64) (k : Fin 3) (s : State) : Plain s (execReversalEnd a k s) := by
  dsimp only [execReversalEnd]; (repeat' split) <;> exact Plain.ok _ _
theorem execCrossingConfirmed_plain (s : State) : Plain s (execCrossingConfirmed s) := by
  dsimp only [execCrossingConfirmed]; (repeat' split) <;> exact Plain.ok _ _
theorem execLockLoss_plain (s : State) : Plain s (execLockLoss s) := by
  dsimp only [execLockLoss]; (repeat' split) <;> exact Plain.ok _ _
theorem execFreeRunBoundary_plain (s : State) : Plain s (execFreeRunBoundary s) := by
  dsimp only [execFreeRunBoundary]; (repeat' split) <;> exact Plain.ok _ _
theorem execPreviewInstant_plain (s : State) : Plain s (execPreviewInstant s) := by
  dsimp only [execPreviewInstant]; (repeat' split) <;> exact Plain.ok _ _
theorem execRetractNoCrossing_plain (s : State) : Plain s (execRetractNoCrossing s) := by
  dsimp only [execRetractNoCrossing]; (repeat' split) <;> exact Plain.ok _ _
theorem execSecondBoundary_plain (s : State) : Plain s (execSecondBoundary s) := by
  dsimp only [execSecondBoundary]; (repeat' split) <;> exact Plain.ok _ _
theorem execHarmonicWindow_plain (s : State) : Plain s (execHarmonicWindow s) := by
  dsimp only [execHarmonicWindow]; (repeat' split) <;> exact Plain.ok _ _
theorem execCaptureDelivery_plain (s : State) : Plain s (execCaptureDelivery s) := by
  dsimp only [execCaptureDelivery]; (repeat' split) <;> exact Plain.ok _ _
theorem execSealOpen_plain (micros : Nat) (s : State) : Plain s (execSealOpen micros s) := by
  dsimp only [execSealOpen]; (repeat' split) <;> exact Plain.ok _ _
theorem execSealClose_plain (s : State) : Plain s (execSealClose s) := by
  dsimp only [execSealClose]; (repeat' split) <;> exact Plain.ok _ _
theorem execPulseWidthEnd_plain (o : Fin 8) (s : State) : Plain s (execPulseWidthEnd o s) := by
  dsimp only [execPulseWidthEnd]; (repeat' split) <;> exact Plain.ok _ _
theorem execPulseSaturatedEnd_plain (o : Fin 8) (s : State) : Plain s (execPulseSaturatedEnd o s) := by
  dsimp only [execPulseSaturatedEnd]; (repeat' split) <;> exact Plain.ok _ _
theorem execPulseShort_plain (o : Fin 8) (tenths : Nat) (s : State) : Plain s (execPulseShort o tenths s) := by
  dsimp only [execPulseShort]; (repeat' split) <;> exact Plain.ok _ _
theorem execPulseShortRetry_plain (o : Fin 8) (s : State) : Plain s (execPulseShortRetry o s) := by
  dsimp only [execPulseShortRetry]; (repeat' split) <;> exact Plain.ok _ _
theorem execPulseShortClear_plain (o : Fin 8) (s : State) : Plain s (execPulseShortClear o s) := by
  dsimp only [execPulseShortClear]; (repeat' split) <;> exact Plain.ok _ _
theorem execGroupWriteDone_plain (good : Bool) (s : State) : Plain s (execGroupWriteDone good s) := by
  dsimp only [execGroupWriteDone]; (repeat' split) <;> exact Plain.ok _ _
theorem execSectorEraseDone_plain (s : State) : Plain s (execSectorEraseDone s) := by
  dsimp only [execSectorEraseDone]; (repeat' split) <;> exact Plain.ok _ _
theorem execMarginPass_plain (found : List MarginFind) (s : State) : Plain s (execMarginPass found s) := by
  dsimp only [execMarginPass]; (repeat' split) <;> exact Plain.ok _ _
theorem execRefreshForward_plain (good : Bool) (s : State) : Plain s (execRefreshForward good s) := by
  dsimp only [execRefreshForward]; (repeat' split) <;> exact Plain.ok _ _
theorem execLedgerScrub_plain (found : List ScrubFind) (s : State) : Plain s (execLedgerScrub found s) := by
  dsimp only [execLedgerScrub]; (repeat' split) <;> exact Plain.ok _ _
theorem execSramScrub_plain (staging : List StagingFind) (rings : List (Nat × Nat)) (s : State) :
    Plain s (execSramScrub staging rings s) := by
  dsimp only [execSramScrub]; (repeat' split) <;> exact Plain.ok _ _
theorem execDemandIntervalClose_plain (s : State) : Plain s (execDemandIntervalClose s) := by
  dsimp only [execDemandIntervalClose]; (repeat' split) <;> exact Plain.ok _ _
theorem execLoadReclose_plain (a : Fin 65) (s : State) : Plain s (execLoadReclose a s) := by
  dsimp only [execLoadReclose]; (repeat' split) <;> exact Plain.ok _ _
theorem execFriendlyHoursEnd_plain (s : State) : Plain s (execFriendlyHoursEnd s) := by
  dsimp only [execFriendlyHoursEnd]; (repeat' split) <;> exact Plain.ok _ _
theorem execGridFallback_plain (s : State) : Plain s (execGridFallback s) := by
  dsimp only [execGridFallback]; (repeat' split) <;> exact Plain.ok _ _
theorem execSnapshotSigned_plain (s : State) : Plain s (execSnapshotSigned s) := by
  dsimp only [execSnapshotSigned]; (repeat' split) <;> exact Plain.ok _ _
theorem execTamperWindow_plain (inputs : List TamperReading) (calEn : Bool) (s : State) :
    Plain s (execTamperWindow inputs calEn s) := by
  dsimp only [execTamperWindow]; (repeat' split) <;> exact Plain.ok _ _
theorem execBatteryCheck_plain (mv : Int) (s : State) : Plain s (execBatteryCheck mv s) := by
  dsimp only [execBatteryCheck]; (repeat' split) <;> exact Plain.ok _ _
theorem execGo_shaped (w : RegVal) (s : State) : Shaped s (execGo w s) := by
  dsimp only [execGo]; (repeat' split) <;> exact Shaped.stored _ _
theorem execNegotiationComplete_shaped (ctx : List HostRead) (s : State) : Shaped s (execNegotiationComplete ctx s) := by
  dsimp only [execNegotiationComplete]; (repeat' split) <;> exact Shaped.stored _ _
theorem execSoftReset_shaped (w : RegVal) (s : State) : Shaped s (execSoftReset w s) := by
  dsimp only [execSoftReset]; (repeat' split) <;> exact Shaped.stored _ _
theorem execCauseW1c_plain (w : RegVal) (s : State) : Plain s (execCauseW1c w s) := by
  dsimp only [execCauseW1c]; (repeat' split) <;> exact Plain.ok _ _
theorem execMovectlGo_shaped (w : RegVal) (s : State) : Shaped s (execMovectlGo w s) := by
  dsimp only [execMovectlGo]; (repeat' split) <;> exact Shaped.stored _ _
theorem execMovectlDrop_shaped (w : RegVal) (s : State) : Shaped s (execMovectlDrop w s) := by
  dsimp only [execMovectlDrop]; (repeat' split) <;> exact Shaped.stored _ _
theorem execMoveDone_shaped (data : List Byte) (okay : Bool) (bad : List ScrubFind) (s : State) :
    Shaped s (execMoveDone data okay bad s) := by
  dsimp only [execMoveDone]; (repeat' split) <;> exact Shaped.stored _ _
theorem execRegisterWrite_shaped (off : Nat) (wellFormed : Bool) (w : RegVal) (s : State) :
    Shaped s (execRegisterWrite off wellFormed w s) := by
  dsimp only [execRegisterWrite]; (repeat' split) <;> exact Shaped.stored _ _
theorem execMsixHoldoff_plain (f : Nat) (v : Nat) (s : State) : Plain s (execMsixHoldoff f v s) := by
  dsimp only [execMsixHoldoff]; (repeat' split) <;> exact Plain.ok _ _
theorem execHostPortDown_plain (s : State) : Plain s (execHostPortDown s) := by
  dsimp only [execHostPortDown]; (repeat' split) <;> exact Plain.ok _ _
theorem execHostPortFail_plain (s : State) : Plain s (execHostPortFail s) := by
  dsimp only [execHostPortFail]; (repeat' split) <;> exact Plain.ok _ _
theorem execHostPortUp_plain (s : State) : Plain s (execHostPortUp s) := by
  dsimp only [execHostPortUp]; (repeat' split) <;> exact Plain.ok _ _
theorem execPfFlr_shaped (s : State) : Shaped s (execPfFlr s) := by
  dsimp only [execPfFlr]; (repeat' split) <;> exact Shaped.stored _ _
theorem execVfFlr_plain (t : Fin 64) (s : State) : Plain s (execVfFlr t s) := by
  dsimp only [execVfFlr]; (repeat' split) <;> exact Plain.ok _ _
theorem execVfFlrDone_plain (t : Fin 64) (s : State) : Plain s (execVfFlrDone t s) := by
  dsimp only [execVfFlrDone]; (repeat' split) <;> exact Plain.ok _ _
theorem execBusMasterEnable_plain (f : Nat) (on : Bool) (s : State) : Plain s (execBusMasterEnable f on s) := by
  dsimp only [execBusMasterEnable]; (repeat' split) <;> exact Plain.ok _ _
theorem execD3hot_plain (on : Bool) (s : State) : Plain s (execD3hot on s) := by
  dsimp only [execD3hot]; (repeat' split) <;> exact Plain.ok _ _
theorem execDescriptorFetch_plain (r : Nat) (xs : Option (List RawDesc)) (s : State) : Plain s (execDescriptorFetch r xs s) := by
  dsimp only [execDescriptorFetch]; (repeat' split) <;> exact Plain.ok _ _
theorem execContextWriteback_plain (r : Nat) (s : State) : Plain s (execContextWriteback r s) := by
  dsimp only [execContextWriteback]; (repeat' split) <;> exact Plain.ok _ _
theorem execDoorbellScan_plain (bs : List BellRead) (s : State) : Plain s (execDoorbellScan bs s) := by
  dsimp only [execDoorbellScan]; (repeat' split) <;> exact Plain.ok _ _
theorem execHeldRecheck_plain (b : BellRead) (s : State) : Plain s (execHeldRecheck b s) := by
  dsimp only [execHeldRecheck]; (repeat' split) <;> exact Plain.ok _ _
theorem execLineupEnd_plain (r : LineupSeen) (s : State) : Plain s (execLineupEnd r s) := by
  dsimp only [execLineupEnd]; (repeat' split) <;> exact Plain.ok _ _
theorem execPodXferEnd_plain (e : XferEnd) (s : State) : Plain s (execPodXferEnd e s) := by
  dsimp only [execPodXferEnd]; (repeat' split) <;> exact Plain.ok _ _
theorem execErrorAck_plain (x : Desc) (s : State) : Plain s (execErrorAck x s) := by
  dsimp only [execErrorAck]; (repeat' split) <;> exact Plain.ok _ _
theorem execRecoverCandidate_plain (x : Desc) (s : State) : Plain s (execRecoverCandidate x s) := by
  dsimp only [execRecoverCandidate]; (repeat' split) <;> exact Plain.ok _ _
theorem execRecoverFresh_plain (x : Desc) (s : State) : Plain s (execRecoverFresh x s) := by
  dsimp only [execRecoverFresh]; (repeat' split) <;> exact Plain.ok _ _
theorem execSelftestComplete_plain (bits : Nat) (raw : List Byte) (s : State) : Plain s (execSelftestComplete bits raw s) := by
  dsimp only [execSelftestComplete]; (repeat' split) <;> exact Plain.ok _ _
theorem execStretchLimit_plain (micros : Nat) (moved : Nat) (data : List Byte) (s : State) :
    Plain s (execStretchLimit micros moved data s) := by
  dsimp only [execStretchLimit]; (repeat' split) <;> exact Plain.ok _ _
theorem execTwmSclStuck_plain (micros : Nat) (moved : Nat) (data : List Byte) (s : State) :
    Plain s (execTwmSclStuck micros moved data s) := by
  dsimp only [execTwmSclStuck]; (repeat' split) <;> exact Plain.ok _ _
theorem execTwmSdaStuck_plain (micros : Nat) (sclHigh : Bool) (moved : Nat) (data : List Byte) (s : State) :
    Plain s (execTwmSdaStuck micros sclHigh moved data s) := by
  dsimp only [execTwmSdaStuck]; (repeat' split) <;> exact Plain.ok _ _
theorem execBusRecovery_plain (sclMicros : Nat) (sda : List Bool) (s : State) : Plain s (execBusRecovery sclMicros sda s) := by
  dsimp only [execBusRecovery]; (repeat' split) <;> exact Plain.ok _ _
theorem execTwtAddress_shaped (addr : Nat) (parts : List TwtPart) (s : State) : Shaped s (execTwtAddress addr parts s) := by
  dsimp only [execTwtAddress]; (repeat' split) <;> exact Shaped.stored _ _
theorem execTwtSleep_plain (s : State) : Plain s (execTwtSleep s) := by
  dsimp only [execTwtSleep]; (repeat' split) <;> exact Plain.ok _ _
theorem execFrameDetect_plain (h : Heard) (s : State) : Plain s (execFrameDetect h s) := by
  dsimp only [execFrameDetect]; (repeat' split) <;> exact Plain.ok _ _
theorem execCaptured_plain (h : Heard) (part : List (Nat × Nat)) (s : State) : Plain s (execCaptured h part s) := by
  dsimp only [execCaptured]; (repeat' split) <;> exact Plain.ok _ _
theorem execPhyFrameReceived_plain (bits : List (Nat × Nat)) (s : State) : Plain s (execPhyFrameReceived bits s) := by
  dsimp only [execPhyFrameReceived]; (repeat' split) <;> exact Plain.ok _ _
theorem execSegmentTimeout_plain (src : Nat) (s : State) : Plain s (execSegmentTimeout src s) := by
  dsimp only [execSegmentTimeout]; (repeat' split) <;> exact Plain.ok _ _
theorem execAgcRise_plain (s : State) : Plain s (execAgcRise s) := by
  dsimp only [execAgcRise]; (repeat' split) <;> exact Plain.ok _ _
theorem execTxSlotStart_plain (s : State) : Plain s (execTxSlotStart s) := by
  dsimp only [execTxSlotStart]; (repeat' split) <;> exact Plain.ok _ _
theorem execTxFrameEnd_plain (ohms : Nat) (s : State) : Plain s (execTxFrameEnd ohms s) := by
  dsimp only [execTxFrameEnd]; (repeat' split) <;> exact Plain.ok _ _
theorem execTxShort_plain (ohms : Option Nat) (s : State) : Plain s (execTxShort ohms s) := by
  dsimp only [execTxShort]; (repeat' split) <;> exact Plain.ok _ _
theorem execBeacon_plain (s : State) : Plain s (execBeacon s) := by
  dsimp only [execBeacon]; (repeat' split) <;> exact Plain.ok _ _
theorem execClaim_plain (s : State) : Plain s (execClaim s) := by
  dsimp only [execClaim]; (repeat' split) <;> exact Plain.ok _ _
theorem execJoinReq_plain (s : State) : Plain s (execJoinReq s) := by
  dsimp only [execJoinReq]; (repeat' split) <;> exact Plain.ok _ _
theorem execJoinAck_plain (s : State) : Plain s (execJoinAck s) := by
  dsimp only [execJoinAck]; (repeat' split) <;> exact Plain.ok _ _
theorem execAck_plain (s : State) : Plain s (execAck s) := by
  dsimp only [execAck]; (repeat' split) <;> exact Plain.ok _ _
theorem execKeyreq_plain (s : State) : Plain s (execKeyreq s) := by
  dsimp only [execKeyreq]; (repeat' split) <;> exact Plain.ok _ _
theorem execTunnelCmd_plain (s : State) : Plain s (execTunnelCmd s) := by
  dsimp only [execTunnelCmd]; (repeat' split) <;> exact Plain.ok _ _
theorem execTunnelRec_plain (s : State) : Plain s (execTunnelRec s) := by
  dsimp only [execTunnelRec]; (repeat' split) <;> exact Plain.ok _ _
theorem execApp_plain (s : State) : Plain s (execApp s) := by
  dsimp only [execApp]; (repeat' split) <;> exact Plain.ok _ _
theorem execListenTimeout_plain (s : State) : Plain s (execListenTimeout s) := by
  dsimp only [execListenTimeout]; (repeat' split) <;> exact Plain.ok _ _
theorem execCaptainTimeout_plain (s : State) : Plain s (execCaptainTimeout s) := by
  dsimp only [execCaptainTimeout]; (repeat' split) <;> exact Plain.ok _ _
theorem execBeaconDue_plain (s : State) : Plain s (execBeaconDue s) := by
  dsimp only [execBeaconDue]; (repeat' split) <;> exact Plain.ok _ _
theorem execBeaconLoss_plain (s : State) : Plain s (execBeaconLoss s) := by
  dsimp only [execBeaconLoss]; (repeat' split) <;> exact Plain.ok _ _
theorem execAckTimeout_plain (s : State) : Plain s (execAckTimeout s) := by
  dsimp only [execAckTimeout]; (repeat' split) <;> exact Plain.ok _ _
theorem execKeyreqRepeat_plain (s : State) : Plain s (execKeyreqRepeat s) := by
  dsimp only [execKeyreqRepeat]; (repeat' split) <;> exact Plain.ok _ _
theorem execJoinRetry_plain (s : State) : Plain s (execJoinRetry s) := by
  dsimp only [execJoinRetry]; (repeat' split) <;> exact Plain.ok _ _
theorem execTunnelTimeout_plain (tid : Nat) (s : State) : Plain s (execTunnelTimeout tid s) := by
  dsimp only [execTunnelTimeout]; (repeat' split) <;> exact Plain.ok _ _
theorem execSlotWindowClose_plain (s : State) : Plain s (execSlotWindowClose s) := by
  dsimp only [execSlotWindowClose]; (repeat' split) <;> exact Plain.ok _ _
theorem execRestartCheck_shaped (pllOk : Bool) (logicOk : Bool) (s : State) : Shaped s (execRestartCheck pllOk logicOk s) := by
  dsimp only [execRestartCheck]; (repeat' split) <;> exact Shaped.stored _ _
theorem execDozeExitCount_plain (s : State) : Plain s (execDozeExitCount s) := by
  dsimp only [execDozeExitCount]; (repeat' split) <;> exact Plain.ok _ _
theorem execCounters_plain (s : State) : Plain s (execCounters s) := by
  dsimp only [execCounters]; (repeat' split) <;> exact Plain.ok _ _
theorem execUmpireSummary_plain (s : State) : Plain s (execUmpireSummary s) := by
  dsimp only [execUmpireSummary]; (repeat' split) <;> exact Plain.ok _ _
theorem execTrackerSummary_plain (s : State) : Plain s (execTrackerSummary s) := by
  dsimp only [execTrackerSummary]; (repeat' split) <;> exact Plain.ok _ _
theorem execPqSummary_plain (s : State) : Plain s (execPqSummary s) := by
  dsimp only [execPqSummary]; (repeat' split) <;> exact Plain.ok _ _
theorem execPulseSummary_plain (s : State) : Plain s (execPulseSummary s) := by
  dsimp only [execPulseSummary]; (repeat' split) <;> exact Plain.ok _ _
theorem execBalanceSummary_plain (s : State) : Plain s (execBalanceSummary s) := by
  dsimp only [execBalanceSummary]; (repeat' split) <;> exact Plain.ok _ _
theorem execTamperSummary_plain (s : State) : Plain s (execTamperSummary s) := by
  dsimp only [execTamperSummary]; (repeat' split) <;> exact Plain.ok _ _
theorem execErrorSummary_plain (s : State) : Plain s (execErrorSummary s) := by
  dsimp only [execErrorSummary]; (repeat' split) <;> exact Plain.ok _ _
theorem execLineSummary_plain (s : State) : Plain s (execLineSummary s) := by
  dsimp only [execLineSummary]; (repeat' split) <;> exact Plain.ok _ _
theorem execRegisterRead_plain (f : Nat) (a : HostAccess) (s : State) : Plain s (execRegisterRead f a s) := by
  dsimp only [execRegisterRead]; (repeat' split) <;> exact Plain.ok _ _
theorem execMsixUnmask_plain (f : Nat) (en : Bool) (fmask : Bool) (vmask : BitVec 4) (s : State) :
    Plain s (execMsixUnmask f en fmask vmask s) := by
  dsimp only [execMsixUnmask]; (repeat' split) <;> exact Plain.ok _ _
theorem execVfEnable_plain (n : Fin 65) (on : Bool) (ari : Bool) (s : State) : Plain s (execVfEnable n on ari s) := by
  dsimp only [execVfEnable]; (repeat' split) <;> exact Plain.ok _ _
theorem execCompletionTimeout_plain (r : Nat) (s : State) : Plain s (execCompletionTimeout r s) := by
  dsimp only [execCompletionTimeout]; (repeat' split) <;> exact Plain.ok _ _

/-- A command that cannot store to the boot image area changes the device only. -/
theorem exec_plain {c : Instr} (h : c.storesBoot = false) (s : State) : Plain s (exec c s) := by
  cases c with
  | alwaysOnPor _ _ => cases h
  | resetN _ _ _ => cases h
  | configRecallDone _ => exact execConfigRecallDone_plain _ _
  | ledgerRecallDone _ => exact execLedgerRecallDone_plain _ _
  | powerUpTestEnd => exact execPowerUpTestEnd_plain _
  | accumulationStart => exact execAccumulationStart_plain _
  | standaloneNegotiation => exact execStandaloneNegotiation_plain _
  | samplePeriod _ => exact execSamplePeriod_plain _ _
  | commitTick => exact execCommitTick_plain _
  | commitComplete => exact execCommitComplete_plain _
  | holdEntry _ _ => exact execHoldEntry_plain _ _ _
  | vddaLow _ => exact execVddaLow_plain _ _
  | finalCommitDone => exact execFinalCommitDone_plain _
  | backupEntry => exact execBackupEntry_plain _
  | backupExit => exact execBackupExit_plain _
  | offEntry => exact execOffEntry_plain _
  | holdExit _ _ _ => cases h
  | metrologyClockLost _ => exact execMetrologyClockLost_plain _ _
  | metrologyClockReturn => cases h
  | xt32Fail _ => exact execXt32Fail_plain _ _
  | xt32Restored _ _ _ => exact execXt32Restored_plain _ _ _ _
  | vbatLow _ => exact execVbatLow_plain _ _
  | dozeEntry => exact execDozeEntry_plain _
  | preWake _ => exact execPreWake_plain _ _
  | pllLock _ => exact execPllLock_plain _ _
  | fastSleep => exact execFastSleep_plain _
  | backstopEntry => exact execBackstopEntry_plain _
  | fastLogicFault _ => exact execFastLogicFault_plain _ _
  | superframeReceived _ _ _ => exact Plain.ok _ _
  | sampleRelease _ => exact execSampleRelease_plain _ _
  | relayMismatch _ _ => exact execRelayMismatch_plain _ _ _
  | dnShort _ _ _ _ => exact execDnShort_plain _ _ _ _ _
  | dnShortRetry _ => exact execDnShortRetry_plain _ _
  | dnShortClear _ => exact execDnShortClear_plain _ _
  | chFlatline _ => exact execChFlatline_plain _ _
  | chFlatlineEnd _ => exact execChFlatlineEnd_plain _ _
  | chOverloadEnd _ => exact execChOverloadEnd_plain _ _
  | dmLock _ => exact execDmLock_plain _ _
  | dmInputLost _ => exact execDmInputLost_plain _ _
  | dmAlignError _ => exact execDmAlignError_plain _ _
  | umpireBlock => exact execUmpireBlock_plain _
  | referenceTestEnd => exact execReferenceTestEnd_plain _
  | converterRetest _ => exact execConverterRetest_plain _ _
  | converterRetestEnd _ => exact execConverterRetestEnd_plain _ _
  | vchkWatch => exact execVchkWatch_plain _
  | vinClipEnd _ => exact execVinClipEnd_plain _ _
  | vinOpenTest _ => exact execVinOpenTest_plain _ _
  | vinOpenTestEnd _ _ => exact execVinOpenTestEnd_plain _ _ _
  | compCrossing _ _ _ => exact execCompCrossing_plain _ _ _ _
  | auxConversion _ => exact execAuxConversion_plain _ _
  | reverseCurrent _ _ => exact execReverseCurrent_plain _ _ _
  | reversalEnd _ _ => exact execReversalEnd_plain _ _ _
  | crossingConfirmed => exact execCrossingConfirmed_plain _
  | lockLoss => exact execLockLoss_plain _
  | freeRunBoundary => exact execFreeRunBoundary_plain _
  | previewInstant => exact execPreviewInstant_plain _
  | retractNoCrossing => exact execRetractNoCrossing_plain _
  | secondBoundary => exact execSecondBoundary_plain _
  | harmonicWindow => exact execHarmonicWindow_plain _
  | captureDelivery => exact execCaptureDelivery_plain _
  | sealOpen _ => exact execSealOpen_plain _ _
  | sealClose => exact execSealClose_plain _
  | pulseWidthEnd _ => exact execPulseWidthEnd_plain _ _
  | pulseSaturatedEnd _ => exact execPulseSaturatedEnd_plain _ _
  | pulseShort _ _ => exact execPulseShort_plain _ _ _
  | pulseShortRetry _ => exact execPulseShortRetry_plain _ _
  | pulseShortClear _ => exact execPulseShortClear_plain _ _
  | groupWriteDone _ => exact execGroupWriteDone_plain _ _
  | sectorEraseDone => exact execSectorEraseDone_plain _
  | marginPass _ => exact execMarginPass_plain _ _
  | refreshForward _ => exact execRefreshForward_plain _ _
  | ledgerScrub _ => exact execLedgerScrub_plain _ _
  | sramScrub _ _ => exact execSramScrub_plain _ _ _
  | demandIntervalClose => exact execDemandIntervalClose_plain _
  | loadReclose _ => exact execLoadReclose_plain _ _
  | friendlyHoursEnd => exact execFriendlyHoursEnd_plain _
  | gridFallback => exact execGridFallback_plain _
  | drbgReseed _ => exact Plain.ok _ _
  | snapshotSigned => exact execSnapshotSigned_plain _
  | tamperWindow _ _ => exact execTamperWindow_plain _ _ _
  | batteryCheck _ => exact execBatteryCheck_plain _ _
  | go _ => cases h
  | negotiationComplete _ => cases h
  | softReset _ => cases h
  | causeW1c _ => exact execCauseW1c_plain _ _
  | kick _ _ => exact Plain.ok _ _
  | scanAll _ _ => exact Plain.ok _ _
  | movectlGo _ => cases h
  | movectlDrop _ => cases h
  | moveDone _ _ _ => cases h
  | registerWrite _ _ _ => cases h
  | msixHoldoff _ _ => exact execMsixHoldoff_plain _ _ _
  | hostPortDown => exact execHostPortDown_plain _
  | hostPortFail => exact execHostPortFail_plain _
  | hostPortUp => exact execHostPortUp_plain _
  | pfFlr => cases h
  | vfFlr _ => exact execVfFlr_plain _ _
  | vfFlrDone _ => exact execVfFlrDone_plain _ _
  | busMasterEnable _ _ => exact execBusMasterEnable_plain _ _ _
  | d3hot _ => exact execD3hot_plain _ _
  | descriptorFetch _ _ => exact execDescriptorFetch_plain _ _ _
  | contextWriteback _ => exact execContextWriteback_plain _ _
  | doorbellScan _ => exact execDoorbellScan_plain _ _
  | heldRecheck _ => exact execHeldRecheck_plain _ _
  | nop _ => exact Plain.ok _ _
  | fence _ => exact Plain.ok _ _
  | ringAdd _ => exact Plain.ok _ _
  | ringDel _ => exact Plain.ok _ _
  | ringStop _ => exact Plain.ok _ _
  | ringStart _ => exact Plain.ok _ _
  | ringQuery _ => exact Plain.ok _ _
  | ringBlockAssign _ => exact Plain.ok _ _
  | bufReassign _ => exact Plain.ok _ _
  | tenantSet _ => exact Plain.ok _ _
  | tenantGet _ => exact Plain.ok _ _
  | tenantSuspend _ => exact Plain.ok _ _
  | tenantResume _ => exact Plain.ok _ _
  | calSet _ => exact Plain.ok _ _
  | calGet _ => exact Plain.ok _ _
  | ledgerRead _ => exact Plain.ok _ _
  | snapshot _ => exact Plain.ok _ _
  | packageLoad _ => exact Plain.ok _ _
  | gridStateSet _ => exact Plain.ok _ _
  | creditAdd _ => exact Plain.ok _ _
  | relaySet _ => exact Plain.ok _ _
  | keyLoad _ => exact Plain.ok _ _
  | keyCommit _ => exact Plain.ok _ _
  | keyStatus _ => exact Plain.ok _ _
  | configRead _ => exact Plain.ok _ _
  | configWrite _ => exact Plain.ok _ _
  | auxSeqSet _ => exact Plain.ok _ _
  | auxRead _ => exact Plain.ok _ _
  | captureArm _ => exact Plain.ok _ _
  | lineSend _ => exact Plain.ok _ _
  | lineJoin _ => exact Plain.ok _ _
  | lineStatus _ => exact Plain.ok _ _
  | podLineup _ => exact Plain.ok _ _
  | lineupEnd _ => exact execLineupEnd_plain _ _
  | podXfer _ => exact Plain.ok _ _
  | podXferEnd _ => exact execPodXferEnd_plain _ _
  | clockSet _ => exact Plain.ok _ _
  | clockGet _ => exact Plain.ok _ _
  | errorAck _ => exact execErrorAck_plain _ _
  | recoverCandidate _ => exact execRecoverCandidate_plain _ _
  | recoverFresh _ => exact execRecoverFresh_plain _ _
  | linkZero _ => exact Plain.ok _ _
  | linkWalk _ => exact Plain.ok _ _
  | voltB _ => exact Plain.ok _ _
  | refTest _ => exact Plain.ok _ _
  | crypto _ => exact Plain.ok _ _
  | selftestComplete _ _ => exact execSelftestComplete_plain _ _ _
  | pulseAssign _ => exact Plain.ok _ _
  | stretchLimit _ _ _ => exact execStretchLimit_plain _ _ _ _
  | twmSclStuck _ _ _ => exact execTwmSclStuck_plain _ _ _ _
  | twmSdaStuck _ _ _ _ => exact execTwmSdaStuck_plain _ _ _ _ _
  | busRecovery _ _ => exact execBusRecovery_plain _ _ _
  | twtAddress _ _ => cases h
  | twtSleep => exact execTwtSleep_plain _
  | frameDetect _ => exact execFrameDetect_plain _ _
  | captured _ _ => exact execCaptured_plain _ _ _
  | phyFrameReceived _ => exact execPhyFrameReceived_plain _ _
  | segmentTimeout _ => exact execSegmentTimeout_plain _ _
  | agcRise => exact execAgcRise_plain _
  | txSlotStart => exact execTxSlotStart_plain _
  | txFrameEnd _ => exact execTxFrameEnd_plain _ _
  | txShort _ => exact execTxShort_plain _ _
  | beacon => exact execBeacon_plain _
  | claim => exact execClaim_plain _
  | joinReq => exact execJoinReq_plain _
  | joinAck => exact execJoinAck_plain _
  | ack => exact execAck_plain _
  | keyreq => exact execKeyreq_plain _
  | tunnelCmd => exact execTunnelCmd_plain _
  | tunnelRec => exact execTunnelRec_plain _
  | app => exact execApp_plain _
  | listenTimeout => exact execListenTimeout_plain _
  | captainTimeout => exact execCaptainTimeout_plain _
  | beaconDue => exact execBeaconDue_plain _
  | beaconLoss => exact execBeaconLoss_plain _
  | ackTimeout => exact execAckTimeout_plain _
  | keyreqRepeat => exact execKeyreqRepeat_plain _
  | joinRetry => exact execJoinRetry_plain _
  | tunnelTimeout _ => exact execTunnelTimeout_plain _ _
  | slotWindowClose => exact execSlotWindowClose_plain _
  | restartCheck _ _ => cases h
  | dozeExitCount => exact execDozeExitCount_plain _
  | counters => exact execCounters_plain _
  | umpireSummary => exact execUmpireSummary_plain _
  | trackerSummary => exact execTrackerSummary_plain _
  | pqSummary => exact execPqSummary_plain _
  | pulseSummary => exact execPulseSummary_plain _
  | balanceSummary => exact execBalanceSummary_plain _
  | tamperSummary => exact execTamperSummary_plain _
  | errorSummary => exact execErrorSummary_plain _
  | lineSummary => exact execLineSummary_plain _
  | registerRead _ _ => exact execRegisterRead_plain _ _ _
  | drbgSeed _ => exact Plain.ok _ _
  | msixUnmask _ _ _ _ => exact execMsixUnmask_plain _ _ _ _ _
  | vfEnable _ _ _ => exact execVfEnable_plain _ _ _ _
  | completionTimeout _ => exact execCompletionTimeout_plain _ _

/-- Every command answers a next state, in which only the device and the boot image area have changed. -/
theorem exec_shaped (c : Instr) (s : State) : Shaped s (exec c s) := by
  by_cases h : c.storesBoot = false
  · exact (exec_plain h s).shaped
  · cases c with
    | alwaysOnPor _ _ => exact execAlwaysOnPor_shaped _ _ _
    | resetN _ _ _ => exact execResetN_shaped _ _ _ _
    | holdExit _ _ _ => exact execHoldExit_shaped _ _ _ _
    | metrologyClockReturn => exact execMetrologyClockReturn_shaped _
    | go _ => exact execGo_shaped _ _
    | negotiationComplete _ => exact execNegotiationComplete_shaped _ _
    | softReset _ => exact execSoftReset_shaped _ _
    | movectlGo _ => exact execMovectlGo_shaped _ _
    | movectlDrop _ => exact execMovectlDrop_shaped _ _
    | moveDone _ _ _ => exact execMoveDone_shaped _ _ _ _
    | registerWrite _ _ _ => exact execRegisterWrite_shaped _ _ _ _
    | pfFlr => exact execPfFlr_shaped _
    | twtAddress _ _ => exact execTwtAddress_shaped _ _ _
    | restartCheck _ _ => exact execRestartCheck_shaped _ _ _
    | _ => exact absurd rfl h

end Sys2Proof.Machine
end

