-- ==== Sys2Proof/Laws/Ops.lean ====
section
/-!
SUPPORT. Laws/Ops.lean: what the shared operations of the commands can do, said once each.
-/
namespace Sys2Proof.Machine

/-! ### The common checks (R891, Table 18.3) -/

/-- An accepted command runs its opcode's own part. -/
theorem Dev.command_accepted {d : Dev} {x : Desc} {row : OpRow} (code : Dev → Nat → Nat) (k : Dev → Nat → Dev)
    (h : d.accepts x row = true) : d.command x row code k = k (d.begun x) (accountOf x.tenant) := by
  simp only [Dev.accepts, Bool.and_eq_true] at h
  obtain ⟨⟨⟨h1, h2⟩, h3⟩, h4⟩ := h
  have h5 : ((row.judged x).filter fun n => !(d.begun x).epochOk x n) = none := by
    cases hj : row.judged x with
    | none => rfl
    | some n => simp [Option.filter, show (d.begun x).epochOk x n = true by simpa [hj] using h4]
  simp [Dev.command, h1, h2, h3, h5]

/-- A command whose opcode may not be issued completes with BAD_OPCODE. -/
theorem Dev.command_badOpcode {d : Dev} {x : Desc} {row : OpRow} (code : Dev → Nat → Nat) (k : Dev → Nat → Dev)
    (h : d.executes x = true) (h1 : (d.begun x).opcodeOk x row = false) :
    d.command x row code k = (d.begun x).done x.ref stBadOpcode := by
  simp [Dev.command, h, h1]

/-- A command whose TENANT is illegal completes with BAD_TENANT. -/
theorem Dev.command_badTenant {d : Dev} {x : Desc} {row : OpRow} (code : Dev → Nat → Nat) (k : Dev → Nat → Dev)
    (h : d.executes x = true) (h1 : (d.begun x).opcodeOk x row = true) (h2 : (d.begun x).tenantOk x row = false) :
    d.command x row code k = (d.begun x).done x.ref stBadTenant := by
  simp [Dev.command, h, h1, h2]

/-- A command that may not execute changes nothing. -/
theorem Dev.command_waits {d : Dev} {x : Desc} {row : OpRow} (code : Dev → Nat → Nat) (k : Dev → Nat → Dev)
    (h : d.executes x = false) : d.command x row code k = d := by
  simp [Dev.command, h]

/-- The input of a command whose reads of host memory succeeded, where a staging block is free for it. -/
theorem Dev.withInput_ok {d : Dev} {x : Desc} {bs : List Byte} (k : List Byte → Dev) (hp : d.poolFree ≠ 0) (h : x.input = .ok bs) :
    d.withInput x k = k bs := by
  simp [Dev.withInput, hp, h]

/-- A command that finds no staging block for its data completes with NO_BUFFER. -/
theorem Dev.withInput_noBuffer {d : Dev} {x : Desc} (k : List Byte → Dev) (hp : d.poolFree = 0) :
    d.withInput x k = d.done x.ref stNoBuffer := by
  simp [Dev.withInput, hp]

/-! ### Posting (R43, R45, R925) -/

/-- A record outside service is neither generated nor numbered. -/
theorem Dev.post_off {d : Dev} (b : RecBody) (h : d.serving = false) : d.post b = d := by
  simp [Dev.post, h]

end Sys2Proof.Machine
end

