-- ==== Sys2Proof/Laws/Quiet.lean ====
section
/-!
SUPPORT. Laws/Quiet.lean: what posting a record and completing a command leave alone: everything but the rings, the record
streams, the causes and messages, the tunnel's queue, the counters of the keys, a capture trigger and the waking of the fast
domain.
-/
namespace Sys2Proof.Machine

/-- What repeats a step that keeps `π` keeps `π`. -/
theorem Dev.each_keeps {α β : Type} (π : Dev → β) {f : Dev → α → Dev} (h : ∀ d x, π (f d x) = π d) (l : List α) (d : Dev) :
    π (d.each l f) = π d := by
  unfold Dev.each
  induction l generalizing d with
  | nil => rfl
  | cons x t ih => exact (ih (f d x)).trans (h d x)

@[simp] theorem Dev.emit_quiet (d : Dev) (o : Out) : (d.emit o).quiet = d.quiet := rfl
@[simp] theorem Dev.setRing_quiet (d : Dev) (r : Nat) (g : Ring) : (d.setRing r g).quiet = d.quiet := rfl
@[simp] theorem Dev.updRing_quiet (d : Dev) (r : Nat) (f : Ring → Ring) : (d.updRing r f).quiet = d.quiet := rfl
@[simp] theorem Dev.setFn_quiet (d : Dev) (f : Nat) (x : Fn) : (d.setFn f x).quiet = d.quiet := rfl
@[simp] theorem Dev.land_quiet (d : Dev) (c : CmdRef) : (d.land c).quiet = d.quiet := rfl
@[simp] theorem Dev.number_quiet (d : Dev) (b : RecBody) : (d.number b).1.quiet = d.quiet := rfl

@[simp] theorem Dev.leaveDoze_quiet (d : Dev) : d.leaveDoze.quiet = d.quiet := by
  unfold Dev.leaveDoze
  dsimp only
  (repeat' split) <;> rfl

@[simp] theorem Dev.rouse_quiet (d : Dev) : d.rouse.quiet = d.quiet := by
  refine Eq.trans ?_ d.leaveDoze_quiet
  unfold Dev.rouse
  dsimp only
  split <;> rfl

@[simp] theorem Dev.wake_quiet (d : Dev) : d.wake.quiet = d.quiet := by
  unfold Dev.wake
  rw [Dev.rouse_quiet]
  rfl

@[simp] theorem Dev.fill_quiet (d : Dev) (r : Nat) (e : Entry) : (d.fill r e).quiet = d.quiet := rfl

@[simp] theorem Dev.claimed_quiet (d old : Dev) : (d.claimed old).quiet = d.quiet := rfl

@[simp] theorem Dev.eng_quiet (d : Dev) (e : RingEngine) : ({ d with eng := e } : Dev).quiet = d.quiet := rfl
@[simp] theorem Dev.recs_quiet (d : Dev) (r : Records) : ({ d with recs := r } : Dev).quiet = d.quiet := rfl

@[simp] theorem Dev.sendMsix_quiet (d : Dev) (f v : Nat) : (d.sendMsix f v).quiet = d.quiet := by
  unfold Dev.sendMsix
  dsimp only
  split <;> rfl

@[simp] theorem Dev.openWindow_quiet (d : Dev) (f v n : Nat) : (d.openWindow f v n).quiet = d.quiet := by
  unfold Dev.openWindow
  dsimp only
  split <;> simp

@[simp] theorem Dev.occur_quiet (d : Dev) (f v : Nat) : (d.occur f v).quiet = d.quiet := by
  unfold Dev.occur
  dsimp only
  (repeat' split) <;> simp

@[simp] theorem Dev.writeBack_quiet (d : Dev) (r : Nat) : (d.writeBack r).quiet = d.quiet := by
  unfold Dev.writeBack
  dsimp only
  split <;> simp

@[simp] theorem Dev.ringState_quiet (d : Dev) (r : Nat) (st : RingState) : (d.ringState r st).quiet = d.quiet := by
  simp [Dev.ringState]

@[simp] theorem Dev.discardHeld_quiet (d : Dev) (r : Nat) : (d.discardHeld r).quiet = d.quiet := by
  simp [Dev.discardHeld]

@[simp] theorem fillBufs_quiet (l : List FreeBuf) (bs : List Byte) (d : Dev) : (fillBufs d bs l).quiet = d.quiet := by
  induction l generalizing bs d with
  | nil => rfl
  | cons b t ih => simp [fillBufs, ih]

@[simp] theorem Dev.placePayload_quiet (d : Dev) (r : Nat) (b : RecBody) (room : Nat) :
    (d.placePayload r b room).1.quiet = d.quiet := by
  unfold Dev.placePayload
  dsimp only
  split
  · rfl
  · split <;> simp

@[simp] theorem Dev.formRec_quiet (d : Dev) (r : Nat) (b : RecBody) (plan : AuthPlan) (ph : Bool) :
    (d.formRec r b plan ph).1.quiet = d.quiet := by
  cases plan with
  | stub => rfl
  | sign gen counter =>
    have := d.placePayload_quiet r b 30
    exact this
  | plain => exact d.placePayload_quiet r b 48
  | wait => exact d.placePayload_quiet r b 48

@[simp] theorem Dev.padRing_quiet (n r : Nat) (d : Dev) : (d.padRing r n).quiet = d.quiet := by
  induction n generalizing d with
  | zero => rfl
  | succ n ih => simp [Dev.padRing, ih]

@[simp] theorem Dev.writeRec_quiet (d : Dev) (r : Nat) (b : RecBody) : (d.writeRec r b).quiet = d.quiet := by
  unfold Dev.writeRec
  dsimp only
  split
  · rw [Dev.recs_quiet]
    split <;> simp
  · split <;> simp

@[simp] theorem Dev.holdOrDrop_quiet (d : Dev) (r : Nat) (b : RecBody) : (d.holdOrDrop r b).quiet = d.quiet := by
  unfold Dev.holdOrDrop
  dsimp only
  split <;> simp

@[simp] theorem Dev.postNow_quiet (d : Dev) (r : Nat) (b : RecBody) : (d.postNow r b).quiet = d.quiet := by
  unfold Dev.postNow
  dsimp only
  (repeat' split) <;> simp

@[simp] theorem Dev.postTo_quiet (d : Dev) (r : Nat) (b : RecBody) : (d.postTo r b).quiet = d.quiet := by
  unfold Dev.postTo
  split
  · rfl
  · simp

@[simp] theorem Dev.tunnelPush_quiet (d : Dev) (k : Nat) (t : Option Nat) (bs : List Byte) : (d.tunnelPush k t bs).quiet = d.quiet := by
  unfold Dev.tunnelPush
  dsimp only
  split <;> rfl

@[simp] theorem Dev.tunnelRecord_quiet (d : Dev) (b : RecBody) (t : Option Nat) : (d.tunnelRecord b t).quiet = d.quiet := by
  unfold Dev.tunnelRecord
  dsimp only
  split <;> simp

@[simp] theorem Dev.route_quiet (d : Dev) (b : RecBody) : (d.route b).quiet = d.quiet := by
  unfold Dev.route
  dsimp only
  split
  · simp
  · rw [Dev.each_keeps Dev.quiet (fun d x => by split <;> simp)]
    split <;> simp

@[simp] theorem Dev.captureTrig_quiet (d : Dev) (trig arg inst : Nat) : (d.captureTrig trig arg inst).quiet = d.quiet := by
  unfold Dev.captureTrig
  dsimp only
  (repeat' split) <;> rfl

@[simp] theorem Dev.captureOn_quiet (d : Dev) (b : RecBody) : (d.captureOn b).quiet = d.quiet := by
  unfold Dev.captureOn
  dsimp only
  (repeat' split) <;> simp

/-- Posting a record leaves all else alone. -/
@[simp] theorem Dev.post_quiet (d : Dev) (b : RecBody) : (d.post b).quiet = d.quiet := by
  unfold Dev.post
  dsimp only
  split
  · rfl
  · split
    · exact (d.withHold b |> d.number).1.captureOn_quiet _ |>.trans (by simp)
    · simp

@[simp] theorem Dev.postAfterCommit_quiet (d : Dev) (b : RecBody) : (d.postAfterCommit b).quiet = d.quiet := by
  unfold Dev.postAfterCommit
  dsimp only
  split
  · rfl
  · rfl

@[simp] theorem Dev.postPower_quiet (d : Dev) (e : Nat) (fs : List Fld) : (d.postPower e fs).quiet = d.quiet := by
  simp [Dev.postPower]

@[simp] theorem Dev.drainHeld_quiet (n r : Nat) (d : Dev) : (d.drainHeld r n).quiet = d.quiet := by
  induction n generalizing d with
  | zero => rfl
  | succ n ih =>
    unfold Dev.drainHeld
    dsimp only
    (repeat' split) <;> simp [ih]

@[simp] theorem Dev.writeCompletion_quiet (d : Dev) (c : Nat) (o : OwedCompletion) : (d.writeCompletion c o).quiet = d.quiet := by
  unfold Dev.writeCompletion
  dsimp only
  (repeat' split) <;> simp

@[simp] theorem Dev.tunSkip_quiet (n : Nat) (d : Dev) : (d.tunSkip n).quiet = d.quiet := by
  induction n generalizing d with
  | zero => rfl
  | succ n ih =>
    unfold Dev.tunSkip
    (repeat' split) <;> simp [ih]
    rfl

@[simp] theorem Dev.tunBegin_quiet (d : Dev) (x : Desc) : (d.tunBegin x).quiet = d.quiet := by
  unfold Dev.tunBegin
  split <;> rfl

@[simp] theorem Dev.begun_quiet (d : Dev) (x : Desc) : (d.begun x).quiet = d.quiet := by
  unfold Dev.begun Dev.markBegun
  simp

@[simp] theorem Dev.finishNow_quiet (d : Dev) (o : OwedCompletion) : (d.finishNow o).quiet = d.quiet := by
  unfold Dev.finishNow
  dsimp only
  split
  · rw [Dev.tunSkip_quiet]
    have h : ∀ e : Dev, ({ e with lnet := { e.lnet with tunRunning := none } } : Dev).quiet = e.quiet := fun _ => rfl
    rw [h]
    split <;> simp
  · split <;> simp

/-- Completing a command leaves all else alone. -/
@[simp] theorem Dev.finish_quiet (d : Dev) (o : OwedCompletion) : (d.finish o).quiet = d.quiet := by
  unfold Dev.finish
  split <;> simp

@[simp] theorem Dev.settleFences_quiet (n : Nat) (d : Dev) : (d.settleFences n).quiet = d.quiet := by
  induction n generalizing d with
  | zero => rfl
  | succ n ih =>
    unfold Dev.settleFences
    dsimp only
    split
    · rfl
    · split <;> rw [ih]
      · rfl
      · simp

@[simp] theorem Dev.settleStops_quiet (n : Nat) (d : Dev) : (d.settleStops n).quiet = d.quiet := by
  induction n generalizing d with
  | zero => rfl
  | succ n ih =>
    unfold Dev.settleStops
    dsimp only
    split
    · rfl
    · simp [ih]

@[simp] theorem Dev.settle_quiet (d : Dev) : d.settle.quiet = d.quiet := by
  simp [Dev.settle]

@[simp] theorem Dev.done_quiet (d : Dev) (c : CmdRef) (st : Nat) : (d.done c st).quiet = d.quiet := by
  simp [Dev.done]

@[simp] theorem Dev.doneWith_quiet (d : Dev) (c : CmdRef) (v : Nat) (b : Bool) : (d.doneWith c v b).quiet = d.quiet := by
  simp [Dev.doneWith]

@[simp] theorem Dev.doneMismatch_quiet (d : Dev) (x : Desc) (o e n : Nat) : (d.doneMismatch x o e n).quiet = d.quiet := by
  unfold Dev.doneMismatch
  dsimp only
  rw [Dev.settle_quiet, Dev.finish_quiet]
  rfl

@[simp] theorem Dev.output_quiet (d : Dev) (x : Desc) (bs : List Byte) : (d.output x bs).quiet = d.quiet := by
  unfold Dev.output
  split <;> simp

end Sys2Proof.Machine
end

