-- ==== Sys2Proof/WellFormed.lean ====
section
/-!
DEFINITION. WellFormed.lean: which commands carry operands that fit the fields they stand for. The meanings answer for every
operand; claims about the outside world concern well-formed commands.
-/
namespace Sys2Proof.Machine

/-- A value of a 24-bit converter reading. -/
def fits24 (x : Int) : Bool := -(2 ^ 23) ≤ x && x < 2 ^ 23

/-- A function number: the PF or one of 64 VFs (R765). -/
def Path.wf : Path → Bool
  | .pcie f => f ≤ 64
  | .twt => true

/-- A ring, the boot image, or a TID that Captain's host may choose (Table 22.7). -/
def Issuer.wf : Issuer → Bool
  | .ring r => r < 65536
  | .boot => true
  | .tunnel t => t < 0x8000

/-- The fields of a descriptor fit Table 18.1. -/
def Desc.wf (x : Desc) : Bool :=
  x.src.wf && x.tenant < 256 && x.tag < 2 ^ 32 && x.addr < 2 ^ 64 && x.len < 2 ^ 32 && x.expEpoch < 256 && x.args < 2 ^ 64

/-- A fetched descriptor's opcode and tag fit (Table 18.1). -/
def RawDesc.wf (x : RawDesc) : Bool := x.opcode < 65536 && x.tag < 2 ^ 32

/-- A doorbell word's index fits, and its ring is one of 65,536 (R816, R836). -/
def BellRead.wf (b : BellRead) : Bool := b.ring < 65536 && b.bell.all fun w => decide (w.index < 2 ^ 32)

/-- A read that succeeded returned at least so many bytes. -/
def HostRead.holds (n : Nat) : HostRead → Bool
  | .ok bs => n ≤ bs.length
  | .failed => true

/-- A slot's place lies in the 64 sectors (R577). -/
def SlotBad.wf (b : SlotBad) : Bool := b.sector < 64

/-- A converter's codes of one frame: eight, of 16 bits (A) or of 14 bits (B). -/
def ConvFrame.wf (f : ConvFrame) : Bool :=
  f.a.length = 8 && (f.a.all fun x => decide (-32768 ≤ x) && decide (x ≤ 32767)) && f.b.length = 8 &&
    f.b.all fun x => decide (-8192 ≤ x) && decide (x ≤ 8191)

/-- A sample period brings 384 bit times, or none, of each direct input, 24 frames of the converters, and slices 0–3 with their three
quantities (R237–R240). -/
def Sample.wf (x : Sample) : Bool :=
  x.dm.length ≤ 4 && (x.dm.all fun l => l.isEmpty || l.length = 384) && (x.dm.all fun l => l.all fun b => decide (b.levels < 256)) &&
    x.frames.length = 24 && x.frames.all ConvFrame.wf && x.slices.all fun f => decide (f.slice < 4) && decide (f.quantity < 3)

/-- A finding in the staging SRAM lies in it (Table 17.14), or covers rings 0–255. -/
def StagingFind.wf : StagingFind → Bool
  | .block addr => addr < 0x300000
  | .shadow rings => rings.all fun r => decide (r < 256)

/-- Reads of a line-up bring nine bytes; a survey covers sixteen addresses or is none, and links are named by 16 bits. -/
def LineupSeen.wf (r : LineupSeen) : Bool :=
  (r.passes.all fun p =>
    (p.survey.isEmpty || p.survey.length = 16) && (p.survey.all fun a => a.all fun b => b.length = 9) &&
      p.rounds.all fun x => (!x.acked || x.won.length = 9) && x.back.all fun b => b.length = 9) &&
    r.marks.all fun m => m.1 < 65536 && m.2 < 65536

end Sys2Proof.Machine

namespace Sys2Proof
open Sys2Proof.Machine

/-- The operands of a command fit. -/
def Instr.wf : Instr → Bool
  | .alwaysOnPor _ _ => true
  | .resetN _ _ _ => true
  | .configRecallDone bad => bad.all SlotBad.wf
  | .ledgerRecallDone bad => bad.all fun b => decide (b.block < 0x400)
  | .powerUpTestEnd => true
  | .accumulationStart => true
  | .standaloneNegotiation => true
  | .samplePeriod x => x.wf
  | .commitTick => true
  | .commitComplete => true
  | .holdEntry _ _ => true
  | .vddaLow _ => true
  | .finalCommitDone => true
  | .backupEntry => true
  | .backupExit => true
  | .offEntry => true
  | .holdExit _ _ _ => true
  | .metrologyClockLost _ => true
  | .metrologyClockReturn => true
  | .xt32Fail _ => true
  | .xt32Restored _ shortest longest => shortest ≤ longest
  | .vbatLow _ => true
  | .dozeEntry => true
  | .preWake _ => true
  | .pllLock _ => true
  | .fastSleep => true
  | .backstopEntry => true
  | .fastLogicFault _ => true
  | .superframeReceived _ slots arrival => slots.length = 384 && (slots.all fun b => decide (b < 2 ^ 20)) && arrival < 38400
  | .sampleRelease _ => true
  | .relayMismatch _ _ => true
  | .dnShort _ common _ tenths => common < 2 ^ 16 && tenths < 2 ^ 32
  | .dnShortRetry _ => true
  | .dnShortClear _ => true
  | .chFlatline _ => true
  | .chFlatlineEnd _ => true
  | .chOverloadEnd _ => true
  | .dmLock _ => true
  | .dmInputLost _ => true
  | .dmAlignError _ => true
  | .umpireBlock => true
  | .referenceTestEnd => true
  | .converterRetest _ => true
  | .converterRetestEnd _ => true
  | .vchkWatch => true
  | .vinClipEnd _ => true
  | .vinOpenTest _ => true
  | .vinOpenTestEnd _ shift => fits24 shift
  | .compCrossing _ nv tenths => nv < 2 ^ 32 && tenths < 2 ^ 32
  | .auxConversion (.sample nv) => -2 ^ 32 < nv && nv < 2 ^ 32
  | .auxConversion .result => true
  | .reverseCurrent _ _ => true
  | .reversalEnd _ _ => true
  | .crossingConfirmed => true
  | .lockLoss => true
  | .freeRunBoundary => true
  | .previewInstant => true
  | .retractNoCrossing => true
  | .secondBoundary => true
  | .harmonicWindow => true
  | .captureDelivery => true
  | .sealOpen micros => micros < 2 ^ 32
  | .sealClose => true
  | .pulseWidthEnd _ => true
  | .pulseSaturatedEnd _ => true
  | .pulseShort _ tenths => tenths < 2 ^ 32
  | .pulseShortRetry _ => true
  | .pulseShortClear _ => true
  | .groupWriteDone _ => true
  | .sectorEraseDone => true
  | .marginPass found => found.all fun f => decide (f.sector < 64) && decide (f.kind ≤ 3)
  | .refreshForward _ => true
  | .ledgerScrub found => found.all fun f => decide (f.block < 0x400)
  | .sramScrub staging rings => staging.all StagingFind.wf && rings.all fun p => decide (p.2 < 65536)
  | .demandIntervalClose => true
  | .loadReclose _ => true
  | .friendlyHoursEnd => true
  | .gridFallback => true
  | .drbgReseed _ => true
  | .snapshotSigned => true
  | .tamperWindow inputs _ => inputs.length = 8 && inputs.all fun r => decide (r.bits < 16)
  | .batteryCheck _ => true
  | .go w => w.path.wf
  | .negotiationComplete ctx => ctx.length = 3 && ctx.all fun c => c.holds 32
  | .softReset w => w.path.wf
  | .causeW1c w => w.path.wf
  | .kick path b => path.wf && b.wf
  | .scanAll path bs => path.wf && bs.all BellRead.wf
  | .movectlGo w => w.path.wf
  | .movectlDrop w => w.path.wf
  | .moveDone data _ _ => data.length < 2 ^ 32
  | .registerWrite off _ w => w.path.wf && off % 8 = 0 && off < 4096
  | .msixHoldoff f v => f ≤ 64 && v < 4
  | .hostPortDown => true
  | .hostPortFail => true
  | .hostPortUp => true
  | .pfFlr => true
  | .vfFlr _ => true
  | .vfFlrDone _ => true
  | .busMasterEnable f _ => f ≤ 64
  | .d3hot _ => true
  | .descriptorFetch r xs => r < 65536 && (xs.all fun l => l.all RawDesc.wf)
  | .contextWriteback r => r < 65536
  | .doorbellScan bs => bs.all BellRead.wf
  | .heldRecheck b => b.wf
  | .nop x => x.wf
  | .fence x => x.wf
  | .ringAdd x => x.wf
  | .ringDel x => x.wf
  | .ringStop x => x.wf
  | .ringStart x => x.wf
  | .ringQuery x => x.wf
  | .ringBlockAssign x => x.wf
  | .bufReassign x => x.wf
  | .tenantSet x => x.wf
  | .tenantGet x => x.wf
  | .tenantSuspend x => x.wf
  | .tenantResume x => x.wf
  | .calSet x => x.wf
  | .calGet x => x.wf
  | .ledgerRead x => x.wf
  | .snapshot x => x.wf
  | .packageLoad x => x.wf
  | .gridStateSet x => x.wf
  | .creditAdd x => x.wf
  | .relaySet x => x.wf
  | .keyLoad x => x.wf
  | .keyCommit x => x.wf
  | .keyStatus x => x.wf
  | .configRead x => x.wf
  | .configWrite x => x.wf
  | .auxSeqSet x => x.wf
  | .auxRead x => x.wf
  | .captureArm x => x.wf
  | .lineSend x => x.wf
  | .lineJoin x => x.wf
  | .lineStatus x => x.wf
  | .podLineup x => x.wf
  | .lineupEnd r => r.wf
  | .podXfer x => x.wf
  | .podXferEnd e =>
    match e with | .done r | .lost _ r => r.length ≤ 256 | .dataNack n => n < 256 | _ => true
  | .clockSet x => x.wf
  | .clockGet x => x.wf
  | .errorAck x => x.wf
  | .recoverCandidate x => x.wf
  | .recoverFresh x => x.wf
  | .linkZero x => x.wf
  | .linkWalk x => x.wf
  | .voltB x => x.wf
  | .refTest x => x.wf
  | .crypto x => x.wf
  | .selftestComplete bits raw => bits < 2 ^ 32 && raw.length ≤ 2 ^ 20
  | .pulseAssign x => x.wf
  | .stretchLimit _ moved data => moved ≤ 256 && data.length ≤ 256
  | .twmSclStuck _ moved data => moved ≤ 256 && data.length ≤ 256
  | .twmSdaStuck _ _ moved data => moved ≤ 256 && data.length ≤ 256
  | .busRecovery _ sda => sda.length ≤ 9
  | .twtAddress addr _ => addr < 128
  | .twtSleep => true
  | .frameDetect h => h.bits < 2 ^ 32
  | .captured h part => h.bits < 2 ^ 32 && part.length < 304
  | .phyFrameReceived bits => bits.length = 304
  | .segmentTimeout src => src < 65536
  | .agcRise => true
  | .txSlotStart => true
  | .txFrameEnd _ => true
  | .txShort _ => true
  | .beacon => true
  | .claim => true
  | .joinReq => true
  | .joinAck => true
  | .ack => true
  | .keyreq => true
  | .tunnelCmd => true
  | .tunnelRec => true
  | .app => true
  | .listenTimeout => true
  | .captainTimeout => true
  | .beaconDue => true
  | .beaconLoss => true
  | .ackTimeout => true
  | .keyreqRepeat => true
  | .joinRetry => true
  | .tunnelTimeout tid => tid < 0x8000
  | .slotWindowClose => true
  | .restartCheck _ _ => true
  | .dozeExitCount => true
  | .counters => true
  | .umpireSummary => true
  | .trackerSummary => true
  | .pqSummary => true
  | .pulseSummary => true
  | .balanceSummary => true
  | .tamperSummary => true
  | .errorSummary => true
  | .lineSummary => true
  | .registerRead f a => f ≤ 64 && (match a with | .read off => decide (off < 4096) | .config (.other off) => decide (off < 4096) | _ => true)
  | .drbgSeed _ => true
  | .msixUnmask f _ _ _ => f ≤ 64
  | .vfEnable _ _ _ => true
  | .completionTimeout r => r < 65536

end Sys2Proof
end

