-- ==== Sys2Proof/Tests/Slice0.lean ====
section
/-!
SUPPORT. Tests/Slice0.lean: tests of the model's parts on values worked out from the manual, ill-formed commands that WellFormed
refuses, and for each obligation with hypotheses a witness that its hypotheses can be met together.
-/
namespace Sys2Proof.Tests
open Sys2Proof Sys2Proof.Machine

/-! ### States to start from -/

/-- The state of a device, with nothing in the boot image area and no command waiting. -/
def st (d : Dev) : State := { dev := d }

/-- An LY64 in RUN 64 s after power-up: recall done, negotiated with every feature, out of Backstop, its link up, mastering for the PF,
with one VF, and its three fixed rings started; a sample instant and a commit tick are due. -/
def run : Dev :=
  { pwr := { up := 2 ^ 36, rtc := 2 ^ 36, timeInvalid := false, step := .ready, backstop := false, cause := 0, accum := true, fastOn := true
             rtcSource := .crystal, presentSince := some 0, smpClocks := 1536, tickSmps := 160 }
    host := { accept := 0xFFFF#64, accepted := 0xFFFF#64, acceptedMet := 0xFFFF#64, enable := true, negotiated := true, linkUp := true
              tablebase := 0x100000C#64, doorbase := 0x2000000#64, numVfs := 1, vfEnable := true
              fns := ⟨[(0, { bme := true }), (1, { bme := true })]⟩ }
    eng := { rings := ⟨[(0, { ty := 0, log2 := 6, partner := 1, state := .started }),
                        (1, { ty := 1, log2 := 6, state := .started }), (2, { ty := 2, log2 := 6, state := .started })]⟩
             blocks := ⟨[(1, 0)]⟩ } }

/-- The same in a power state, with MAINS_OK's consequences left as they are. -/
def inState (p : PState) : Dev := { run with pwr := { run.pwr with pstate := p } }

/-- A descriptor on the supervisor's command ring, ring 0. -/
def cmd0 (args : Nat) : Desc := { src := .ring 0, args := args }

/-- A command whose row of Table 18.5 admits it in a state completes there. -/
theorem accepted_of {c : Instr} {s : State}
    (h : ((opcodeRow c).any fun p => s.dev.accepts p.1 p.2) = true) : Accepted c s := by
  cases e : opcodeRow c with
  | none => simp [e] at h
  | some p => exact ⟨p, e, by simpa [e] using h⟩

/-! ### Witnesses: the hypotheses of each obligation met together -/

theorem wit_QueueRunsInOrder : ∃ (c : Instr) (cs rest : List Instr) (s : State),
    s.Inv ∧ s.pending = c :: cs ++ rest ∧ cs ≠ [] ∧ rest ≠ [] :=
  ⟨.commitTick, [.sealClose], [.lockLoss], { dev := run, pending := [.commitTick, .sealClose, .lockLoss] },
    by exact ⟨by decide, rfl⟩, rfl, by decide, by decide⟩

theorem wit_EveryStepKeepsInv : ∃ s t : State, s.Inv ∧ s.boot ≠ [] ∧ step s = .next t :=
  ⟨{ dev := inState .off, boot := [(5, 1#8)] }, _, ⟨by decide, rfl⟩, by decide, rfl⟩

theorem wit_BootImageFrame : ∃ (c : Instr) (s t : State), c.storesBoot = false ∧ exec c s = .next t ∧ s.boot ≠ [] :=
  ⟨.backupExit, { dev := inState .backup, boot := [(5, 1#8)] }, _, by decide, rfl, by decide⟩

theorem wit_DeviceTimeInterpolates :
    (∃ d : Dev, d.awake = true ∧ d.pwr.metClock = true ∧ d.pwr.mcount = 747) ∧
    (∃ d : Dev, d.awake = true ∧ d.pwr.metClock = true ∧ d.pwr.mcount = 748 ∧ d.pwr.rtcSource ≠ .crystal) ∧
    (∃ d : Dev, d.awake = true ∧ d.pwr.metClock = true ∧ d.pwr.mcount = 749 ∧ d.pwr.rtcSource = .crystal ∧ d.pwr.late = true) :=
  ⟨⟨{ run with pwr := { run.pwr with mcount := 747 } }, by decide⟩,
    ⟨{ run with pwr := { run.pwr with mcount := 748, rtcSource := .fallback } }, by decide⟩,
    ⟨{ run with pwr := { run.pwr with mcount := 749, late := true } }, by decide⟩⟩

theorem wit_IdleStepIsTime :
    (∃ s : State, s.pending = [] ∧ s.dev.pwr.pstate = .off) ∧
    (∃ s : State, s.pending = [] ∧ s.dev.metRuns = true ∧ s.dev.pwr.mcount = 747) ∧
    (∃ s : State, s.pending = [] ∧ s.dev.metRuns = true ∧ s.dev.pwr.mcount = 748) ∧
    (∃ s : State, s.pending = [] ∧ s.dev.pwr.pstate ≠ .off ∧ s.dev.metRuns = false) :=
  ⟨⟨st (inState .off), by decide⟩, ⟨st { run with pwr := { run.pwr with mcount := 747 } }, by decide⟩,
    ⟨st { run with pwr := { run.pwr with mcount := 748 } }, by decide⟩, ⟨st (inState .backup), by decide⟩⟩

theorem wit_TimeNeverRunsBack : ∃ d : Dev, d.pwr.mcount = 749 ∧ d.pwr.slewFrac = 999 ∧ d.pwr.slew < 0 ∧
    d.pwr.rtc + 2 ^ 17 = 2 ^ 64 :=
  ⟨{ run with pwr := { run.pwr with mcount := 749, slewFrac := 999, slew := -5, rtc := 2 ^ 64 - 2 ^ 17 } }, by decide⟩

theorem wit_SlewAbsorbs : (∃ p : Power, p.slewFrac = 999 ∧ p.slew = 17) ∧ ∃ p : Power, p.slewFrac = 999 ∧ p.slew = -17 :=
  ⟨⟨{ slewFrac := 999, slew := 17 }, by decide⟩, ⟨{ slewFrac := 999, slew := -17 }, by decide⟩⟩

theorem wit_BackupAndOff :
    (∃ s : State, s.dev.stores = [] ∧ s.dev.pwr.pstate = .hold ∧ s.dev.pwr.finalDone = true) ∧
    (∃ s : State, s.dev.stores = [] ∧ s.dev.pwr.pstate = .backup) :=
  ⟨⟨st (inState .hold), by decide⟩, ⟨st (inState .backup), by decide⟩⟩

theorem wit_HoldBegins :
    (∃ (s : State) (vdd33 tenths : Nat), s.dev.awake = true ∧ s.dev.pwr.metClock = true ∧ 3050 ≤ vdd33 ∧ tenths = 20) ∧
    (∃ (s : State) (vdd33 tenths : Nat), s.dev.awake = true ∧ s.dev.pwr.metClock = false ∧ vdd33 = 3049 ∧ tenths = 0) ∧
    (∃ (s : State) (vdd33 tenths : Nat), tenths = 18 ∧ vdd33 = 3050 ∧ s.dev.stores = []) ∧
    (∃ (s : State) (tenths : Nat), tenths = 20 ∧ s.dev.pwr.pstate = .hold ∧ s.dev.stores = []) :=
  ⟨⟨st run, 3300, 20, by decide⟩, ⟨st { inState .doze with pwr := { run.pwr with metClock := false } }, 3049, 0, by decide⟩,
    ⟨st run, 3050, 18, by decide⟩, ⟨st (inState .hold), 20, by decide⟩⟩

theorem wit_PowerUpBegins :
    (∃ (s : State) (micros vdd33 vdda : Nat), s.dev.pwr.pstate = .hold ∧ s.dev.pwr.finalDone = true ∧ s.dev.pwr.metClock = true ∧
      s.dev.pwr.testmode = false ∧ micros = 10000 ∧ vdd33 = 3100 ∧ s.dev.pwr.vddaHeld = true ∧ vdda = 2950) ∧
    (∃ s : State, s.dev.awake = true ∧ s.dev.pwr.metClock = false ∧ s.dev.pwr.testmode = false) ∧
    (∃ (s : State) (p : Straps) (micros : Nat), s.dev.pwr.pstate ≠ .off ∧ s.dev.pwr.pstate ≠ .backup ∧ micros = 10 ∧
      p.testmode = false ∧ s.dev.led.writing = none) ∧
    (∃ (s : State) (p : Straps), s.dev.pwr.pstate = .off ∧ p.testmode = false) :=
  ⟨⟨st { run with pwr := { run.pwr with pstate := .hold, vddaHeld := true } }, 10000, 3100, 2950, by decide⟩,
    ⟨st { run with pwr := { run.pwr with metClock := false } }, by decide⟩,
    ⟨st (inState .doze), ⟨true, false, false, false⟩, 10, by decide⟩, ⟨st (inState .off), ⟨false, false, false, false⟩, by decide⟩⟩

theorem wit_ClockEvents :
    (∃ s : State, s.dev.pwr.metClock = true ∧ s.dev.pwr.pstate ≠ .backup ∧ s.dev.pwr.pstate ≠ .off) ∧
    (∃ s : State, s.dev.pwr.rtcSource = .crystal ∧ s.dev.pwr.pstate ≠ .off) ∧
    (∃ s : State, s.dev.pwr.mcount = 0 ∧ s.dev.pwr.rtcSource = .fallback ∧ s.dev.pwr.pstate ≠ .off) ∧
    (∃ s : State, s.dev.pwr.mcount = 0 ∧ s.dev.pwr.rtcSource = .startup ∧ s.dev.pwr.pstate ≠ .off ∧ s.dev.stores = []) :=
  ⟨⟨st (inState .hold), by decide⟩, ⟨st run, by decide⟩, ⟨st { run with pwr := { run.pwr with rtcSource := .fallback } }, by decide⟩,
    ⟨st { run with pwr := { run.pwr with rtcSource := .startup } }, by decide⟩⟩

/-- The instant up to which metrology has come in `run`, less TX_DELAY of the default parameters: a slot start falls now. -/
def slotNow : Nat := run.up - us (fieldAt run.lphy.applied 8 2)

/-- `run` with a record ring that subscribes to previews. -/
def previewing : Dev := { run with eng := { run.eng with rings := run.eng.rings.set 2 { run.ring 2 with types := 1 } } }

theorem wit_DozeAndFastDomain :
    (∃ s : State, s.dev.pwr.pstate = .run ∧ s.dev.units = true ∧ s.dev.idle = true ∧ s.dev.host.wakeHold = false ∧
      s.dev.host.dozeIdle ≠ 0#32 ∧ s.dev.pwr.hostmode = false ∧
      s.dev.since s.dev.pwr.idleSince (us (max 50 (min 100000 s.dev.host.dozeIdle.toNat))) = true) ∧
    (∃ s : State, s.dev.pwr.pstate = .run ∧ s.dev.units = true ∧ s.dev.idle = true ∧ s.dev.host.wakeHold = false ∧
      s.dev.host.dozeIdle ≠ 0#32 ∧ s.dev.host.aspmL1 = true ∧
      s.dev.since s.dev.pwr.idleSince (us (max 50 (min 100000 s.dev.host.dozeIdle.toNat))) = true) ∧
    (∃ s : State, s.dev.pwr.pstate = .run ∧ s.dev.serving = true ∧ s.dev.quarterDue 0x7F = true) ∧
    (∃ s : State, s.dev.serving = true ∧ s.dev.pwr.pstate = .run ∧ s.dev.slotWake = true) ∧
    (∃ s : State, s.dev.serving = true ∧ s.dev.pwr.pstate = .run ∧ s.dev.boundaryWake = true) ∧
    (∃ s : State, s.dev.pwr.fastOn = true ∧ s.dev.fastWork = false ∧ s.dev.since s.dev.pwr.workAt (us 4) = true ∧
      s.dev.stores = []) :=
  ⟨⟨st { run with pwr := { run.pwr with hostmode := false } }, by decide⟩,
    ⟨st { run with host := { run.host with aspmL1 := true } }, by decide⟩, ⟨st run, by decide⟩,
    ⟨st { run with trk := { state := .predicting }, lphy := { crossings := [slotNow] }, lnet := { kstate := 2 } }, by decide⟩,
    ⟨st { previewing with trk := { state := .predicting, predicted := some (2 ^ 36 - second) } }, by decide⟩, ⟨st run, by decide⟩⟩

theorem wit_FatalEntersBackstop :
    (∃ s : State, s.dev.units = true ∧ s.dev.pwr.pstate = .run ∧ s.dev.pwr.backstop = false ∧ s.dev.err.fatalDue = none ∧
      s.dev.pwr.lockFailOwed = 0 ∧ s.dev.stores = [] ∧ s.dev.pwr.failedLocks = 1 ∧ s.dev.eng.setOpen = none) ∧
    (∃ s : State, s.dev.units = true ∧ s.dev.pwr.pstate = .run ∧ s.dev.pwr.backstop = false ∧ s.dev.errRuns = false ∧
      s.dev.led.work.errors.fatalCode = 0) ∧
    (∃ (s : State) (c : Nat), s.dev.units = true ∧ s.dev.pwr.pstate = .run ∧ s.dev.err.fatalDue = some c ∧ c = 2) ∧
    (∃ (s : State) (c : Nat), s.dev.units = true ∧ s.dev.pwr.pstate = .run ∧ s.dev.err.fatalDue = some c ∧ c = 3) :=
  ⟨⟨st { run with pwr := { run.pwr with failedLocks := 1 } }, by decide⟩, ⟨st { run with host := {} }, by decide⟩,
    ⟨st { run with err := { fatalDue := some 2 } }, 2, by decide⟩, ⟨st { run with err := { fatalDue := some 3 } }, 3, by decide⟩⟩

theorem wit_PowerUpSteps :
    (∃ s : State, s.dev.pwr.metClock = true ∧ s.dev.pwr.step = .configRecall ∧ s.dev.pwr.pstate = .run) ∧
    (∃ s : State, s.dev.pwr.metClock = true ∧ s.dev.pwr.step = .ledgerRecall ∧ s.dev.pwr.pstate = .run) ∧
    (∃ (s : State) (t0 : Nat), s.dev.pwr.metClock = true ∧ s.dev.units = true ∧ s.dev.pwr.accum = false ∧
      s.dev.volt.test = some { kind := 3, since := 0, cmd := none } ∧ s.dev.volt.serving ≠ 2 ∧ s.dev.pwr.presentSince = some t0 ∧
      s.dev.since (max t0 s.dev.pwr.recallAt) (ms 40) = true ∧ t0 + ms 40 = s.dev.up ∧ s.dev.pwr.wasHeld = false) ∧
    (∃ (s : State) (t0 : Nat), s.dev.pwr.metClock = true ∧ s.dev.units = true ∧ s.dev.pwr.accum = false ∧ s.dev.volt.test = none ∧
      s.dev.volt.serving ≠ 2 ∧ s.dev.pwr.presentSince = some t0 ∧ s.dev.since (max t0 s.dev.pwr.recallAt) (ms 40) = true ∧
      s.dev.pwr.wasHeld = true) ∧
    (∃ s : State, s.dev.pwr.metClock = true ∧ s.dev.pwr.hostmode = false ∧ s.dev.units = true ∧ s.dev.host.negotiated = false ∧
      fieldAt s.dev.host.groupBytes 36 1 = 1 ∧ s.dev.since s.dev.pwr.configAt (ms 40) = true) ∧
    (∃ s : State, s.dev.pwr.metClock = true ∧ s.dev.pwr.pstate = .hold ∧ s.dev.pwr.finalDone = false) ∧
    (∃ (s : State) (t : Nat), s.dev.pwr.metClock = true ∧ s.dev.pwr.pstate = .run ∧ s.dev.units = true ∧ s.dev.volt.healthB.good = true ∧
      s.dev.pwr.vbatAt = some t ∧ s.dev.since t (3600 * second) = true) ∧
    (∃ s : State, s.dev.pwr.metClock = true ∧ s.dev.pwr.pstate = .run ∧ s.dev.units = true ∧ s.dev.volt.healthB.good = true ∧
      s.dev.pwr.vbatAt = none) :=
  ⟨⟨State.reset, by decide⟩, ⟨st { pwr := { step := .ledgerRecall } }, by decide⟩,
    ⟨st { run with pwr := { run.pwr with accum := false, presentSince := some (2 ^ 36 - ms 40) },
                   volt := { test := some { kind := 3, since := 0, cmd := none } } }, 2 ^ 36 - ms 40, by decide⟩,
    ⟨st { run with pwr := { run.pwr with accum := false, wasHeld := true } }, 0, by decide⟩,
    ⟨st { run with pwr := { run.pwr with hostmode := false }, host := { groupBytes := layout 64 [⟨36, 1, 1⟩] } }, by decide⟩,
    ⟨st { run with pwr := { run.pwr with pstate := .hold, finalDone := false } }, by decide⟩,
    ⟨st { run with pwr := { run.pwr with up := 3600 * second, vbatAt := some 0 } }, 0, by decide⟩, ⟨st run, by decide⟩⟩

/-- Link 3 in a state of its own, everything else as in `run`. -/
def onLink (l : Link) : State := st { run with links := ⟨[(3, l)]⟩ }

theorem wit_TestOutcomes :
    (∃ (d : Dev) (x : Checks), d.volt.chkDrift = true ∧ x = ⟨⟨0, 0⟩, ⟨0, 0⟩, ⟨0, 0⟩, ⟨0, 0⟩⟩) ∧
    (∃ (d : Dev) (x : Checks), d.volt.chkDrift = false ∧ testFails 0 x.zeroA x.vchkA = false ∧ testFails 1 x.zeroB x.vchkB = false ∧
      x.zeroA = ⟨200, 1⟩) ∧
    (∃ (d : Dev) (x : Checks), d.volt.chkDrift = false ∧ testFails 0 x.zeroA x.vchkA = true ∧ testFails 1 x.zeroB x.vchkB = false ∧
      d.volt.healthB.good = true ∧ x.zeroA = ⟨-201, 1⟩) ∧
    (∃ (d : Dev) (x : Checks), d.volt.chkDrift = false ∧ testFails 0 x.zeroA x.vchkA = false ∧ testFails 1 x.zeroB x.vchkB = true ∧
      d.volt.healthA.stays = false) ∧
    (∃ (d : Dev) (x : Checks), d.volt.chkDrift = false ∧ testFails 0 x.zeroA x.vchkA = true ∧ testFails 1 x.zeroB x.vchkB = true) :=
  ⟨⟨{ volt := { chkDrift := true } }, _, rfl, rfl⟩, ⟨run, ⟨⟨200, 1⟩, ⟨0, 0⟩, ⟨0, 0⟩, ⟨0, 0⟩⟩, by simp [testFails, run]⟩,
    ⟨run, ⟨⟨-201, 1⟩, ⟨0, 0⟩, ⟨0, 0⟩, ⟨0, 0⟩⟩, by simp [testFails, run]⟩, ⟨run, ⟨⟨0, 0⟩, ⟨0, 0⟩, ⟨201, 1⟩, ⟨0, 0⟩⟩, by simp [testFails, run]⟩,
    ⟨run, ⟨⟨201, 1⟩, ⟨0, 0⟩, ⟨201, 1⟩, ⟨0, 0⟩⟩, by simp [testFails, run]⟩⟩

theorem wit_ConverterTestsEnd :
    (∃ (s : State) (t : RefTest), s.dev.volt.test = some t ∧ s.dev.units = true ∧ t.kind = 1 ∧ t.since + ms 20 = s.dev.up) ∧
    (∃ (s : State) (t : RefTest), s.dev.volt.test = some t ∧ s.dev.metRuns = true ∧ t.kind = 3 ∧ t.cmd ≠ none ∧
      t.since + ms 100 = s.dev.up) :=
  ⟨⟨st { run with volt := { test := some ⟨1, 2 ^ 36 - ms 20, none⟩ } }, ⟨1, 2 ^ 36 - ms 20, none⟩, by decide⟩,
    ⟨st { run with volt := { test := some ⟨3, 2 ^ 36 - ms 100, some ⟨.ring 0, 7, false⟩⟩ } },
      ⟨3, 2 ^ 36 - ms 100, some ⟨.ring 0, 7, false⟩⟩, by decide⟩⟩

/-- Readings of 0 pass, and one of any mean at all but no codes fails. -/
theorem zero_passes (c : Nat) : testFails c ⟨0, 0⟩ ⟨0, 0⟩ = false := by simp [testFails]
theorem vchk_fails (c : Nat) : testFails c ⟨0, 0⟩ ⟨1000000, 0⟩ = true := by simp [testFails]

/-- Converter A failed, in a retest with so many passes before it, its codes as given. -/
def inRetest (passes : Nat) (stays : Bool) (vchk : Int) : State :=
  st { run with volt := { healthA := { good := false, retesting := true, passes := passes, stays := stays, retestAt := 2 ^ 36 - ms 100 }
                          checks := ⟨[(5, ⟨vchk, 0⟩)]⟩ } }

theorem wit_ConverterRetests :
    (∃ (s : State) (c : Fin 2), s.dev.metRuns = true ∧ (s.dev.health c).good = false ∧ (s.dev.health c).retesting = false ∧
      s.dev.store.factoryLost = false ∧ (s.dev.health c).retestAt + 60 * second = s.dev.up) ∧
    (∃ (s : State) (c : Fin 2), s.dev.metRuns = true ∧ (s.dev.health c).retesting = true ∧
      testFails c (s.dev.check (4 + 2 * c.val)) (s.dev.check (5 + 2 * c.val)) = false ∧ (s.dev.health c).passes = 9 ∧
      (s.dev.health c).stays = false ∧ (s.dev.health c).retestAt + ms 100 = s.dev.up) ∧
    (∃ (s : State) (c : Fin 2), s.dev.metRuns = true ∧ (s.dev.health c).retesting = true ∧ (s.dev.health c).passes = 9 ∧
      testFails c (s.dev.check (4 + 2 * c.val)) (s.dev.check (5 + 2 * c.val)) = true ∧
      (s.dev.health c).retestAt + ms 100 = s.dev.up) ∧
    (∃ (s : State) (c : Fin 2), s.dev.metRuns = true ∧ (s.dev.health c).retesting = true ∧ (s.dev.health c).passes = 9 ∧
      (s.dev.health c).stays = true ∧ (s.dev.health c).retestAt + ms 100 = s.dev.up) ∧
    (∃ s : State, s.dev.metRuns = true ∧ s.dev.volt.serving = 1 ∧ s.dev.volt.healthB.good = true ∧ s.dev.store.factoryLost = false ∧
      s.dev.volt.watchAt + ms 100 = s.dev.up ∧ s.dev.volt.vchkRun = 9 ∧ testFails 1 ⟨0, 0⟩ ((s.dev.volt.checks.get 8 {}).micro 1) = false) ∧
    (∃ s : State, s.dev.metRuns = true ∧ s.dev.volt.serving = 1 ∧ s.dev.volt.healthB.good = true ∧ s.dev.store.factoryLost = false ∧
      s.dev.volt.watchAt + ms 100 = s.dev.up ∧ s.dev.volt.vchkRun = 9 ∧ testFails 1 ⟨0, 0⟩ ((s.dev.volt.checks.get 8 {}).micro 1) = true) :=
  ⟨⟨st { run with volt := { healthB := { good := false, retestAt := 4 * second } } }, 1, by decide⟩,
    ⟨inRetest 9 false 0, 0, by decide, by decide, zero_passes 0, by decide⟩,
    ⟨inRetest 9 false 1, 0, by decide, by decide, by decide, vchk_fails 0, by decide⟩,
    ⟨inRetest 9 true 0, 0, by decide⟩,
    ⟨st { run with volt := { serving := 1, healthA := { good := false }, vchkRun := 9, watchAt := 2 ^ 36 - ms 100 } }, by decide, by decide,
      by decide, by decide, by decide, by decide, zero_passes 1⟩,
    ⟨st { run with volt := { serving := 1, healthA := { good := false }, vchkRun := 9, watchAt := 2 ^ 36 - ms 100, checks := ⟨[(8, ⟨1, 0⟩)]⟩ } },
      by decide, by decide, by decide, by decide, by decide, by decide, vchk_fails 1⟩⟩

/-- An Umpire block that has closed, with so many passes in a row before it. -/
def blockClosed (b : UmpBlock) (persist : Nat) (a : Conv) : State :=
  st { run with volt := { closed := some b, persist := persist, healthA := a } }

/-- RMS(e) at the threshold, and above it, over one sample. -/
def quietBlock : UmpBlock := { n := 1, e2 := 2966 * 2966 * 2 ^ 60 }
def loudBlock : UmpBlock := { n := 1, e2 := 2966 * 2966 * 2 ^ 60 + 1 }

theorem wit_UmpireBlocks :
    (∃ (s : State) (b : UmpBlock), s.dev.metRuns = true ∧ s.dev.volt.closed = some b ∧ s.dev.pwr.accum = true ∧
      ¬(b.bad = false ∧ s.dev.compares = true)) ∧
    (∃ (s : State) (b : UmpBlock), s.dev.metRuns = true ∧ s.dev.volt.closed = some b ∧ s.dev.pwr.accum = true ∧
      b.bad = false ∧ s.dev.compares = true ∧ s.dev.volt.healthA.good = false) ∧
    (∃ (s : State) (b : UmpBlock), s.dev.metRuns = true ∧ s.dev.volt.closed = some b ∧ s.dev.pwr.accum = true ∧
      b.bad = false ∧ s.dev.compares = true ∧ s.dev.volt.healthA.good = true ∧ b.e2 = 2966 * 2966 * b.n * 2 ^ 60) ∧
    (∃ (s : State) (b : UmpBlock), s.dev.metRuns = true ∧ s.dev.volt.closed = some b ∧ s.dev.pwr.accum = true ∧
      b.bad = false ∧ s.dev.compares = true ∧ s.dev.volt.healthA.good = true ∧ 2966 * 2966 * b.n * 2 ^ 60 < b.e2 ∧
      s.dev.volt.persist = 3) ∧
    (∃ (s : State) (b : UmpBlock), s.dev.metRuns = true ∧ s.dev.volt.closed = some b ∧ s.dev.pwr.accum = true ∧
      b.bad = false ∧ s.dev.compares = true ∧ s.dev.volt.healthA.good = true ∧ 2966 * 2966 * b.n * 2 ^ 60 < b.e2 ∧
      s.dev.volt.persist = 4 ∧ s.dev.store.factoryLost = false) ∧
    (∃ s : State, s.dev.metRuns = true ∧ s.dev.pwr.pstate = .run ∧ s.dev.serving = true ∧ s.dev.quarterDue 0x15 = true) :=
  ⟨⟨blockClosed { bad := true } 0 {}, { bad := true }, by decide⟩, ⟨blockClosed loudBlock 0 { good := false }, loudBlock, by decide⟩,
    ⟨blockClosed quietBlock 4 {}, quietBlock, by decide⟩, ⟨blockClosed loudBlock 3 {}, loudBlock, by decide⟩,
    ⟨blockClosed loudBlock 4 {}, loudBlock, by decide⟩, ⟨st run, by decide⟩⟩

theorem wit_VoltageInputs :
    (∃ (s : State) (c : Fin 4), s.dev.metRuns = true ∧ c.val ∈ s.dev.volt.clip ∧ s.dev.volt.lastClip.get c 0 + second = s.dev.up) ∧
    (∃ (s : State) (c : Fin 4), s.dev.metRuns = true ∧ s.dev.vinUsed c = true ∧ s.dev.volt.openTest = none ∧ s.dev.openDue c = true) ∧
    (∃ (s : State) (c : Fin 4) (t : Nat), s.dev.metRuns = true ∧ s.dev.volt.openTest = some (c.val, t) ∧ t + ms 20 = s.dev.up ∧
      s.dev.volt.openState.get c 0 = 0 ∧ s.dev.volt.lowRun.get c 0 = 99) ∧
    (∃ (s : State) (c : Fin 4) (t : Nat), s.dev.metRuns = true ∧ s.dev.volt.openTest = some (c.val, t) ∧ t + ms 20 = s.dev.up ∧
      s.dev.volt.openState.get c 0 = 0 ∧ s.dev.volt.lowRun.get c 0 = 100 ∧ s.dev.trk.volt = c.val ∧ s.dev.pwr.accum = true) :=
  ⟨⟨st { run with volt := { clip := [3], lastClip := ⟨[(3, 63 * second)]⟩ } }, 3, by decide⟩,
    ⟨st { run with volt := { lowRun := ⟨[(2, 100)]⟩ } }, 2, by decide⟩,
    ⟨st { run with volt := { openTest := some (0, 2 ^ 36 - ms 20), lowRun := ⟨[(0, 99)]⟩ } }, 0, 2 ^ 36 - ms 20, by decide⟩,
    ⟨st { run with volt := { openTest := some (0, 2 ^ 36 - ms 20), lowRun := ⟨[(0, 100)]⟩ } }, 0, 2 ^ 36 - ms 20, by decide⟩⟩

/-- Slot 0 with the sync symbol and data bits 1, and slot 1 with its four lowest bits 1: the CRC16 over them is 0, and stays 0 over slots
of zeros. -/
def slotSync : Nat := 0b11101111011110111000
def slotOnes : Nat := 0b11101111101111011110

theorem wit_SuperframeReceived :
    (∃ (s : State) (n : Fin 16) (slots : List Nat), s.dev.metRuns = true ∧ (s.dev.link n).heard = false ∧ (s.dev.link n).state = .down ∧
      codeOf (s.dev.link n).rxInv (slots.headD 0) 3 = syncCode ∧ (s.dev.link n).found = 0) ∧
    (∃ (s : State) (n : Fin 16) (slots : List Nat), s.dev.metRuns = true ∧ (s.dev.link n).heard = false ∧ (s.dev.link n).state = .down ∧
      codeOf (s.dev.link n).rxInv (slots.headD 0) 3 = syncCode ∧ (s.dev.link n).found = 1) ∧
    (∃ (s : State) (n : Fin 16) (slots : List Nat), s.dev.metRuns = true ∧ (s.dev.link n).heard = false ∧ (s.dev.link n).state = .down ∧
      codeOf (s.dev.link n).rxInv (slots.headD 0) 3 ≠ syncCode ∧ codeOf (s.dev.link n).rxInv (slots.headD 0) 3 ≠ invSync) ∧
    (∃ (s : State) (n : Fin 16) (slots : List Nat), s.dev.metRuns = true ∧ (s.dev.link n).heard = false ∧ (s.dev.link n).state = .up ∧
      codeOf (s.dev.link n).rxInv (slots.headD 0) 3 = syncCode ∧ sfValid true (slotsRx (s.dev.link n).rxInv slots) = true) ∧
    (∃ (s : State) (n : Fin 16) (slots : List Nat), s.dev.metRuns = true ∧ (s.dev.link n).heard = false ∧ (s.dev.link n).state = .up ∧
      codeOf (s.dev.link n).rxInv (slots.headD 0) 3 = syncCode ∧ sfValid true (slotsRx (s.dev.link n).rxInv slots) = false ∧
      (s.dev.link n).bad = 1) ∧
    (∃ (s : State) (n : Fin 16) (slots : List Nat), s.dev.metRuns = true ∧ (s.dev.link n).heard = false ∧ (s.dev.link n).state = .up ∧
      codeOf (s.dev.link n).rxInv (slots.headD 0) 3 = syncCode ∧ sfValid true (slotsRx (s.dev.link n).rxInv slots) = false ∧
      (s.dev.link n).bad = 2) :=
  ⟨⟨onLink {}, 3, [slotSync], by decide⟩, ⟨onLink { found := 1 }, 3, [slotSync], by decide⟩,
    ⟨onLink { found := 1 }, 3, [slotSync + 1], by decide⟩, ⟨onLink { state := .up }, 3, [slotSync, slotOnes], by decide +kernel⟩,
    ⟨onLink { state := .up, bad := 1 }, 3, [slotSync], by decide +kernel⟩,
    ⟨onLink { state := .up, bad := 2 }, 3, [slotSync], by decide +kernel⟩⟩

theorem wit_LinkEvents :
    (∃ (s : State) (n : Fin 16), s.dev.metRuns = true ∧ (s.dev.link n).state = .up ∧ (s.dev.link n).released = false ∧
      (s.dev.link n).upSince + ms 2 = s.dev.up) ∧
    (∃ (s : State) (n : Fin 16) (r : Fin 12), s.dev.metRuns = true ∧ (s.dev.link n).state = .up ∧
      bitOf (s.dev.link n).relayValid r = true ∧ r.val ∉ (s.dev.link n).compared ∧
      max ((s.dev.link n).sentAt.get r 0) (s.dev.link n).upSince + ms 500 = s.dev.up ∧
      bitOf (s.dev.link n).relay r ≠ bitOf (s.dev.link n).relayState r) ∧
    (∃ (s : State) (n : Fin 16) (r : Fin 12), s.dev.metRuns = true ∧ (s.dev.link n).state = .up ∧
      bitOf (s.dev.link n).relayValid r = true ∧ r.val ∉ (s.dev.link n).compared ∧
      max ((s.dev.link n).sentAt.get r 0) (s.dev.link n).upSince + ms 500 ≤ s.dev.up ∧
      bitOf (s.dev.link n).relay r = bitOf (s.dev.link n).relayState r ∧ s.dev.stores = []) ∧
    (∃ (s : State) (n : Fin 16) (common tenths : Nat), s.dev.metRuns = true ∧ (s.dev.link n).state ≠ .short ∧ common = 899 ∧ tenths = 51) ∧
    (∃ (s : State) (n : Fin 16) (common tenths : Nat), s.dev.metRuns = true ∧ (s.dev.link n).state = .short ∧
      (s.dev.link n).retrying = true ∧ common = 1601 ∧ tenths = 51) ∧
    (∃ (s : State) (n : Fin 16), s.dev.metRuns = true ∧ (s.dev.link n).state = .short ∧ (s.dev.link n).retrying = false ∧
      (s.dev.link n).switchedAt + ms 100 = s.dev.up) ∧
    (∃ (s : State) (n : Fin 16), s.dev.metRuns = true ∧ (s.dev.link n).state = .short ∧ (s.dev.link n).retrying = true ∧
      (s.dev.link n).switchedAt + ms 1 = s.dev.up) :=
  ⟨⟨onLink { state := .up, upSince := 2 ^ 36 - ms 2, lostSince := some 0 }, 3, by decide⟩,
    ⟨onLink { state := .up, relayValid := 2 ^ 11, relay := 2 ^ 11, upSince := 2 ^ 36 - ms 500 }, 3, 11, by decide⟩,
    ⟨onLink { state := .up, relayValid := 1 }, 3, 0, by decide⟩, ⟨onLink {}, 3, 899, 51, by decide⟩,
    ⟨onLink { state := .short, retrying := true }, 3, 1601, 51, by decide⟩,
    ⟨onLink { state := .short, switchedAt := 2 ^ 36 - ms 100 }, 3, by decide⟩,
    ⟨onLink { state := .short, retrying := true, switchedAt := 2 ^ 36 - ms 1 }, 3, by decide⟩⟩

/-- Channel 36, the first of link 3, which is UP, and channel 192, of direct input 0 in MANCHESTER mode, each with a stream. -/
def onChans (c x : Chan) (m : DirectIn) (b : Stream := {}) : State :=
  st { run with links := ⟨[(3, { state := .up })]⟩
                intake := { chans := ⟨[(36, c), (192, x)]⟩, dms := ⟨[(0, m)]⟩, streams := ⟨[(36, b), (192, b)]⟩ }
                cal := { cabinet := layout 32 [⟨6, 1, 50⟩, ⟨8, 1, 2⟩] } }

theorem wit_ChannelEvents :
    (∃ (s : State) (c : Fin 196) (bit : Bool) (since : Nat), c < 192 ∧ s.dev.metRuns = true ∧
      (s.dev.stream c).seen = some (bit, since) ∧ s.dev.watched c = true ∧ (s.dev.chan c).flat = false) ∧
    (∃ (s : State) (c : Fin 196) (bit : Bool) (since : Nat), 192 ≤ c ∧ s.dev.metRuns = true ∧
      (s.dev.stream c).seen = some (bit, since) ∧ s.dev.watched c = true ∧ (s.dev.chan c).flat = false) ∧
    (∃ (s : State) (c : Fin 196), c < 192 ∧ s.dev.metRuns = true ∧ (s.dev.chan c).flat = true ∧ s.dev.watched c = true ∧
      (s.dev.stream c).run = 63 ∧ s.dev.flatUntil c = s.dev.up) ∧
    (∃ (s : State) (c : Fin 196), 192 ≤ c ∧ s.dev.metRuns = true ∧ (s.dev.chan c).flat = true ∧ s.dev.watched c = true ∧
      (s.dev.stream c).run = 63 ∧ s.dev.flatUntil c = s.dev.up) ∧
    (∃ (s : State) (c : Fin 196), s.dev.metRuns = true ∧ (s.dev.chan c).ovl = true ∧ (s.dev.chan c).lastOver + second = s.dev.up) :=
  ⟨⟨onChans {} {} {} { seen := some (true, 5) }, 36, true, 5, by decide⟩,
    ⟨onChans {} {} { locked := true } { seen := some (false, 5) }, 192, false, 5, by decide⟩,
    ⟨onChans { flat := true } {} {} { run := 63, runEnd := 2 ^ 36 - ms 2 }, 36, by decide⟩,
    ⟨onChans {} { flat := true } { locked := true } { run := 63, runEnd := 2 ^ 36 - ms 2 }, 192, by decide⟩,
    ⟨onChans { ovl := true, lastOver := 63 * second } {} {}, 36, by decide⟩⟩

theorem wit_DirectInputs :
    (∃ (s : State) (x : Fin 4), s.dev.metRuns = true ∧ s.dev.dmMode x = 2 ∧ (s.dev.dm x).locked = false ∧ (s.dev.dm x).goodRun = 64) ∧
    (∃ (s : State) (x : Fin 4), s.dev.metRuns = true ∧ s.dev.dmMode x = 2 ∧ (s.dev.dm x).locked = true ∧ (s.dev.dm x).badRun = 16) ∧
    (∃ (s : State) (x : Fin 4), s.dev.metRuns = true ∧ s.dev.dmMode x = 2 ∧ (s.dev.dm x).locked = false ∧
      (s.dev.dm x).alignPosted = none ∧ (s.dev.dm x).unlockedSince + second = s.dev.up) ∧
    (∃ (s : State) (x : Fin 4) (t : Nat), s.dev.metRuns = true ∧ s.dev.dmMode x = 2 ∧ (s.dev.dm x).locked = false ∧
      (s.dev.dm x).alignPosted = some t ∧ t + 60 * second = s.dev.up) ∧
    (∃ s : State, s.dev.metRuns = true ∧ s.dev.pwr.pstate = .run ∧ s.dev.serving = true ∧ s.dev.quarterDue 0x31 = true) :=
  ⟨⟨onChans {} {} { goodRun := 64 }, 0, by decide⟩, ⟨onChans {} {} { locked := true, badRun := 16 }, 0, by decide⟩,
    ⟨onChans {} {} { unlockedSince := 63 * second }, 0, by decide⟩,
    ⟨onChans {} {} { alignPosted := some (4 * second) }, 0, 4 * second, by decide⟩, ⟨st run, by decide⟩⟩

/-- Account 5 in METERING with one pair, which is not BIDIRECTIONAL. -/
def metering : List Byte := layout 32 [⟨0, 1, 5⟩, ⟨3, 1, 2⟩, ⟨4, 2, 36⟩, ⟨6, 2, 0xFFFF⟩, ⟨8, 2, 0xFFFF⟩, ⟨11, 2, 0xFFFF⟩, ⟨18, 1, 0xFF⟩]

def onPair (p : PairRun) : State := st { run with accts := ⟨[(5, { block := metering, shown := 2, pairs := ⟨[(0, p)]⟩ })]⟩ }

theorem wit_SamplesAndReversals :
    (∃ s : State, s.dev.metRuns = true ∧ s.dev.pwr.smpClocks = 1536) ∧
    (∃ s : State, s.dev.metRuns = true ∧ s.dev.pwr.smpClocks = 1535 ∧ s.dev.stores = []) ∧
    (∃ (s : State) (a : Fin 64) (k : Fin 3), s.dev.metRuns = true ∧ s.dev.inService a = true ∧ k.val ∈ s.dev.pairsOf a ∧
      blkDir (s.dev.acct a).block ≠ 1 ∧ (s.dev.pair a k).reversed = false ∧ (s.dev.pair a k).revRun = 1000) ∧
    (∃ (s : State) (a : Fin 64) (k : Fin 3), s.dev.metRuns = true ∧ (s.dev.pair a k).reversed = true ∧
      (s.dev.pair a k).backRun = 1000) :=
  ⟨⟨st run, by decide⟩, ⟨st { run with pwr := { run.pwr with smpClocks := 1535 } }, by decide⟩, ⟨onPair { revRun := 1000 }, 5, 0, by decide⟩,
    ⟨onPair { reversed := true, backRun := 1000 }, 5, 0, by decide⟩⟩

/-- A sequence of two entries, with comparator 1 on input 2, both edges, and comparator 2 on input 3, falling. -/
def seqBytes : List Byte :=
  layout 48 [⟨0, 1, 2⟩, ⟨8, 1, 0xFF⟩, ⟨12, 1, 2⟩, ⟨13, 1, 10⟩, ⟨14, 1, 8⟩, ⟨16, 1, 3⟩, ⟨17, 1, 10⟩, ⟨18, 1, 4⟩, ⟨20, 1, 0xFF⟩]

/-- That sequence in effect, with the sequencer as given; Converter B is free for it. -/
def onAux (a : Aux) : State := st { run with aux := { a with seq := some seqBytes }, pwr := { run.pwr with smpClocks := 16 } }

/-- A conversion of an entry sampled 18 T ago. -/
def sampled (entry : Nat) : AuxConv := ⟨entry, 0, 0, false, 2 ^ 36 + 1 - clocks 72, 0, false⟩

theorem wit_AuxEvents :
    (∃ (s : State) (b : List Byte) (n : Fin 4) (nv tenths : Nat), s.dev.aux.seq = some b ∧ s.dev.metRuns = true ∧ s.dev.awake = true ∧
      compInput b n ≤ 7 ∧ compNext b n (bitOf s.dev.aux.compLevel n) nv tenths = bitOf s.dev.aux.compLevel n ∧ s.dev.stores = []) ∧
    (∃ (s : State) (b : List Byte) (n : Fin 4) (nv tenths : Nat), s.dev.aux.seq = some b ∧ s.dev.metRuns = true ∧ s.dev.awake = true ∧
      compInput b n ≤ 7 ∧ compNext b n (bitOf s.dev.aux.compLevel n) nv tenths = true ∧ bitOf s.dev.aux.compLevel n = false ∧
      compEdge b n = 1) ∧
    (∃ (s : State) (b : List Byte) (n : Fin 4) (nv tenths : Nat), s.dev.aux.seq = some b ∧ s.dev.metRuns = true ∧ s.dev.awake = true ∧
      compInput b n ≤ 7 ∧ compNext b n (bitOf s.dev.aux.compLevel n) nv tenths = true ∧ bitOf s.dev.aux.compLevel n = false ∧
      compEdge b n = 2) ∧
    (∃ (s : State) (b : List Byte) (r : AuxRun), s.dev.aux.seq = some b ∧ s.dev.metRuns = true ∧ s.dev.aux.run = some r ∧
      r.next + 1 = seqCount b ∧ s.dev.auxFree = true ∧ r.ready = s.dev.up + 1) ∧
    (∃ (s : State) (b : List Byte) (x : AuxConv) (r : AuxRun), s.dev.aux.seq = some b ∧ s.dev.metRuns = true ∧ s.dev.aux.sampled = [x] ∧
      x.at_ + clocks 72 = s.dev.up + 1 ∧ s.dev.aux.run = some r ∧ x.number = r.number ∧ x.entry + 1 < seqCount b) ∧
    (∃ (s : State) (b : List Byte) (x : AuxConv) (r : AuxRun), s.dev.aux.seq = some b ∧ s.dev.metRuns = true ∧ s.dev.aux.sampled = [x] ∧
      x.at_ + clocks 72 = s.dev.up + 1 ∧ s.dev.aux.run = some r ∧ x.number = r.number ∧ x.entry + 1 = seqCount b ∧
      s.dev.aux.queued ≠ none) :=
  ⟨⟨onAux {}, seqBytes, 1, 46875000, 10000, by decide⟩, ⟨onAux {}, seqBytes, 2, 1000000000, 10000, by decide⟩,
    ⟨onAux {}, seqBytes, 1, 1000000000, 10000, by decide⟩,
    ⟨onAux { run := some { next := 1, ready := 2 ^ 36 + 1 } }, seqBytes, { next := 1, ready := 2 ^ 36 + 1 }, by decide⟩,
    ⟨onAux { run := some { next := 2 }, sampled := [sampled 0] }, seqBytes, sampled 0, { next := 2 }, by decide⟩,
    ⟨onAux { run := some { next := 2 }, sampled := [sampled 1], queued := some [] }, seqBytes, sampled 1, { next := 2 }, by decide⟩⟩

def onTrk (t : Tracker) : State := st { run with trk := t, pwr := { run.pwr with cyclesSinceBackstop := 8 } }

theorem wit_TrackerEvents :
    (∃ (s : State) (inst : Nat) (pos : Bool) (rest : List (Nat × Bool)), s.dev.metRuns = true ∧
      s.dev.trk.waiting = (inst, pos) :: rest ∧ s.dev.pwr.accum = true) ∧
    (∃ s : State, s.dev.metRuns = true ∧ s.dev.trk.state ≠ .search ∧ s.dev.trk.crossings = [] ∧
      s.dev.trk.opened + s.dev.estPeriod * 3 / 4 = s.dev.up) ∧
    (∃ (s : State) (b : Nat), s.dev.metRuns = true ∧ b = s.dev.trk.freeLast + second / (2 * s.dev.fnom) ∧ s.dev.pwr.accum = true ∧
      s.dev.trk.state = .search ∧ s.dev.reached b = true) ∧
    (∃ s : State, s.dev.metRuns = true ∧ s.dev.pwr.pstate = .run ∧ s.dev.serving = true ∧ s.dev.quarterDue 0x1054 = true) ∧
    (∃ (s : State) (p : Nat), s.dev.metRuns = true ∧ s.dev.trk.predicted = some p ∧ s.dev.trk.tp = none ∧ s.dev.reached p = true ∧
      s.dev.trk.state ≠ .predicting) ∧
    (∃ (s : State) (p : Nat), s.dev.metRuns = true ∧ s.dev.trk.predicted = some p ∧ s.dev.trk.tp = none ∧ s.dev.reached p = true ∧
      s.dev.trk.state = .predicting ∧ s.dev.pwr.cyclesSinceBackstop = 8 ∧ s.dev.trk.wakeFailed = true) ∧
    (∃ (s : State) (p : Nat), s.dev.metRuns = true ∧ s.dev.trk.predicted = some p ∧ s.dev.trk.tp = none ∧ s.dev.reached p = true ∧
      s.dev.trk.state = .predicting ∧ s.dev.pwr.cyclesSinceBackstop = 8 ∧ s.dev.trk.wakeFailed = false) ∧
    (∃ (s : State) (t : Nat), s.dev.metRuns = true ∧ s.dev.trk.tp = some t ∧ s.dev.trk.previews ≠ [] ∧ t + ms 4 = s.dev.up) :=
  ⟨⟨onTrk { waiting := [(5, true)] }, 5, true, [], by decide⟩,
    ⟨onTrk { state := .warmup, opened := 2 ^ 36 - (second / 50) * 3 / 4 }, by decide⟩,
    ⟨onTrk { log := [{ ref := second }] }, second / 100, by decide⟩, ⟨st run, by decide⟩,
    ⟨onTrk { predicted := some 9, log := [{ ref := second }] }, 9, by decide⟩,
    ⟨onTrk { state := .predicting, wakeFailed := true, predicted := some 9, log := [{ ref := second }] }, 9, by decide⟩,
    ⟨onTrk { state := .predicting, predicted := some 9, log := [{ ref := second }] }, 9, by decide⟩,
    ⟨onTrk { state := .predicting, tp := some (2 ^ 36 - ms 4), previews := [⟨9, 5, 1, 7, 0⟩] }, 2 ^ 36 - ms 4, by decide⟩⟩

/-- A harmonic window that has closed, in service or not, with so many staging blocks out of use. -/
def onHarm (host : HostPort) (quarantined : Nat) : State :=
  st { run with host := host, pq := { harm := { closed := some { opened := 0, hcsn := 0 } } }
                eng := { run.eng with quarantined := quarantined } }

theorem wit_PqResults :
    (∃ s : State, s.dev.pwr.pstate = .run ∧ s.dev.metRuns = true ∧ s.dev.serving = true ∧ s.dev.quarterDue 0x1007 = true) ∧
    (∃ (s : State) (w : HarmWin), s.dev.pq.harm.closed = some w ∧ s.dev.serving = false) ∧
    (∃ (s : State) (w : HarmWin), s.dev.pq.harm.closed = some w ∧ s.dev.serving = true ∧
      (sumOn (s.dev.pq.harm.delayed ++ (s.dev.harmRecords w).2) fun b => (b.len + 2047) / 2048) ≤ s.dev.poolFree) ∧
    (∃ (s : State) (w : HarmWin), s.dev.pq.harm.closed = some w ∧ s.dev.serving = true ∧ s.dev.poolFree = 0) ∧
    (∃ (s : State) (b : List Byte) (t : Nat), s.dev.pq.cap.arm = some b ∧ s.dev.pq.cap.trig = some t ∧ s.dev.serving = true ∧
      fieldAt b 6 2 ≤ (s.dev.pq.cap.store.filter fun x => t ≤ x.1).length ∧ bitOf (fieldAt b 3 1) 0 = false) :=
  ⟨⟨st run, by decide⟩, ⟨onHarm {} 0, { opened := 0, hcsn := 0 }, by decide⟩,
    ⟨onHarm run.host 0, { opened := 0, hcsn := 0 }, by decide⟩, ⟨onHarm run.host 1520, { opened := 0, hcsn := 0 }, by decide⟩,
    ⟨st { run with pq := { cap := { arm := some (layout 16 [⟨0, 1, 1⟩, ⟨6, 2, 1⟩]), trig := some 9, store := [(9, []), (8, [])] } } },
      layout 16 [⟨0, 1, 1⟩, ⟨6, 2, 1⟩], 9, by decide⟩⟩

/-- Output 2 as given, with so many pulses pending. -/
def onPulse (p : Pulse) (pending : Nat) : State :=
  st { run with pulses := ⟨[(2, p)]⟩, led := { work := { pulse := { pending := ⟨[(2, pending)]⟩ } } } }

theorem wit_PulseEvents :
    (∃ (s : State) (o : Fin 8), s.dev.stores = [] ∧ s.dev.metRuns = true ∧ (s.dev.pulse o).shorted = false ∧
      (s.dev.pulse o).ended s.dev.up = true ∧ plsCal (s.dev.pulse o).block = false ∧ (s.dev.pulse o).phase = .active) ∧
    (∃ (s : State) (o : Fin 8), s.dev.stores = [] ∧ s.dev.metRuns = true ∧ (s.dev.pulse o).shorted = false ∧
      (s.dev.pulse o).ended s.dev.up = true ∧ plsCal (s.dev.pulse o).block = false ∧ (s.dev.pulse o).phase = .rest ∧
      s.dev.pulsePending o = 0) ∧
    (∃ (s : State) (o : Fin 8), s.dev.stores = [] ∧ s.dev.metRuns = true ∧ (s.dev.pulse o).shorted = false ∧
      (s.dev.pulse o).ended s.dev.up = true ∧ plsCal (s.dev.pulse o).block = false ∧ (s.dev.pulse o).phase = .rest ∧
      s.dev.pulsePending o = 1) ∧
    (∃ (s : State) (o : Fin 8), s.dev.stores = [] ∧ s.dev.metRuns = true ∧ (s.dev.pulse o).shorted = false ∧
      (s.dev.pulse o).ended s.dev.up = true ∧ plsCal (s.dev.pulse o).block = false ∧ (s.dev.pulse o).phase = .rest ∧
      s.dev.pulsePending o = 2) ∧
    (∃ (s : State) (o : Fin 8) (t : Nat), s.dev.stores = [] ∧ s.dev.metRuns = true ∧ (s.dev.pulse o).zeroSince = some t ∧
      (s.dev.pulse o).saturated = true ∧ s.dev.pulsePending o = 0 ∧ t + second = s.dev.up) ∧
    (∃ (s : State) (o : Fin 8) (tenths : Nat), s.dev.stores = [] ∧ s.dev.metRuns = true ∧ (s.dev.pulse o).shorted = false ∧ tenths = 501) ∧
    (∃ (s : State) (o : Fin 8) (tenths : Nat), s.dev.stores = [] ∧ s.dev.metRuns = true ∧ (s.dev.pulse o).shorted = true ∧
      (s.dev.pulse o).redriving = true ∧ tenths = 1) ∧
    (∃ (s : State) (o : Fin 8), s.dev.stores = [] ∧ s.dev.metRuns = true ∧ (s.dev.pulse o).shorted = true ∧
      (s.dev.pulse o).redriving = false ∧ (s.dev.pulse o).shortAt + ms 100 = s.dev.up) ∧
    (∃ (s : State) (o : Fin 8), s.dev.stores = [] ∧ s.dev.metRuns = true ∧ (s.dev.pulse o).shorted = true ∧
      (s.dev.pulse o).redriving = true ∧ (s.dev.pulse o).shortAt + ms 1 = s.dev.up) ∧
    (∃ s : State, s.dev.stores = [] ∧ s.dev.pwr.pstate = .run ∧ s.dev.serving = true ∧ s.dev.quarterDue 0x1075 = true) :=
  ⟨⟨onPulse { phase := .active, width := 30, since := 2 ^ 36 - ms 30 } 1, 2, by decide⟩,
    ⟨onPulse { phase := .rest, width := 30 } 0, 2, by decide⟩, ⟨onPulse { phase := .rest, width := 30 } 1, 2, by decide⟩,
    ⟨onPulse { phase := .rest, width := 30 } 2, 2, by decide⟩,
    ⟨onPulse { saturated := true, zeroSince := some (63 * second) } 0, 2, 63 * second, by decide⟩,
    ⟨onPulse {} 0, 2, 501, by decide⟩, ⟨onPulse { shorted := true, redriving := true } 0, 2, 1, by decide⟩,
    ⟨onPulse { shorted := true, shortAt := 2 ^ 36 - ms 100 } 0, 2, by decide⟩,
    ⟨onPulse { shorted := true, redriving := true, shortAt := 2 ^ 36 - ms 1 } 0, 2, by decide⟩, ⟨st run, by decide⟩⟩

theorem wit_SealPin :
    (∃ (s : State) (micros : Nat), s.dev.units = true ∧ s.dev.cal.sealed = true ∧ micros = 100000 ∧
      s.dev.since s.dev.pwr.recallAt (ms 100) = true ∧ s.dev.pwr.recallAt + ms 100 = s.dev.up) ∧
    (∃ s : State, s.dev.awake = true ∧ s.dev.stores = []) :=
  ⟨⟨st { run with pwr := { run.pwr with recallAt := 2 ^ 36 - ms 100 } }, 100000, by decide⟩, ⟨st (inState .doze), by decide⟩⟩

theorem wit_TamperChecks :
    (∃ (s : State) (t : Nat) (mv : Int), s.dev.pwr.pstate = .hold ∧ s.dev.tam.lastCheck = some t ∧ t + ms 250 = s.dev.up ∧
      s.dev.tam.batLost = false ∧ mv = 1799 ∧ s.dev.tam.batLowRun = 2) ∧
    (∃ (s : State) (mv : Int), s.dev.awake = true ∧ s.dev.tam.lastCheck = none ∧ s.dev.tam.batLost = false ∧ mv = 1799 ∧
      s.dev.tam.batLowRun = 3) ∧
    (∃ (s : State) (mv : Int), s.dev.awake = true ∧ s.dev.tam.lastCheck = none ∧ s.dev.tam.batLost = true ∧ mv = 2000 ∧
      s.dev.tam.batOkRun = 3) ∧
    (∃ (s : State) (mv : Int), s.dev.awake = true ∧ s.dev.tam.lastCheck = none ∧ s.dev.tam.batLost = true ∧ mv = 1999) ∧
    (∃ s : State, s.dev.windowDue = true) ∧
    (∃ s : State, s.dev.pwr.pstate = .run ∧ s.dev.serving = true ∧ s.dev.quarterDue 0x30 = true) :=
  ⟨⟨st { inState .hold with tam := { lastCheck := some (2 ^ 36 - ms 250), batLowRun := 2 } }, 2 ^ 36 - ms 250, 1799, by decide⟩,
    ⟨st { run with tam := { batLowRun := 3 } }, 1799, by decide⟩, ⟨st { run with tam := { batLost := true, batOkRun := 3 } }, 2000, by decide⟩,
    ⟨st { run with tam := { batLost := true } }, 1999, by decide⟩, ⟨st run, by decide⟩, ⟨st run, by decide⟩⟩

/-- A package with a tariff section of DEMAND_MIN 30 and friendly hours from minute 100 to minute 200. -/
def package : List Byte :=
  layout 208 [⟨36, 1, 1⟩, ⟨128, 2, 1⟩, ⟨132, 4, 144⟩, ⟨136, 4, 64⟩, ⟨150, 1, 30⟩, ⟨152, 2, 100⟩, ⟨154, 2, 200⟩]

/-- An LY64 with that package in effect, at a second's last tick; account 5 is in METERING, with reasons to open its relay. -/
def onTariff (t : Tariff) (reasons : Nat) : State :=
  st { run with store := { package := some package }, tariff := t, accts := ⟨[(5, { block := metering, shown := 2 })]⟩
                led := { work := { opens := ⟨[(5, { tst := { openReasons := reasons, tflags := 8 } })]⟩ } }
                pq := { run.pq with secOn := true, ticks := 99 } }

theorem wit_TariffEvents :
    (∃ (s : State) (t : Int), s.dev.tickStill = true ∧ s.dev.tariff.arrivedAt = some t ∧
      t + (s.dev.holdMin * 60 * second : Nat) = s.dev.up ∧ s.dev.led.work.device.gridSource ≠ 2 ∧ s.dev.tariff.arrival = none) ∧
    (∃ (s : State) (slot off : Int) (dm : Nat), s.dev.tickStill = true ∧ s.dev.ratesStand = true ∧ s.dev.tariff.arrival = none ∧
      s.dev.pwr.timeInvalid = false ∧ s.dev.tariff.restart = false ∧ s.dev.tariff.wasInvalid = false ∧ s.dev.tariff.lastOffset = some off ∧
      off = s.dev.localOffset ∧ s.dev.tariff.lastDemandMin = some dm ∧ dm = tarDemandMin s.dev.section_ ∧
      s.dev.tariff.lastSlot = some slot ∧ s.dev.demandSlot = slot + 1) ∧
    (∃ s : State, s.dev.tickStill = true ∧ s.dev.ratesStand = true ∧ s.dev.tariff.arrival = none ∧ s.dev.friendly = false ∧
      s.dev.demandPlan.2 = .none) ∧
    (∃ (s : State) (a : Fin 65), s.dev.tickStill = true ∧ s.dev.ratesStand = true ∧ s.dev.evaluated a = true ∧ s.dev.endsSecond = true ∧
      bitOf (s.dev.openBlk a).tst.openReasons 1 = true ∧ (s.dev.openBlk a).tst.recloseLeft = 1) :=
  ⟨⟨onTariff { arrivedAt := some (2 ^ 36 - 900 * second) } 0, 2 ^ 36 - 900 * second, by decide +kernel⟩,
    ⟨onTariff { lastSlot := some (-1), lastOffset := some 0, lastDemandMin := some 30 } 0, -1, 0, 30, by decide +kernel⟩,
    ⟨onTariff { lastSlot := some 0, lastOffset := some 0, lastDemandMin := some 30 } 0, by decide +kernel⟩,
    ⟨let s := onTariff { lastSlot := some 0, lastOffset := some 0, lastDemandMin := some 30 } 2
     { s with dev := { s.dev with led := { work := { opens := ⟨[(5, { tst := { openReasons := 2, recloseLeft := 1 } })]⟩ } } } },
      5, by decide +kernel⟩⟩

theorem wit_SecondEvents :
    (∃ (s : State) (x : SecDone), s.dev.metRuns = true ∧ s.dev.pq.secDone = some x ∧ s.dev.pwr.accum = true) ∧
    (∃ s : State, s.dev.metRuns = true ∧ s.dev.pwr.pstate = .run ∧ s.dev.serving = true ∧ s.dev.pqOn 4 = true ∧
      s.dev.quarterDue 0x14 = true) :=
  ⟨⟨st { run with pq := { secDone := some {} } }, {}, by decide⟩, ⟨st run, by decide⟩⟩

theorem wit_EpochsWrap :
    (∃ (d : Dev) (e x : Nat), d.book.get e 1 = 255 ∧ x ≠ e) ∧ (∃ (d : Dev) (e : Nat), d.book.get e 1 = 254) ∧
    (∃ (d : Dev) (a b : Nat), (d.openBlk a).epoch = 255 ∧ b ≠ a) :=
  ⟨⟨{ book := ⟨[(0x44, 255)]⟩ }, 0x44, 0x45, by decide⟩, ⟨{ book := ⟨[(0x44, 254)]⟩ }, 0x44, by decide⟩,
    ⟨{ led := { work := { opens := ⟨[(5, { epoch := 255 })]⟩ } } }, 5, 64, by decide⟩⟩

/-- A commit under way, numbered 9. -/
def commit9 (final : Bool) : Commit := { img := {}, seq := 9, final := final, reason := 0, time := 0, blocks := [] }

theorem wit_Commits :
    (∃ s : State, s.dev.units = true ∧ s.dev.pwr.tickSmps = 160) ∧
    (∃ s : State, s.dev.pwr.tickSmps = 159 ∧ s.dev.stores = []) ∧
    (∃ (s : State) (w : Commit), s.dev.led.writing = some w ∧ w.final = false ∧ s.dev.units = true) ∧
    (∃ s : State, s.dev.led.writing = none ∧ s.dev.stores = []) :=
  ⟨⟨st (inState .doze), by decide⟩, ⟨st { run with pwr := { run.pwr with tickSmps := 159 } }, by decide⟩,
    ⟨st { run with led := { writing := some (commit9 false) } }, commit9 false, rfl, rfl, by decide⟩, ⟨st run, rfl, rfl⟩⟩

theorem wit_CommitSet : ∃ d : Dev, d.led.repairDue = false ∧ d.led.rewrite ≠ [] := ⟨{ led := { rewrite := [0x0100] } }, by decide⟩

/-- A group write of the PQ group, executing. -/
def pqWrite (refresh retried : Bool) : Writing :=
  { w := { group := 0x05, key := 0, block := layout 32 [⟨1, 1, 0x1F⟩], cmd := some ⟨.ring 0, 7, false⟩ }, payload := layout 32 [⟨1, 1, 0x1F⟩]
    refresh := refresh, retried := retried }

def onStore (c : ConfigStore) : State := st { run with store := c, pwr := { run.pwr with runTicks := 86400 * 32768 } }

theorem wit_ConfigStore :
    (∃ (s : State) (x : Writing), s.dev.store.executing = some x ∧ s.dev.units = true ∧ s.dev.waitsErase x.w.group = false ∧
      x.refresh = false ∧ x.retried = false ∧ x.w.group ≠ 0x0B) ∧
    (∃ (s : State) (x : Writing), s.dev.store.executing = some x ∧ s.dev.units = true ∧ s.dev.waitsErase x.w.group = false ∧
      x.refresh = true ∧ x.w.group ≠ 0x0B) ∧
    (∃ (s : State) (x : Nat) (t : List Nat), s.dev.store.erasing = x :: t ∧ x ∈ s.dev.store.dirty ∧ s.dev.units = true) ∧
    (∃ (s : State) (t : Nat), s.dev.serving = true ∧ s.dev.pwr.pstate = .run ∧ s.dev.store.lastMargin = some t ∧
      t + 86400 * 32768 = s.dev.pwr.runTicks) ∧
    (∃ s : State, s.dev.serving = true ∧ s.dev.led.scrubAt + 60 * second = s.dev.up ∧ s.dev.since s.dev.led.scrubAt (60 * second) = true) ∧
    (∃ s : State, s.dev.serving = true ∧ s.dev.led.sramAt + 4 * second = s.dev.up ∧ s.dev.since s.dev.led.sramAt (4 * second) = true) :=
  ⟨⟨onStore { executing := some (pqWrite false false) }, pqWrite false false, by decide⟩,
    ⟨onStore { executing := some (pqWrite true false) }, pqWrite true false, by decide⟩,
    ⟨onStore { erasing := [4], dirty := [4] }, 4, [], by decide⟩, ⟨onStore { lastMargin := some 0 }, 0, by decide⟩,
    ⟨st { run with led := { scrubAt := 4 * second } }, by decide⟩, ⟨st { run with led := { sramAt := 60 * second } }, by decide⟩⟩

/-- A slot of a contained error, opened 100 ms ago. -/
def slot2 : ErrSlot := { err := { code := 0x0103, cls := 2 }, time := 0, since := 2 ^ 36 - ms 100 }

def onTest (t : SelfTest) : State := st { run with test := some t }

/-- A SELFTEST command's test, of link 3 where it is one of a link. -/
def selfTest (test duration since : Nat) : SelfTest := { cmd := ⟨.ring 0, 7, false⟩, test := test, target := 3, duration := duration, since := since }

theorem bits_length : ∀ l : List Byte, (l.flatMap bitsMsb).length = 8 * l.length
  | [] => rfl
  | b :: t => by
    rw [List.flatMap_cons, List.length_append, bits_length t, List.length_cons]
    have : (bitsMsb b).length = 8 := rfl
    omega

/-- 512 bytes are 4,096 raw bits, enough for the start test. -/
theorem startTest_some {raw : List Byte} (h : 512 ≤ raw.length) : ∃ bad, startTest raw = some bad := by
  have n := bits_length raw
  exact ⟨_, if_neg (by rw [List.length_take, n]; omega)⟩

/-- Raw bytes of the noise source, enough for it. -/
def rawBytes : List Byte := List.replicate 512 0#8

theorem wit_UnitResults :
    (∃ (s : State) (t : ErrSlot), s.dev.err.slot = some t ∧ s.dev.errRuns = true ∧ t.err.cls = 2 ∧
      s.dev.since t.since (errWindow t.err.cls) = true) ∧
    (∃ s : State, s.dev.errRuns = true ∧ s.dev.pwr.pstate = .run ∧ s.dev.quarterDue 0x70 = true) ∧
    (∃ (s : State) (t : SelfTest), s.dev.test = some t ∧ s.dev.serving = true ∧ s.dev.since t.since t.span = true ∧ t.test = 0x01) ∧
    (∃ (s : State) (t : SelfTest), s.dev.test = some t ∧ s.dev.serving = true ∧ s.dev.since t.since t.span = true ∧ t.test = 0x02) ∧
    (∃ (s : State) (t : SelfTest), s.dev.test = some t ∧ s.dev.serving = true ∧ s.dev.since t.since t.span = true ∧ t.test = 0x10) ∧
    (∃ (s : State) (t : SelfTest) (raw : List Byte) (bad : Bool), s.dev.test = some t ∧ s.dev.serving = true ∧
      s.dev.since t.since t.span = true ∧ t.test = 0x20 ∧ startTest raw = some bad) ∧
    (∃ s : State, s.dev.trngOn = true ∧ s.dev.keys.seeded = false) ∧
    (∃ s : State, s.dev.trngOn = true ∧ s.dev.keys.seeded = true ∧ s.dev.reseedDue = true ∧ s.dev.keys.requests = 65536) ∧
    (∃ (s : State) (w : SnapWait) (t : List SnapWait) (bytes : List Byte), s.dev.keys.snaps = w :: t ∧ w.taken = some bytes ∧
      s.dev.serving = true ∧ s.dev.drbgReady = true ∧ w.commit = s.dev.led.lastSeq) :=
  ⟨⟨st { run with err := { slot := some slot2 } }, slot2, by decide⟩, ⟨st run, by decide⟩,
    ⟨onTest (selfTest 0x01 64 0), selfTest 0x01 64 0, by decide⟩,
    ⟨onTest (selfTest 0x02 0 (63 * second)), selfTest 0x02 0 (63 * second), by decide⟩,
    ⟨onTest (selfTest 0x10 1 (63 * second)), selfTest 0x10 1 (63 * second), by decide⟩,
    ⟨onTest (selfTest 0x20 0 (2 ^ 36)), selfTest 0x20 0 (2 ^ 36), rawBytes,
      (startTest_some (raw := rawBytes) List.length_replicate.ge).choose, by decide, by decide, by decide, by decide,
      (startTest_some (raw := rawBytes) List.length_replicate.ge).choose_spec⟩, ⟨st run, by decide⟩,
    ⟨st { run with keys := { seeded := true, requests := 65536 } }, by decide⟩,
    ⟨st { run with keys := { seeded := true, snaps := [{ cmd := cmd0 0, account := 5, taken := some [], commit := 0 }] } },
      { cmd := cmd0 0, account := 5, taken := some [], commit := 0 }, [], [], by decide⟩⟩

/-- `run` with the third vector's window open since 1 ms ago, for the PF. -/
def onWin : State :=
  st { run with host := { run.host with
    fns := ⟨[(0, { bme := true, win := ⟨[(2, { opened := true, since := 2 ^ 36 - ms 1, count := 1 })]⟩ }), (1, { bme := true })]⟩ } }

/-- `run` with the link down since 1 ms ago. -/
def linkLost : Dev := { run with host := { run.host with linkUp := false, downSince := 2 ^ 36 - ms 1 } }

theorem wit_HostLink :
    (∃ s : State, s.dev.pwr.hostmode = true ∧ s.dev.metRuns = true ∧ s.dev.host.linkUp = true ∧ s.dev.pwr.pstate = .run) ∧
    (∃ s : State, s.dev.pwr.hostmode = true ∧ s.dev.metRuns = true ∧ s.dev.host.linkUp = true ∧ s.dev.pwr.pstate = .hold) ∧
    (∃ s : State, s.dev.pwr.hostmode = true ∧ s.dev.metRuns = true ∧ s.dev.pwr.step = .ready ∧ s.dev.host.linkUp = false ∧
      s.dev.since s.dev.host.downSince (ms 1) = true ∧ s.dev.host.downSince + ms 1 = s.dev.up ∧ s.dev.pwr.backstop = false) ∧
    (∃ s : State, s.dev.pwr.hostmode = true ∧ s.dev.awake = true ∧ s.dev.pwr.metClock = true ∧ s.dev.stores = []) ∧
    (∃ (s : State) (f : Nat), s.dev.hostAlive = true ∧ f = 1 ∧ s.dev.vfExists f = true) :=
  ⟨⟨st run, by decide⟩, ⟨st { run with pwr := { run.pwr with pstate := .hold, finalDone := false } }, by decide⟩, ⟨st linkLost, by decide⟩,
    ⟨st linkLost, by decide⟩, ⟨st run, 1, by decide⟩⟩

theorem wit_Registers :
    (∃ (s : State) (w : RegVal) (f : Nat), w.path = .pcie f ∧ f = 1 ∧ s.dev.barAlive f = true) ∧
    (∃ (s : State) (w : RegVal), w.path = .twt ∧ s.dev.twtWrites = true ∧ s.dev.regWrite w.path = true) ∧
    (∃ (s : State) (w : RegVal), w.path = .pcie 0 ∧ s.dev.regWrite w.path = true) ∧
    (∃ (s : State) (f off : Nat), f = 0 ∧ s.dev.barAlive f = true ∧ off = 0x40) ∧
    (∃ (s : State) (f : Nat), f = 1 ∧ s.dev.vfExists f = true ∧ s.dev.hostAlive = true) ∧
    (∃ s : State, s.dev.pwr.hostmode = true ∧ s.dev.awake = true ∧ s.dev.pwr.metClock = true ∧ s.dev.host.linkUp = true ∧
      s.dev.pwr.step ≠ .ready) ∧
    (∃ s : State, s.dev.stores = [] ∧ s.dev.hostAlive = false ∧ s.dev.twtWrites = false) :=
  ⟨⟨st run, { path := .pcie 1, value := 1#64 }, 1, by decide⟩, ⟨st { pwr := { step := .ledgerRecall } }, { path := .twt, value := 1#64 }, by decide⟩,
    ⟨st (inState .doze), { value := 4#64 }, by decide⟩, ⟨st run, 0, 0x40, by decide⟩, ⟨st run, 1, by decide⟩,
    ⟨st { run with pwr := { run.pwr with step := .ledgerRecall } }, by decide⟩, ⟨State.reset, by decide⟩⟩

theorem wit_RegisterLocks :
    (∃ s : State, s.dev.host.negotiated = true ∧ s.dev.stores = []) ∧
    (∃ (d : Dev) (w : RegVal), w.path = .pcie 0 ∧ d.host.negotiated = false ∧ w.lo = true ∧ w.hi = true) ∧
    (∃ (d : Dev) (w : RegVal), w.path = .pcie 0 ∧ d.host.mover.isSome = true) ∧
    (∃ (d : Dev) (w : RegVal), w.path = .pcie 0 ∧ d.host.mover = none ∧ w.lo = true ∧ w.hi = false) ∧
    (∃ off, off ∉ [0x10, 0x18, 0x28, 0x30, 0x38, 0x48, 0x50, 0x58]) :=
  ⟨⟨st run, rfl, rfl⟩, ⟨{}, { value := 0xFFFFFFFFFFFFFFFF#64 }, by decide⟩,
    ⟨{ host := { mover := some ⟨false, 0, 0, 4, 0⟩ } }, { value := 1#64 }, by decide⟩, ⟨{}, { hi := false, value := 1#64 }, by decide⟩,
    ⟨0x60, by decide⟩⟩

theorem wit_CauseClears :
    (∃ (d : Dev) (f : Nat), f ≠ 0 ∧ (d.fn f).cause ≠ 0#4) ∧ (∃ (d : Dev) (f : Nat), f = 0 ∧ d.err.queue = []) ∧
    (∃ (d : Dev) (f : Nat), f = 0 ∧ d.err.queue ≠ [] ∧ (d.fn f).cause = 0xF#4) :=
  ⟨⟨{ host := { fns := ⟨[(1, { cause := 4#4 })]⟩ } }, 1, by decide⟩, ⟨{}, 0, by decide⟩,
    ⟨{ host := { fns := ⟨[(0, { cause := 0xF#4 })]⟩ }, err := { queue := [⟨{ code := 0x0301, cls := 0 }, 0, 0, 0, 0, false, 0, 0⟩] } }, 0,
      by decide⟩⟩

theorem wit_FunctionsAndMessages :
    (∃ (s : State) (f v : Nat), s.dev.units = true ∧ ((s.dev.fn f).win.get v {}).opened = true ∧
      s.dev.since ((s.dev.fn f).win.get v {}).since (us (s.dev.holdoff f v)) = true) ∧
    (∃ (s : State) (t : Fin 64), s.dev.hostAlive = true ∧ s.dev.vfExists (t.val + 1) = true) ∧
    (∃ (s : State) (n : Fin 65), s.dev.hostAlive = true ∧ s.dev.host.vfEnable = true ∧ s.dev.host.numVfs = n.val) ∧
    (∃ (s : State) (n : Fin 65), s.dev.hostAlive = true ∧ s.dev.host.vfEnable = false ∧ n = 64) ∧
    (∃ (s : State) (t : Fin 64), s.dev.host.flrWait.contains t.val = true ∧
      (∀ p ∈ s.dev.eng.rings.cells, s.dev.ringOwner p.1 = t.val → p.2.state = .stopping → (s.dev.ring p.1).owed = 0)) :=
  ⟨⟨onWin, 0, 2, by decide⟩, ⟨st run, 0, by decide⟩, ⟨st run, 1, by decide⟩,
    ⟨st { run with host := { run.host with vfEnable := false } }, 64, by decide⟩,
    ⟨st { run with host := { run.host with flrWait := [0] }, eng := { run.eng with rings := ⟨[(513, { state := .stopping })]⟩ } }, 0, by decide⟩⟩

theorem wit_NegotiationAndRestart :
    (∃ (s : State) (a : W64), s.dev.host.negotiating = some a ∧ s.dev.pwr.hostmode = false) ∧
    (∃ (s : State) (a : W64), s.dev.host.negotiating = some a ∧ s.dev.pwr.hostmode = true ∧ s.dev.host.negotiated = false) ∧
    (∃ s : State, s.dev.host.negotiating = none ∧ s.dev.stores = []) ∧
    (∃ s : State, s.dev.pwr.backstop = true ∧ s.dev.pwr.checking = true ∧ s.dev.host.negotiated = true ∧ s.dev.units = true ∧
      s.dev.pwr.cause = 3 ∧ s.dev.led.work.errors.fatalCode ≠ 0x0405 ∧ s.dev.pwr.hostmode = false) ∧
    (∃ (s : State) (pll logic : Bool), s.dev.pwr.backstop = true ∧ s.dev.pwr.checking = true ∧ s.dev.host.negotiated = true ∧
      s.dev.units = true ∧ s.dev.pwr.cause = 3 ∧ (pll = false ∨ logic = false) ∧ s.dev.stores = []) :=
  ⟨⟨st { run with pwr := { run.pwr with hostmode := false }, host := { negotiating := some 0x0001#64 } }, 0x0001#64, by decide⟩,
    ⟨st { run with host := { negotiating := some 0x0001#64 } }, 0x0001#64, by decide⟩, ⟨st run, by decide⟩,
    ⟨st { run with pwr := { run.pwr with backstop := true, cause := 3, checking := true, hostmode := false } }, by decide⟩,
    ⟨st { run with pwr := { run.pwr with backstop := true, cause := 3, checking := true } }, true, false, by decide⟩⟩

/-- `run` with a transfer in the mover. -/
def moving (m : MoverRun) : State := st { run with host := { run.host with mover := some m } }

theorem wit_Mover :
    (∃ (s : State) (w : RegVal), s.dev.pfWrite w.path = true) ∧
    (∃ (s : State) (m : MoverRun) (data : List Byte), s.dev.host.mover = some m ∧ s.dev.units = true ∧ m.dir = false ∧
      data.length = m.left ∧ s.Inv ∧ m.dst + m.left = 0x60010000 ∧ data ≠ []) ∧
    (∃ (s : State) (m : MoverRun), s.dev.host.mover = some m ∧ s.dev.units = true ∧ m.dir = true ∧ s.dev.stores = []) ∧
    (∃ (s : State) (m : MoverRun) (data : List Byte), s.dev.host.mover = some m ∧ s.dev.units = true ∧ m.dir = true ∧
      m.left ≤ data.length ∧ m.moved ≤ m.left ∧ s.dev.stores = []) :=
  ⟨⟨st run, { value := 1#64 }, by decide⟩,
    ⟨moving ⟨false, 0x1000, 0x6000FFFE, 2, 0⟩, ⟨false, 0x1000, 0x6000FFFE, 2, 0⟩, [1#8, 0#8], rfl, by decide, rfl, rfl, ⟨rfl, rfl⟩, rfl,
      by decide⟩,
    ⟨moving ⟨true, 0x40000000, 0x1000, 2, 0⟩, ⟨true, 0x40000000, 0x1000, 2, 0⟩, by decide⟩,
    ⟨moving ⟨true, 0x40000000, 0x1000, 2, 2⟩, ⟨true, 0x40000000, 0x1000, 2, 2⟩, [1#8, 0#8], by decide⟩⟩

/-- Ring 9, a supervisor's command ring, as given, with the fixed rings as in `run`. -/
def onRing (g : Ring) : State := st { run with eng := { run.eng with rings := run.eng.rings.set 9 g } }

theorem wit_RingService :
    (∃ (s : State) (b : BellRead), s.dev.serving = true ∧ s.dev.barAlive 0 = true ∧ s.dev.host.negotiated = true ∧
      b.ring < s.dev.ringCount ∧ b.ring + 1 = 2 ^ 12 ∧ s.dev.masters 0 = true) ∧
    (∃ (s : State) (b : BellRead), s.dev.serving = true ∧ s.dev.barAlive 0 = true ∧ s.dev.host.negotiated = true ∧
      b.ring < s.dev.ringCount ∧ s.dev.masters 0 = true ∧ fnOfOwner (s.dev.wake.ringOwner b.ring) = 0) ∧
    (∃ (s : State) (b : BellRead) (f : Nat), s.dev.serving = true ∧ f ≠ 0 ∧ s.dev.barAlive f = true ∧ s.dev.host.negotiated = true ∧
      b.ring < s.dev.ringCount ∧ s.dev.has 1 = true ∧ s.dev.ringOwner b.ring ≠ f - 1) ∧
    (∃ (s : State) (b : BellRead), s.dev.serving = true ∧ s.dev.masters (fnOfOwner (s.dev.ringOwner b.ring)) = true ∧
      s.dev.bellDue b.ring = true ∧ (s.dev.ring b.ring).held ≠ []) ∧
    (∃ (s : State) (b : BellRead) (w : Bell), s.dev.serving = true ∧ s.dev.has 12 = true ∧
      s.dev.since s.dev.eng.scanAt (us s.dev.scanUs) = true ∧ b.bell = some w ∧ (s.dev.ring b.ring).ty = 0 ∧
      (s.dev.ring b.ring).state = .started ∧ wrap 32 w.index ≠ (s.dev.ring b.ring).hostIndex ∧
      s.dev.masters (fnOfOwner (s.dev.ringOwner b.ring)) = true) ∧
    (∃ (s : State) (r : Nat), s.dev.serving = true ∧ (s.dev.ring r).state = .started ∧
      (s.dev.ring r).devIndex ≠ (s.dev.ring r).wbIndex ∧ s.dev.masters 0 = true) ∧
    (∃ (s : State) (r : Nat), s.dev.serving = true ∧ s.dev.host.quiesce = false ∧ s.dev.nextService.2 = some r) ∧
    (∃ (s : State) (r : Nat), s.dev.serving = true ∧ (s.dev.ring r).state = .stopping) :=
  ⟨⟨st run, ⟨4095, none⟩, by decide⟩, ⟨st run, ⟨9, none⟩, by decide⟩, ⟨st run, ⟨0, none⟩, 1, by decide⟩,
    ⟨onRing { ty := 2, state := .started, held := [{ ty := 0x10 }] }, ⟨9, none⟩, by decide⟩,
    ⟨onRing { ty := 0, log2 := 4, state := .started }, ⟨9, some { index := 16 }⟩, { index := 16 }, by decide⟩,
    ⟨onRing { ty := 2, log2 := 4, state := .started, devIndex := 1 }, 9, by decide⟩,
    ⟨onRing { ty := 0, log2 := 4, state := .started, partner := 1, hostIndex := 16 }, 9, by decide⟩,
    ⟨onRing { ty := 0, state := .stopping }, 9, by decide⟩⟩

/-- A supervisor's command, with its argument bytes 24, 25, 26–27 and 28–31, LEN 4,096 and its input. -/
def cmdA (a b c e : Nat) (bs : List Byte := []) (tenant : Nat := 0xFF) : Desc :=
  { src := .ring 0, tenant := tenant, len := 4096, args := a + 256 * b + 65536 * c + 2 ^ 32 * e, input := .ok bs }

theorem wit_OpcodeChecks :
    (∃ (c : Instr) (s : State) (x : Desc) (row : OpRow), opcodeRow c = some (x, row) ∧ s.dev.executes x = false) ∧
    (∃ (c : Instr) (s : State) (x : Desc) (row : OpRow), opcodeRow c = some (x, row) ∧ s.dev.executes x = true ∧
      (s.dev.begun x).opcodeOk x row = false) ∧
    (∃ (c : Instr) (s : State) (x : Desc) (row : OpRow), opcodeRow c = some (x, row) ∧ s.dev.executes x = true ∧
      (s.dev.begun x).opcodeOk x row = true ∧ (s.dev.begun x).tenantOk x row = false) ∧
    (∃ (c : Instr) (s : State) (x : Desc) (row : OpRow) (n : Nat), opcodeRow c = some (x, row) ∧ s.dev.executes x = true ∧
      (s.dev.begun x).opcodeOk x row = true ∧ (s.dev.begun x).tenantOk x row = true ∧ row.judged x = some n ∧ x.expEpoch ≠ 0 ∧
      x.expEpoch ≠ (s.dev.begun x).epoch n) :=
  ⟨⟨.nop (cmd0 0), State.reset, _, _, rfl, by decide⟩, ⟨.ringAdd { src := .ring 600 }, st run, _, _, rfl, by decide⟩,
    ⟨.clockGet { src := .ring 0, tenant := 63 }, st run, _, _, rfl, by decide⟩,
    ⟨.auxRead { src := .ring 0, expEpoch := 2 }, st run, _, _, 0x42, rfl, by decide⟩⟩

theorem wit_TenantPrivilege :
    (∃ (c : Instr) (s : State) (x : Desc) (row : OpRow), opcodeRow c = some (x, row) ∧ s.dev.executes x = true ∧
      s.dev.issuer x.ref ≠ 0xFF ∧ row.opcode ∉ [0x0001, 0x0002, 0x0031, 0x0050, 0x0051, 0x0072]) ∧
    (∃ (c : Instr) (s : State) (x : Desc) (row : OpRow), opcodeRow c = some (x, row) ∧ s.dev.executes x = true ∧
      s.dev.issuer x.ref ≠ 0xFF ∧ row.opcode ∈ [0x0001, 0x0002, 0x0031, 0x0050, 0x0072] ∧ x.tenant ≠ s.dev.issuer x.ref) ∧
    (∃ (c : Instr) (s : State) (x : Desc) (row : OpRow), opcodeRow c = some (x, row) ∧ s.dev.executes x = true ∧
      s.dev.issuer x.ref ≠ 0xFF ∧ row.opcode = 0x0051 ∧ s.dev.has 7 = true ∧ x.tenant ≠ s.dev.issuer x.ref) :=
  ⟨⟨.clockSet { src := .ring 600, tenant := 0 }, st run, _, _, rfl, by decide⟩,
    ⟨.ledgerRead { src := .ring 600, tenant := 1 }, st run, _, _, rfl, by decide⟩,
    ⟨.snapshot { src := .ring 600, tenant := 1 }, st run, _, _, rfl, by decide⟩⟩

theorem wit_ReadingOpcodes :
    (∃ (s : State) (x : Desc), Accepted (.nop x) s) ∧
    (∃ (s : State) (x : Desc), Accepted (.calGet x) s ∧ x.arg 24 1 = 0 ∧ calSize (x.arg 24 1) (x.arg 26 2) = some 32 ∧ 32 ≤ x.len) ∧
    (∃ (s : State) (x : Desc), Accepted (.calGet x) s ∧ x.arg 24 1 = 1 ∧ calSize (x.arg 24 1) (x.arg 26 2) = some 40 ∧ 40 ≤ x.len) ∧
    (∃ (s : State) (x : Desc), Accepted (.calGet x) s ∧ x.arg 24 1 = 2 ∧ calSize (x.arg 24 1) (x.arg 26 2) = some 32 ∧ 32 ≤ x.len) ∧
    (∃ (s : State) (x : Desc), Accepted (.configRead x) s ∧ x.arg 24 1 = 1 ∧ slotSize (x.arg 24 1) ≤ x.len) ∧
    (∃ (s : State) (x : Desc), Accepted (.ledgerRead x) s ∧ 832 ≤ x.len) ∧
    (∃ (s : State) (x : Desc), Accepted (.tenantGet x) s ∧ x.tenant = 0xFF ∧ 64 ≤ x.len) ∧
    (∃ (s : State) (x : Desc), Accepted (.clockGet x) s) ∧
    (∃ (s : State) (x : Desc), Accepted (.keyStatus x) s ∧ (s.dev.begun x).issuer x.ref = 0xFF ∧ x.arg 24 1 = 0x41 ∧ 224 ≤ x.len) ∧
    (∃ (s : State) (x : Desc), Accepted (.lineStatus x) s ∧ 128 ≤ x.len) ∧
    (∃ (s : State) (x : Desc), Accepted (.auxRead x) s ∧ 288 ≤ x.len ∧ bitOf (x.arg 24 1) 0 = true) ∧
    (∃ (s : State) (x : Desc), Accepted (.auxRead x) s ∧ 288 ≤ x.len ∧ bitOf (x.arg 24 1) 0 = false) :=
  ⟨⟨st run, cmd0 0, accepted_of (by decide)⟩, ⟨st run, cmdA 0 0 0 0, accepted_of (by decide), by decide⟩,
    ⟨st run, cmdA 1 0 1 0, accepted_of (by decide), by decide⟩, ⟨st run, cmdA 2 0 195 0, accepted_of (by decide), by decide⟩,
    ⟨st run, cmdA 1 0 0 0, accepted_of (by decide), by decide⟩, ⟨st run, cmdA 0 0 0 0 [] 63, accepted_of (by decide), by decide⟩,
    ⟨st run, cmdA 0 0 0 0, accepted_of (by decide), by decide⟩, ⟨st run, cmd0 0, accepted_of (by decide)⟩,
    ⟨st run, cmdA 0x41 0 0 0, accepted_of (by decide), by decide⟩, ⟨st run, cmdA 0 0 0 0, accepted_of (by decide), by decide⟩,
    ⟨st run, cmdA 1 0 0 0, accepted_of (by decide), by decide⟩, ⟨st run, cmdA 0 0 0 0, accepted_of (by decide), by decide⟩⟩

/-- A context of a free-buffer ring with 16 entries. -/
def ctxBytes : List Byte := layout 48 [⟨8, 1, 4⟩, ⟨9, 1, 3⟩]

theorem wit_RingOpcodes :
    (∃ (s : State) (x : Desc) (bs : List Byte), Accepted (.ringAdd x) s ∧ x.input = .ok bs ∧ (s.dev.begun x).poolFree ≠ 0 ∧ 2 < x.ringId ∧
      x.ringId < (s.dev.begun x).ringCount ∧ (s.dev.begun x).ringOwner x.ringId ≠ 0xFE ∧
      (s.dev.begun x).ctxOk x.ringId (({} : Ring).load bs) (fieldAt bs 32 4) false = false) ∧
    (∃ (s : State) (x : Desc) (bs : List Byte), Accepted (.ringAdd x) s ∧ x.input = .ok bs ∧ (s.dev.begun x).poolFree ≠ 0 ∧ x.ringId = 3 ∧
      x.ringId < (s.dev.begun x).ringCount ∧ (s.dev.begun x).ringOwner x.ringId ≠ 0xFE ∧
      (s.dev.begun x).ctxOk x.ringId (({} : Ring).load bs) (fieldAt bs 32 4) false = true ∧
      ((s.dev.begun x).ring x.ringId).state = .absent) ∧
    (∃ (s : State) (x : Desc) (bs : List Byte), Accepted (.ringStart x) s ∧ x.input = .ok bs ∧ (s.dev.begun x).poolFree ≠ 0 ∧ 2 < x.ringId ∧
      x.ringId < (s.dev.begun x).ringCount ∧ (s.dev.begun x).ringOwner x.ringId = 0xFF ∧
      (s.dev.begun x).ctxOk x.ringId (((s.dev.begun x).ring x.ringId).load bs) 0 true = true ∧
      ((s.dev.begun x).ring x.ringId).state = .stopped) ∧
    (∃ (s : State) (x : Desc), Accepted (.ringStop x) s ∧ 2 < x.ringId ∧ x.ringId < (s.dev.begun x).ringCount ∧
      ((s.dev.begun x).ring x.ringId).state = .started ∧ ((s.dev.begun x).ring x.ringId).ty = 0) ∧
    (∃ (s : State) (x : Desc), Accepted (.ringDel x) s ∧ 2 < x.ringId ∧ x.ringId < (s.dev.begun x).ringCount ∧
      ((s.dev.begun x).ring x.ringId).state = .error ∧ ∀ p ∈ (s.dev.begun x).eng.rings.cells, p.2.partner ≠ x.ringId) ∧
    (∃ (s : State) (x : Desc), Accepted (.ringQuery x) s ∧ x.ringId < (s.dev.begun x).ringCount ∧ x.len = 4096) ∧
    (∃ (s : State) (x : Desc), Accepted (.ringBlockAssign x) s ∧ 0 < x.arg 24 2 ∧ 512 * x.arg 24 2 < (s.dev.begun x).ringCount ∧
      x.arg 26 1 = 0xFF ∧
      ∀ p ∈ (s.dev.begun x).eng.rings.cells, p.1 / 512 = x.arg 24 2 → p.2.state = .absent) ∧
    (∃ (s : State) (x : Desc), Accepted (.bufReassign x) s ∧ x.tenant = 0xFF ∧ x.addr % 256 = 0 ∧ x.len % 256 = 0 ∧ x.len = 16777216) ∧
    (∃ (s : State) (x : Desc), Accepted (.fence x) s) :=
  ⟨⟨st run, cmdA 9 0 0 0 (layout 48 [⟨8, 1, 3⟩, ⟨9, 1, 3⟩]), layout 48 [⟨8, 1, 3⟩, ⟨9, 1, 3⟩], accepted_of (by decide), rfl, by decide⟩,
    ⟨st run, cmdA 3 0 0 0 ctxBytes, ctxBytes, accepted_of (by decide), rfl, by decide⟩,
    ⟨onRing { state := .stopped }, cmdA 9 0 0 0 ctxBytes, ctxBytes, accepted_of (by decide), rfl, by decide⟩,
    ⟨onRing { state := .started }, cmdA 9 0 0 0, accepted_of (by decide), by decide⟩,
    ⟨onRing { state := .error }, cmdA 9 0 0 0, accepted_of (by decide), by decide⟩,
    ⟨st run, cmdA 0xFF 0x0F 0 0, accepted_of (by decide), by decide⟩,
    ⟨st run, cmdA 7 0 0xFF 0, accepted_of (by decide), by decide⟩,
    ⟨st run, { src := .ring 0, len := 16777216 }, accepted_of (by decide), by decide⟩, ⟨st run, cmd0 1, accepted_of (by decide)⟩⟩

/-- A CHANNEL block of channel 195 within Table 11.4, an account block of account 5, an aux sequence stored or not, a pulse
assignment of output 7 stored or not. -/
def chanBytes : List Byte := defChan 195
def acctBytes : List Byte := layout 32 [⟨0, 1, 5⟩, ⟨3, 1, 1⟩, ⟨4, 2, 191⟩, ⟨6, 2, 0xFFFF⟩, ⟨8, 2, 0xFFFF⟩, ⟨11, 2, 0xFFFF⟩, ⟨18, 1, 0xFF⟩]
def pqBytes : List Byte := ({} : Pq).group
def auxBytes (stored : Nat) : List Byte := layout 40 [⟨0, 1, 1⟩, ⟨3, 1, stored⟩, ⟨4, 2, 1⟩]
def plsBytes (flags : Nat) : List Byte := layout 16 [⟨0, 1, 7⟩, ⟨1, 1, 64⟩, ⟨2, 1, 15⟩, ⟨3, 1, flags⟩, ⟨4, 4, 16000000⟩, ⟨8, 2, 250⟩]
def keyBytes : List Byte := layout 96 [⟨0, 1, 0x40⟩, ⟨4, 4, 1⟩]
def pkgBytes : List Byte := layout 432 [⟨0, 4, 0x01564645⟩, ⟨4, 4, 432⟩]

/-- `run` with the seal open. -/
def open_ : Dev := { run with cal := { sealed := false } }

theorem wit_StoreOpcodes :
    (∃ (s : State) (x : Desc) (bs : List Byte), x.input = .ok bs ∧ (s.dev.begun x).poolFree ≠ 0 ∧ Accepted (.calSet x) s ∧ x.arg 24 1 = 2 ∧
      calSize 2 (x.arg 26 2) = some 32 ∧ 32 ≤ x.len ∧ chanBlkOk (x.arg 26 2) bs = true ∧ (s.dev.begun x).cal.sealed = true) ∧
    (∃ (s : State) (x : Desc) (bs : List Byte), x.input = .ok bs ∧ (s.dev.begun x).poolFree ≠ 0 ∧ Accepted (.calSet x) s ∧ x.arg 24 1 = 2 ∧
      calSize 2 (x.arg 26 2) = some 32 ∧ 32 ≤ x.len ∧ chanBlkOk (x.arg 26 2) bs = true ∧ (s.dev.begun x).cal.sealed = false ∧
      (s.dev.begun x).groupPending 0x03 (x.arg 26 2) = false) ∧
    (∃ (s : State) (x : Desc) (bs : List Byte), x.input = .ok bs ∧ (s.dev.begun x).poolFree ≠ 0 ∧ Accepted (.tenantSet x) s ∧ 32 ≤ x.len ∧
      fieldAt bs 0 1 = accountOf x.tenant ∧ (s.dev.begun x).blockOk (accountOf x.tenant) bs = true ∧ bitOf (fieldAt bs 13 1) 0 = false ∧
      sameSealed ((s.dev.begun x).acct (accountOf x.tenant)).block bs = true ∧
      (s.dev.begun x).tenantPending (accountOf x.tenant) = false ∧ blkTarget bs ≠ 0) ∧
    (∃ (s : State) (x : Desc) (bs : List Byte), x.input = .ok bs ∧ (s.dev.begun x).poolFree ≠ 0 ∧ Accepted (.configWrite x) s ∧ x.arg 24 1 = 0x05 ∧ x.len = 32 ∧
      pqOk bs = true) ∧
    (∃ (s : State) (x : Desc) (bs : List Byte), x.input = .ok bs ∧ (s.dev.begun x).poolFree ≠ 0 ∧ Accepted (.auxSeqSet x) s ∧ 40 ≤ x.len ∧ seqOk bs x.len = true ∧
      bitOf (seqZx bs) 1 = true) ∧
    (∃ (s : State) (x : Desc) (bs : List Byte), x.input = .ok bs ∧ (s.dev.begun x).poolFree ≠ 0 ∧ Accepted (.auxSeqSet x) s ∧ 40 ≤ x.len ∧ seqOk bs x.len = true ∧
      bitOf (seqZx bs) 1 = false ∧ (s.dev.begun x).slotsOf 0x07 = []) ∧
    (∃ (s : State) (x : Desc) (bs : List Byte) (stored : Bool), x.input = .ok bs ∧ (s.dev.begun x).poolFree ≠ 0 ∧ Accepted (.pulseAssign x) s ∧ 16 ≤ x.len ∧
      fieldAt bs 0 1 ≤ 7 ∧ plsAccount bs ≤ 64 ∧ plsQuantity bs ≤ 15 ∧ 1 ≤ plsConst bs ∧ plsConst bs ≤ 16000000 ∧ 2 ≤ plsWidth bs ∧
      plsWidth bs ≤ 250 ∧ plsCal bs = false ∧ ((s.dev.begun x).pulse (fieldAt bs 0 1)).pend = none ∧
      (s.dev.begun x).groupPending 0x06 (fieldAt bs 0 1) = false ∧ bitOf (fieldAt bs 3 1) 2 = stored ∧ stored = true) ∧
    (∃ (s : State) (x : Desc) (bs : List Byte), x.input = .ok bs ∧ (s.dev.begun x).poolFree ≠ 0 ∧ Accepted (.pulseAssign x) s ∧ 16 ≤ x.len ∧
      fieldAt bs 0 1 ≤ 7 ∧ plsAccount bs ≤ 64 ∧ plsQuantity bs ≤ 15 ∧ 1 ≤ plsConst bs ∧ plsConst bs ≤ 16000000 ∧ 2 ≤ plsWidth bs ∧
      plsWidth bs ≤ 250 ∧ plsCal bs = false ∧ ((s.dev.begun x).pulse (fieldAt bs 0 1)).pend = none ∧
      (s.dev.begun x).groupPending 0x06 (fieldAt bs 0 1) = false ∧ bitOf (fieldAt bs 3 1) 2 = false) ∧
    (∃ (s : State) (x : Desc) (bs : List Byte), x.input = .ok bs ∧ (s.dev.begun x).poolFree ≠ 0 ∧ Accepted (.keyLoad x) s ∧ 96 ≤ x.len ∧ fieldAt bs 0 1 = 0x40 ∧
      fieldAt bs 1 1 = 0 ∧ ((s.dev.begun x).keyPtr (fieldAt bs 0 1)).gen < fieldAt bs 4 4 ∧
      (s.dev.begun x).keyPending (fieldAt bs 0 1) = false ∧ (s.dev.begun x).keys.ccmFailed = false ∧
      (s.dev.begun x).loadedKey (fieldAt bs 0 1) = none) ∧
    (∃ (s : State) (x : Desc) (bs p : List Byte), x.input = .ok bs ∧ (s.dev.begun x).poolFree ≠ 0 ∧ p = bs.take (fieldAt bs 4 4) ∧ Accepted (.packageLoad x) s ∧
      (s.dev.begun x).groupPending 0x0A 0 = false ∧ fieldAt bs 4 4 = 432 ∧ fieldAt bs 4 4 ≤ x.len ∧
      fieldAt bs 0 4 = 0x01564645 ∧ fieldAt p 16 8 = 0 ∧ (s.dev.begun x).keys.shaFailed = false ∧
      (s.dev.begun x).keys.ecdsaFailed = false ∧ fieldAt p 24 8 = 0) :=
  ⟨⟨st run, cmdA 2 0 195 0 chanBytes, chanBytes, rfl, by decide +kernel, accepted_of (by decide), by decide⟩,
    ⟨st open_, cmdA 2 0 195 0 chanBytes, chanBytes, rfl, by decide +kernel, accepted_of (by decide), by decide⟩,
    ⟨st { run with accts := ⟨[(5, { block := acctBytes, shown := 1 })]⟩ }, cmdA 0 0 0 0 acctBytes 5, acctBytes, rfl, by decide +kernel, accepted_of (by decide), by decide⟩,
    ⟨st run, { cmdA 5 0 0 0 pqBytes with len := 32 }, pqBytes, rfl, by decide +kernel, accepted_of (by decide), by decide +kernel⟩,
    ⟨st run, cmdA 0 0 0 0 (auxBytes 2), auxBytes 2, rfl, by decide +kernel, accepted_of (by decide), by decide +kernel⟩,
    ⟨st run, cmdA 0 0 0 0 (auxBytes 0), auxBytes 0, rfl, by decide +kernel, accepted_of (by decide), by decide +kernel⟩,
    ⟨st run, cmdA 0 0 0 0 (plsBytes 4), plsBytes 4, true, rfl, by decide +kernel, accepted_of (by decide), by decide +kernel⟩,
    ⟨st run, cmdA 0 0 0 0 (plsBytes 0), plsBytes 0, rfl, by decide +kernel, accepted_of (by decide), by decide +kernel⟩,
    ⟨st run, cmdA 0 0 0 0 keyBytes, keyBytes, rfl, by decide +kernel, accepted_of (by decide), by decide +kernel⟩,
    ⟨st run, cmdA 0 0 0 0 pkgBytes, pkgBytes, pkgBytes.take 432, rfl, by decide +kernel, by decide +kernel, accepted_of (by decide +kernel), by decide +kernel⟩⟩

/-- `run` with account 5 in METERING with prepay and a relay on link 3, a LEGAL block as given, and a line key committed. -/
def acting : Dev :=
  { open_ with
    accts := ⟨[(5, { block := layout 32 [⟨0, 1, 5⟩, ⟨3, 1, 2⟩, ⟨4, 2, 36⟩, ⟨6, 2, 0xFFFF⟩, ⟨8, 2, 0xFFFF⟩, ⟨11, 2, 0xFFFF⟩, ⟨17, 1, 1⟩, ⟨18, 1, 3⟩]
                     shown := 2 }), (6, { shown := 3 })]⟩
    led := { work := { legal := ⟨[(5, { fresh := true })]⟩, recovery := ⟨[(1, { account := 5 })]⟩ }, last := { keyptr := ⟨[(0x40, ⟨0, 1, 1⟩)]⟩ } }
    store := { keys := [⟨0x40, 0, 36, 0, 1, 1, [], true, false⟩] }
    links := ⟨[(2, { state := .up })]⟩
    keys := { seeded := true } }

theorem wit_ActingOpcodes_accounts :
    (∃ (s : State) (x : Desc), Accepted (.tenantSuspend x) s ∧ accountOf x.tenant = 5 ∧ (s.dev.begun x).tenantPending 5 = false ∧
      ((s.dev.begun x).acct 5).shown = 2) ∧
    (∃ (s : State) (x : Desc), Accepted (.tenantResume x) s ∧ accountOf x.tenant = 6 ∧ (s.dev.begun x).tenantPending 6 = false ∧
      ((s.dev.begun x).acct 6).shown = 3) ∧
    (∃ (s : State) (x : Desc), Accepted (.gridStateSet x) s ∧ x.arg 24 1 = 3) ∧
    (∃ (s : State) (x : Desc), Accepted (.creditAdd x) s ∧ accountOf x.tenant = 5 ∧ blkPrepay ((s.dev.begun x).acct 5).block ≠ 0 ∧
      x.arg 24 1 ≤ 1 ∧ x.arg 28 4 = ((s.dev.begun x).creditAhead 5).2) ∧
    (∃ (s : State) (x : Desc), Accepted (.creditAdd x) s ∧ accountOf x.tenant = 5 ∧ blkPrepay ((s.dev.begun x).acct 5).block ≠ 0 ∧
      x.arg 24 1 = 0 ∧ ((s.dev.begun x).creditAhead 5).2 + 1 = x.arg 28 4) ∧
    (∃ (s : State) (x : Desc), Accepted (.relaySet x) s ∧ accountOf x.tenant = 5 ∧ blkLink ((s.dev.begun x).acct 5).block = 3 ∧
      x.arg 24 1 = 2) ∧
    (∃ (s : State) (x : Desc), Accepted (.recoverCandidate x) s ∧ x.arg 26 1 = 5 ∧ x.arg 25 1 = 1 ∧
      (s.dev.begun x).cal.sealed = false ∧ (s.dev.begun x).faultHold 5 = true ∧
      ((s.dev.begun x).led.work.recovery.get 1 {}).account = 5 ∧ ((s.dev.begun x).acct 5).recover = none) ∧
    (∃ (s : State) (x : Desc), Accepted (.recoverFresh x) s ∧ x.arg 26 1 = 5 ∧ (s.dev.begun x).cal.sealed = false ∧
      (s.dev.begun x).faultHold 5 = true ∧ ((s.dev.begun x).acct 5).recover = none) :=
  ⟨⟨st acting, cmdA 0 0 0 0 [] 5, accepted_of (by decide), by decide⟩, ⟨st acting, cmdA 0 0 0 0 [] 6, accepted_of (by decide), by decide⟩,
    ⟨st acting, cmdA 3 0 0 0, accepted_of (by decide), by decide⟩, ⟨st acting, cmdA 0 0 0 0 [] 5, accepted_of (by decide), by decide⟩,
    ⟨st acting, cmdA 0 0 0 1 [] 5, accepted_of (by decide), by decide⟩, ⟨st acting, cmdA 2 0 0 0 [] 5, accepted_of (by decide), by decide⟩,
    ⟨st acting, cmdA 1 1 5 0, accepted_of (by decide), by decide⟩, ⟨st acting, cmdA 2 0 5 0, accepted_of (by decide), by decide⟩⟩

theorem wit_ActingOpcodes_units :
    (∃ (s : State) (x : Desc) (k : KeyRec), Accepted (.keyCommit x) s ∧ x.arg 24 1 = 0x40 ∧ (s.dev.begun x).loadedKey (x.arg 24 1) = some k ∧
      (s.dev.begun x).keyPending (x.arg 24 1) = false ∧ k.gen = x.arg 28 4) ∧
    (∃ (s : State) (x : Desc) (k : KeyRec), Accepted (.keyCommit x) s ∧ x.arg 24 1 = 0x40 ∧ (s.dev.begun x).loadedKey (x.arg 24 1) = some k ∧
      (s.dev.begun x).keyPending (x.arg 24 1) = false ∧ k.gen ≠ x.arg 28 4) ∧
    (∃ (s : State) (x : Desc), Accepted (.snapshot x) s ∧ 288 ≤ x.len ∧ (s.dev.begun x).keys.snaps.length < 4 ∧
      (s.dev.begun x).keys.shaFailed = false ∧ (s.dev.begun x).keys.ecdsaFailed = false ∧ (s.dev.begun x).drbgReady = true) ∧
    (∃ (s : State) (x : Desc), Accepted (.clockSet x) s ∧ x.addr = second) ∧
    (∃ (s : State) (x : Desc) (bs : List Byte), Accepted (.captureArm x) s ∧ x.input = .ok bs ∧ (s.dev.begun x).poolFree ≠ 0 ∧ 32 ≤ x.len ∧ armOk bs = true ∧
      (s.dev.begun x).pq.cap.trig.isSome = true) ∧
    (∃ (s : State) (x : Desc) (bs : List Byte), Accepted (.captureArm x) s ∧ x.input = .ok bs ∧ (s.dev.begun x).poolFree ≠ 0 ∧ 32 ≤ x.len ∧ armOk bs = true ∧
      (s.dev.begun x).pq.cap.trig = none ∧ fieldAt bs 0 1 = 0) ∧
    (∃ (s : State) (x : Desc) (bs : List Byte), Accepted (.captureArm x) s ∧ x.input = .ok bs ∧ (s.dev.begun x).poolFree ≠ 0 ∧ 32 ≤ x.len ∧ armOk bs = true ∧
      (s.dev.begun x).pq.cap.trig = none ∧ fieldAt bs 0 1 = 8 ∧ fieldAt bs 1 1 ≠ 0) ∧
    (∃ (s : State) (x : Desc) (n : Nat), n = x.arg 28 4 ∧ Accepted (.errorAck x) s ∧ x.arg 24 1 = 0 ∧
      n + 1 = (s.dev.begun x).recs.seq.get (256 * 0x70 + 0xFF) 0) :=
  ⟨⟨st acting, cmdA 0x40 0 0 1, ⟨0x40, 0, 36, 0, 1, 1, [], true, false⟩, accepted_of (by decide), by decide⟩,
    ⟨st acting, cmdA 0x40 0 0 2, ⟨0x40, 0, 36, 0, 1, 1, [], true, false⟩, accepted_of (by decide), by decide⟩,
    ⟨st acting, cmdA 0 0 0 0 [] 5, accepted_of (by decide), by decide⟩,
    ⟨st acting, { src := .ring 0, addr := second }, accepted_of (by decide), by decide⟩,
    ⟨st { acting with pq := { cap := { trig := some 0 } } }, cmdA 0 0 0 0 (layout 32 []), layout 32 [], accepted_of (by decide), rfl, by decide⟩,
    ⟨st acting, cmdA 0 0 0 0 (layout 32 []), layout 32 [], accepted_of (by decide), rfl, by decide⟩,
    ⟨st acting, cmdA 0 0 0 0 (layout 32 [⟨0, 1, 8⟩, ⟨1, 1, 4⟩, ⟨6, 2, 1⟩, ⟨8, 8, 0x0706050403020100⟩]),
      layout 32 [⟨0, 1, 8⟩, ⟨1, 1, 4⟩, ⟨6, 2, 1⟩, ⟨8, 8, 0x0706050403020100⟩], accepted_of (by decide), rfl, by decide +kernel⟩,
    ⟨st { acting with recs := { seq := ⟨[(256 * 0x70 + 0xFF, 8)]⟩ } }, cmdA 0 0 0 7, 7, by decide, accepted_of (by decide), by decide⟩⟩

theorem wit_ActingOpcodes_tests :
    (∃ (s : State) (x : Desc), (s.dev.begun x).test = none ∧ Accepted (.linkZero x) s ∧ x.arg 24 1 = 0x01 ∧ x.arg 25 1 ≤ 15 ∧
      x.arg 26 2 = 60 ∧ (s.dev.begun x).linkTestable (x.arg 25 1) = true) ∧
    (∃ (s : State) (x : Desc), (s.dev.begun x).test = none ∧ Accepted (.linkWalk x) s ∧ x.arg 24 1 = 0x02 ∧ x.arg 25 1 ≤ 15 ∧
      x.arg 26 2 = 0 ∧ (s.dev.begun x).linkTestable (x.arg 25 1) = true) ∧
    (∃ (s : State) (x : Desc), (s.dev.begun x).test = none ∧ Accepted (.voltB x) s ∧ x.arg 24 1 = 0x10 ∧ x.arg 25 1 = 0 ∧
      x.arg 26 2 = 600 ∧ (s.dev.begun x).cal.sealed = false ∧ (s.dev.begun x).volt.serving = 0 ∧
      (s.dev.begun x).volt.healthB.good = true) ∧
    (∃ (s : State) (x : Desc), (s.dev.begun x).test = none ∧ Accepted (.refTest x) s ∧ x.arg 24 1 = 0x11 ∧ x.arg 25 1 = 0 ∧
      x.arg 26 2 = 0 ∧ (s.dev.begun x).volt.test = none ∧ (s.dev.begun x).store.factoryLost = false) ∧
    (∃ (s : State) (x : Desc), (s.dev.begun x).test = none ∧ Accepted (.crypto x) s ∧ x.arg 24 1 = 0x20 ∧ x.arg 25 1 = 0 ∧
      x.arg 26 2 = 0) ∧
    (∃ (s : State) (x : Desc) (bs : List Byte) (ty : Nat), Accepted (.lineSend x) s ∧ x.input = .ok bs ∧ (s.dev.begun x).poolFree ≠ 0 ∧ ty = x.arg 26 1 ∧ ty = 0x7F ∧
      x.arg 27 1 = 1 ∧ x.len = 194 ∧ x.arg 24 2 ≠ 0 ∧ (s.dev.begun x).lnet.role ≠ 0 ∧ (s.dev.begun x).lineExhausted = false ∧
      (s.dev.begun x).lnet.queue = []) ∧
    (∃ (s : State) (x : Desc), Accepted (.lineJoin x) s ∧ x.arg 24 1 = 0 ∧ ((s.dev.begun x).activeKey 0x40).isSome = true ∧
      (s.dev.begun x).lnet.role = 0) :=
  ⟨⟨st acting, cmdA 1 2 60 0, by decide, accepted_of (by decide), by decide⟩, ⟨st acting, cmdA 2 2 0 0, by decide, accepted_of (by decide), by decide⟩,
    ⟨st acting, cmdA 0x10 0 600 0, by decide, accepted_of (by decide), by decide⟩,
    ⟨st acting, cmdA 0x11 0 0 0, by decide, accepted_of (by decide), by decide⟩,
    ⟨st acting, cmdA 0x20 0 0 0, by decide, accepted_of (by decide), by decide⟩,
    ⟨st { acting with lnet := { role := 1, kstate := 4 } }, { cmdA 1 0 0x017F 0 with len := 194 }, [], 0x7F, accepted_of (by decide), rfl, by decide⟩,
    ⟨st acting, cmdA 0 0 0 0, accepted_of (by decide), by decide⟩⟩

/-- The 9 bytes of a pod's ID: the ID and its CRC (R975). -/
def podBytes (id : Nat) : List Byte := leBytes 8 id ++ [crcBits 0x07#8 0xFF#8 ((leBytes 8 id).flatMap bitsMsb)]

/-- A line-up's first run as Table 20.4 has it: no pod answers the survey, two pods win a round each, and a round is not
acknowledged; marked on links 0 and 15. -/
def twoPods : LineupSeen :=
  { passes := [{ survey := List.replicate 16 none
                 rounds := [⟨true, podBytes 1, some (podBytes 1)⟩, ⟨true, podBytes 2, some (podBytes 2)⟩, { acked := false }] }]
    marks := [(0, 1), (0, 32768)] }

theorem wit_PodBus :
    (∃ (s : State) (x : Desc) (bs : List Byte), x.input = .ok bs ∧ Accepted (.podXfer x) s ∧ (s.dev.begun x).poolFree ≠ 0 ∧
      xferTarget x = 0x4F ∧ xferWrite x = 256 ∧ xferRead x = 256 ∧ xferWrite x + xferRead x ≤ x.len ∧
      (s.dev.begun x).tw.lineup.isSome = true) ∧
    (∃ (s : State) (x : Desc) (bs : List Byte), x.input = .ok bs ∧ Accepted (.podXfer x) s ∧ (s.dev.begun x).poolFree ≠ 0 ∧
      xferTarget x = 0x40 ∧ xferWrite x = 0 ∧ xferRead x = 1 ∧ xferWrite x + xferRead x ≤ x.len ∧ (s.dev.begun x).tw.lineup = none ∧
      (s.dev.begun x).tw.stuck = some (true, 0)) ∧
    (∃ (s : State) (x : Desc) (bs : List Byte), x.input = .ok bs ∧ Accepted (.podXfer x) s ∧ (s.dev.begun x).poolFree ≠ 0 ∧
      xferTarget x = 0x40 ∧ xferWrite x = 0 ∧ xferRead x = 1 ∧ xferWrite x + xferRead x ≤ x.len ∧ (s.dev.begun x).tw.lineup = none ∧
      (s.dev.begun x).tw.stuck = none) ∧
    (∃ (s : State) (x : Desc), Accepted (.podLineup x) s ∧ x.arg 24 1 = 0 ∧ (s.dev.begun x).tw.lineup = none ∧
      (s.dev.begun x).tw.stuck = none) ∧
    (∃ (s : State) (x : Desc), Accepted (.podLineup x) s ∧ x.arg 24 1 = 0 ∧ (s.dev.begun x).tw.lineup = none ∧
      (s.dev.begun x).tw.stuck.isSome = true) ∧
    (∃ (s : State) (x : Desc), Accepted (.podLineup x) s ∧ x.arg 24 1 = 6 ∧ (s.dev.begun x).tw.lineup = none ∧ x.arg 25 1 = 2 ∧
      x.arg 26 1 = 25 ∧ x.arg 27 1 = 64) :=
  ⟨⟨st { run with tw := { lineup := some ⟨none, 0, 0, false⟩ } }, cmdA 0x4F 0 256 256, [], rfl, accepted_of (by decide), by decide⟩,
    ⟨st { run with tw := { stuck := some (true, 0) } }, cmdA 0x40 0 0 1, [], rfl, accepted_of (by decide), by decide⟩,
    ⟨st run, cmdA 0x40 0 0 1, [], rfl, accepted_of (by decide), by decide⟩, ⟨st run, cmd0 0, accepted_of (by decide), by decide⟩,
    ⟨st { run with tw := { stuck := some (true, 0) } }, cmd0 0, accepted_of (by decide), by decide⟩,
    ⟨st run, cmdA 6 2 0x4019 0, accepted_of (by decide), by decide⟩⟩

/-- `run` with a POD_XFER that reads one byte at the head, taken up long ago. -/
def reading : Dev := { run with tw := { xfers := [(cmdA 0x40 0 0 1, 0)] } }

theorem wit_PodBus_events :
    (∃ (s : State) (x : Desc) (t : Nat) (e : XferEnd), s.dev.units = true ∧ s.dev.tw.stuck = none ∧ s.dev.tw.xfers = [(x, t)] ∧
      e.fits x = true ∧ e = .busBusy ∧ t + ms 100 = s.dev.up ∧ s.dev.since t (ms 100) = true) ∧
    (∃ (s : State) (x : Desc) (t : Nat) (e : XferEnd) (read : List Byte), s.dev.units = true ∧ s.dev.tw.stuck = none ∧
      s.dev.tw.xfers = [(x, t)] ∧ e.fits x = true ∧ e = .done read ∧ s.dev.since t (s.dev.tw.bits (xferClocks x)) = true) ∧
    (∃ (s : State) (x : Desc) (t : Nat) (e : XferEnd), s.dev.units = true ∧ s.dev.tw.stuck = none ∧ s.dev.tw.xfers = [(x, t)] ∧
      e.fits x = true ∧ (e.outcome x).1 = 4) ∧
    (∃ (s : State) (x : Desc) (t micros moved : Nat) (data : List Byte), s.dev.units = true ∧ s.dev.tw.stuck = none ∧ s.dev.tw.xfers = [(x, t)] ∧
      micros = 1000 * s.dev.tw.stretchMs + 1 ∧ s.dev.since t (us micros) = true ∧ moved ≤ xferWrite x ∧
      data.length ≤ xferRead x ∧ data ≠ []) ∧
    (∃ (s : State) (micros : Nat), s.dev.units = true ∧ s.dev.tw.stuck = none ∧ s.dev.tw.xfers = [] ∧
      1000 * s.dev.tw.stretchMs < micros ∧ 1000 * s.dev.tw.lowMs = micros) ∧
    (∃ (s : State) (t n : Nat) (sda : List Bool), s.dev.tw.stuck = some (true, t) ∧ s.dev.tw.recovered = none ∧ s.dev.units = true ∧
      sda = List.replicate n false ++ [true] ∧ n = 8) ∧
    (∃ (s : State) (t : Nat) (sda : List Bool), s.dev.tw.stuck = some (true, t) ∧ s.dev.tw.recovered = none ∧ s.dev.units = true ∧
      sda = List.replicate 9 false) ∧
    (∃ (s : State) (r : LineupSeen) (l : LineupRun) (b : LineupBook), s.dev.tw.lineup = some l ∧ l.broken = false ∧ s.dev.units = true ∧
      s.dev.tw.xfers = [] ∧ b = lineupBook (bitOf l.flags 0) r.passes ∧ b.ending.isSome = true ∧
      r.marks.length = (s.dev.toMap b).length ∧ r.marks ≠ [] ∧
      s.dev.since l.since (s.dev.tw.bits (b.clocks + 54 * r.marks.length) + ms r.marks.length) = true) :=
  ⟨⟨st { run with tw := { xfers := [(cmdA 0x40 0 0 1, 2 ^ 36 - ms 100)] } }, cmdA 0x40 0 0 1, 2 ^ 36 - ms 100, .busBusy, by decide⟩,
    ⟨st reading, cmdA 0x40 0 0 1, 0, .done [7#8], [7#8], by decide +kernel⟩,
    ⟨st reading, cmdA 0x40 0 0 1, 0, .lost (.readAck 0) [7#8], by decide⟩, ⟨st reading, cmdA 0x40 0 0 1, 0, 25001, 0, [7#8], by decide⟩,
    ⟨st run, 35000, by decide⟩, ⟨st { run with tw := { stuck := some (true, 0) } }, 0, 8, _, rfl, rfl, by decide, rfl, rfl⟩,
    ⟨st { run with tw := { stuck := some (true, 0) } }, 0, _, rfl, rfl, by decide, rfl⟩,
    ⟨st { run with tw := { lineup := some ⟨none, 0, 0, false⟩ } }, twoPods, ⟨none, 0, 0, false⟩, _, rfl, rfl, by decide, rfl, rfl,
      by decide +kernel⟩⟩

theorem wit_TargetPort :
    (∃ (s : State) (addr : Nat), addr ≠ s.dev.twtAddress) ∧ (∃ s : State, s.dev.pwr.pstate = .off) ∧
    (∃ s : State, s.dev.pwr.pstate = .backup) ∧ (∃ s : State, s.dev.pwr.pstate = .doze ∧ s.dev.tw.asleep = true) ∧
    (∃ s : State, s.dev.pwr.pstate = .run ∧ s.dev.twtBusy = true) ∧ (∃ s : State, s.dev.pwr.pstate = .run ∧ s.dev.twtBusy = false) ∧
    (∃ s : State, s.dev.pwr.pstate = .hold ∧ s.dev.since s.dev.tw.lastUse (ms 10) = true ∧ s.dev.tw.lastUse + ms 10 = s.dev.up) :=
  ⟨⟨st run, 0x59, by decide⟩, ⟨st (inState .off), by decide⟩, ⟨st (inState .backup), by decide⟩,
    ⟨st { inState .doze with tw := { asleep := true } }, by decide⟩,
    ⟨st { run with pwr := { run.pwr with step := .configRecall } }, by decide⟩, ⟨st run, by decide⟩,
    ⟨st { inState .hold with tw := { lastUse := 2 ^ 36 - ms 10 } }, by decide⟩⟩

/-- An LY64 that receives the line, with its physical layer and its network as given. -/
def onPhy (p : LinePhy) : State := st { run with lphy := { p with stopped := false }, trk := { state := .warmup } }
def onNet (n : LineNet) : State := st { run with lnet := n, trk := { state := .warmup } }

/-- A preamble and SSD heard without an error at a level; the energies of the bits of a PSDU, both bands having had the mean 1. -/
def heard (level : Nat) : Heard := { bits := 0xAAAA54C7, level := level, mark := 1, space := 1 }
def held : RxFrame := { level := 100, since := 0, start := 0, mark := some 1, space := some 1 }
def bands (psdu : List Byte) : List (Nat × Nat) := (psdu.flatMap bitsMsb).map fun b => if b then (1, 0) else (0, 1)
def psdu0 : List Byte := List.replicate 36 0 ++ leBytes 2 (psduCrc (List.replicate 36 0))

theorem wit_LineFrames :
    (∃ (s : State) (h : Heard), s.dev.lphy.stopped = false ∧ s.dev.lineHears = true ∧ h.detects = true ∧ s.dev.lphy.rx = none) ∧
    (∃ (s : State) (h : Heard) (r : RxFrame), s.dev.lphy.stopped = false ∧ s.dev.lineHears = true ∧ h.detects = true ∧
      s.dev.lphy.rx = some r ∧ h.level + 1 = r.level + 24) ∧
    (∃ (s : State) (h : Heard) (r : RxFrame) (part : List (Nat × Nat)), s.dev.lphy.stopped = false ∧ s.dev.lineHears = true ∧
      h.detects = true ∧ s.dev.lphy.rx = some r ∧ h.level = r.level + 24 ∧ part.length = 31) ∧
    (∃ (s : State) (r : RxFrame) (bits : List (Nat × Nat)), s.dev.lphy.stopped = false ∧ s.dev.lineHears = true ∧
      s.dev.lphy.rx = some r ∧ bits.length = 304 ∧ s.dev.since r.start (clocks (336 * s.dev.lphy.bitClocks)) = true ∧
      s.dev.lnet.inbox.length = 0 ∧ psduCrc (r.bytes bits) = fieldAt (r.bytes bits) 36 2) ∧
    (∃ s : State, s.dev.lphy.stopped = false ∧ s.dev.lineHears = true ∧ s.dev.lphy.rx = none ∧ s.dev.lphy.agcFixed = false ∧
      s.dev.since s.dev.lphy.quietSince (10 * second) = true ∧ s.dev.lphy.quietSince + 10 * second = s.dev.up) ∧
    (∃ (s : State) (p : Nat), s.dev.lphy.stopped = false ∧ s.dev.macRuns = true ∧ s.dev.lphy.tx = none ∧
      s.dev.slotNear (us 10) = some p) ∧
    (∃ (s : State) (x : TxFrame), s.dev.lphy.stopped = false ∧ s.dev.lphy.tx = some x ∧ s.dev.units = true ∧
      s.dev.since x.since (clocks (32 * x.clocks)) = true ∧ s.dev.since x.since (clocks (336 * x.clocks)) = true) :=
  ⟨⟨onPhy {}, heard 100, by decide +kernel⟩, ⟨onPhy { rx := some held }, heard 123, held, by decide +kernel⟩,
    ⟨onPhy { rx := some held }, heard 124, held, List.replicate 31 (0, 0), by decide +kernel⟩,
    ⟨onPhy { rx := some held }, held, bands psdu0, by decide +kernel⟩, ⟨onPhy { quietSince := 54 * second }, by decide +kernel⟩,
    ⟨onPhy { crossings := [2 ^ 36] }, 2 ^ 36, by decide +kernel⟩,
    ⟨onPhy { tx := some ⟨0, 100, false, 0⟩ }, ⟨0, 100, false, 0⟩, by decide +kernel⟩⟩

/-- A line frame as accepted, of a type and with a payload, from node 7 at address 2. -/
def frame (ty : Nat) (payload : List Byte := []) : RxLine :=
  { srcId := 7, net := 9, dest := 0xFFFF, src := 2, ftype := ty, counter := 0, xid := 3, payload := payload, level := 100, rate := 3, segs := 1
    start := 0, ended := 0 }

/-- A frame of type 0x20 to address 2 that awaits its ACK. -/
def awaited : TxLine := { dest := 2, src := 1, ftype := 0x20, secured := true, ackReq := true, payload := [], xid := 3, counter := 4, ackFrom := some 0 }

/-- A byte string of `k` bytes reads back the number it holds. -/
theorem leNat_leBytes (k n : Nat) : leNat (leBytes k n) = n % 256 ^ k := by
  induction k generalizing n with
  | zero => simp [leBytes, leNat, Nat.mod_one]
  | succ k ih => rw [leBytes, leNat, ih, BitVec.toNat_ofNat, Nat.pow_succ 256 k, Nat.mul_comm (256 ^ k) 256, Nat.mod_mul]

/-- The payload of a JOIN_ACK that gives the own node address 5. -/
def ownJoin : List Byte := leBytes 8 ownId ++ layout 7 [⟨0, 2, 5⟩]

theorem wit_LineMessages :
    (∃ (s : State) (f : RxLine), s.dev.lnet.inbox = [f] ∧ s.dev.macRuns = true ∧ f.ftype = 0x01 ∧ s.dev.lnet.role = 2) ∧
    (∃ (s : State) (f : RxLine), s.dev.lnet.inbox = [f] ∧ s.dev.macRuns = true ∧ f.ftype = 0x01 ∧ s.dev.lnet.role = 1 ∧
      f.net = s.dev.lnet.netId ∧ f.srcId = s.dev.lnet.captainId) ∧
    (∃ (s : State) (f : RxLine), s.dev.lnet.inbox = [f] ∧ s.dev.macRuns = true ∧ f.ftype = 0x01 ∧ s.dev.lnet.role = 0 ∧ s.dev.lnet.kstate = 1) ∧
    (∃ (s : State) (f : RxLine), s.dev.lnet.inbox = [f] ∧ s.dev.macRuns = true ∧ f.ftype = 0x02 ∧ s.dev.lnet.role = 2) ∧
    (∃ (s : State) (f : RxLine), s.dev.lnet.inbox = [f] ∧ s.dev.macRuns = true ∧ f.ftype = 0x02 ∧ s.dev.lnet.role = 0 ∧ s.dev.lnet.kstate = 2) ∧
    (∃ (s : State) (f : RxLine), s.dev.lnet.inbox = [f] ∧ s.dev.macRuns = true ∧ f.ftype = 0x02 ∧ s.dev.lnet.role = 0 ∧ s.dev.lnet.kstate = 3) ∧
    (∃ (s : State) (f : RxLine), s.dev.lnet.inbox = [f] ∧ s.dev.macRuns = true ∧ f.ftype = 0x03 ∧ s.dev.lnet.role ≠ 2) ∧
    (∃ (s : State) (f : RxLine), s.dev.lnet.inbox = [f] ∧ s.dev.macRuns = true ∧ f.ftype = 0x03 ∧ s.dev.lnet.role = 2 ∧
      s.dev.lineExhausted = false ∧ fieldAt f.payload 0 1 = 0 ∧ s.dev.lnet.addressFor f.srcId 0 = none) ∧
    (∃ (s : State) (f : RxLine), s.dev.lnet.inbox = [f] ∧ s.dev.macRuns = true ∧ f.ftype = 0x03 ∧ s.dev.lnet.role = 2 ∧
      s.dev.lineExhausted = false ∧ fieldAt f.payload 0 1 = 0 ∧ s.dev.lnet.addressFor f.srcId 0 = some 2) ∧
    (∃ (s : State) (f : RxLine), s.dev.lnet.inbox = [f] ∧ s.dev.macRuns = true ∧ f.ftype = 0x04 ∧ s.dev.lnet.kstate ≠ 3 ∧
      fieldAt f.payload 10 1 = 0) ∧
    (∃ (s : State) (f : RxLine), s.dev.lnet.inbox = [f] ∧ s.dev.macRuns = true ∧ f.ftype = 0x04 ∧ s.dev.lnet.kstate ≠ 3 ∧
      fieldAt f.payload 10 1 = 1) ∧
    (∃ (s : State) (f : RxLine), s.dev.lnet.inbox = [f] ∧ s.dev.macRuns = true ∧ f.ftype = 0x04 ∧ s.dev.lnet.kstate = 3 ∧
      fieldAt f.payload 0 8 = ownId ∧ fieldAt f.payload 10 1 = 0) ∧
    (∃ (s : State) (f : RxLine) (q : TxLine), s.dev.lnet.inbox = [f] ∧ s.dev.macRuns = true ∧ f.ftype = 0x05 ∧ s.dev.lnet.queue = [q] ∧
      q.ackFrom.isSome = true ∧ q.dest = f.src ∧ q.xid = fieldAt f.payload 0 1 ∧ q.counter = fieldAt f.payload 1 4) ∧
    (∃ (s : State) (f : RxLine) (q : TxLine), s.dev.lnet.inbox = [f] ∧ s.dev.macRuns = true ∧ f.ftype = 0x05 ∧ s.dev.lnet.queue = [q] ∧
      q.ackFrom.isSome = true ∧ q.dest = f.src ∧ q.xid ≠ fieldAt f.payload 0 1) ∧
    (∃ (s : State) (f : RxLine), s.dev.lnet.inbox = [f] ∧ s.dev.macRuns = true ∧ f.ftype = 0x06 ∧ s.dev.lnet.role = 2) ∧
    (∃ (s : State) (f : RxLine), s.dev.lnet.inbox = [f] ∧ s.dev.macRuns = true ∧ f.ftype = 0x10 ∧ s.dev.pwr.hostmode = false ∧
      s.dev.has 15 = true ∧ s.dev.lnet.role = 1 ∧ 6 ≤ f.payload.length ∧ fieldAt f.payload 0 2 < 0x8000 ∧ fieldAt f.payload 4 1 = 0) ∧
    (∃ (s : State) (f : RxLine), s.dev.lnet.inbox = [f] ∧ s.dev.macRuns = true ∧ f.ftype = 0x11 ∧ s.dev.lnet.role = 2) ∧
    (∃ (s : State) (f : RxLine), s.dev.lnet.inbox = [f] ∧ s.dev.macRuns = true ∧ f.ftype = 0x7F) :=
  ⟨⟨onNet { role := 2, kstate := 4, inbox := [frame 1] }, frame 1, by decide⟩,
    ⟨onNet { role := 1, kstate := 4, netId := 9, captainId := 7, inbox := [frame 1] }, frame 1, by decide⟩,
    ⟨onNet { kstate := 1, inbox := [frame 1] }, frame 1, by decide⟩, ⟨onNet { role := 2, kstate := 4, inbox := [frame 2] }, frame 2, by decide⟩,
    ⟨onNet { kstate := 2, inbox := [frame 2] }, frame 2, by decide⟩, ⟨onNet { kstate := 3, inbox := [frame 2] }, frame 2, by decide⟩,
    ⟨onNet { role := 1, kstate := 4, inbox := [frame 3] }, frame 3, by decide⟩,
    ⟨onNet { role := 2, kstate := 4, inbox := [frame 3 [0#8]], roster := Tbl.ofFn (span 2 31) fun a => 100 + a }, frame 3 [0#8], by decide +kernel⟩,
    ⟨onNet { role := 2, kstate := 4, inbox := [frame 3 [0#8]] }, frame 3 [0#8], by decide +kernel⟩,
    ⟨onNet { inbox := [frame 4 (layout 15 [])] }, frame 4 (layout 15 []), by decide⟩,
    ⟨onNet { inbox := [frame 4 (layout 15 [⟨10, 1, 1⟩])] }, frame 4 (layout 15 [⟨10, 1, 1⟩]), by decide⟩,
    ⟨onNet { kstate := 3, inbox := [frame 4 ownJoin] }, frame 4 ownJoin, rfl, by decide, rfl, rfl,
      (leNat_leBytes 8 ownId).trans (Nat.mod_eq_of_lt (Nat.mod_lt _ (by decide))), rfl⟩,
    ⟨onNet { inbox := [frame 5 (layout 5 [⟨0, 1, 3⟩, ⟨1, 4, 4⟩])], queue := [awaited] }, frame 5 (layout 5 [⟨0, 1, 3⟩, ⟨1, 4, 4⟩]), awaited, by decide⟩,
    ⟨onNet { inbox := [frame 5 (layout 5 [⟨0, 1, 9⟩])], queue := [awaited] }, frame 5 (layout 5 [⟨0, 1, 9⟩]), awaited, by decide⟩,
    ⟨onNet { role := 2, kstate := 4, inbox := [frame 6] }, frame 6, by decide⟩,
    ⟨st { run with pwr := { run.pwr with hostmode := false }, lnet := { role := 1, kstate := 4, inbox := [frame 0x10 (layout 6 [⟨0, 2, 0x7FFF⟩])] } },
      frame 0x10 (layout 6 [⟨0, 2, 0x7FFF⟩]), by decide⟩,
    ⟨onNet { role := 2, kstate := 4, inbox := [frame 0x11] }, frame 0x11, by decide⟩, ⟨onNet { inbox := [frame 0x7F] }, frame 0x7F, by decide⟩⟩

theorem wit_LineTimers :
    (∃ s : State, s.dev.macRuns = true ∧ s.dev.lnet.kstate = 1 ∧ s.dev.lnet.mode = 1 ∧ s.dev.lnet.listenSince + 6 * second = s.dev.up ∧
      s.dev.since s.dev.lnet.listenSince (6 * second) = true) ∧
    (∃ (s : State) (t : Nat), s.dev.macRuns = true ∧ s.dev.lnet.claimEnd = some t ∧ s.dev.lnet.kstate = 2 ∧ s.dev.lnet.claims = 3 ∧
      s.dev.since t (2 * second) = true ∧ s.dev.lnet.judgeGap.collided = 2) ∧
    (∃ s : State, s.dev.macRuns = true ∧ s.dev.lnet.role = 2 ∧ s.dev.lineExhausted = false ∧
      s.dev.lnet.beaconSec ≠ some (s.dev.now / 2 ^ 31) ∧ s.dev.lnet.dissolve = none) ∧
    (∃ s : State, s.dev.macRuns = true ∧ s.dev.lnet.role = 1 ∧ s.dev.lnet.beaconAt + 30 * second = s.dev.up ∧
      s.dev.since s.dev.lnet.beaconAt (30 * second) = true) ∧
    (∃ (s : State) (f : TxLine) (q : List TxLine) (t : Nat), s.dev.macRuns = true ∧ s.dev.lnet.queue = f :: q ∧ f.ackFrom = some t ∧
      s.dev.since t second = true ∧ f.tries + 1 = s.dev.lineRetries) ∧
    (∃ (s : State) (f : TxLine) (q : List TxLine) (t : Nat), s.dev.macRuns = true ∧ s.dev.lnet.queue = f :: q ∧ f.ackFrom = some t ∧
      s.dev.since t second = true ∧ f.tries = s.dev.lineRetries) ∧
    (∃ (s : State) (t : Nat), s.dev.macRuns = true ∧ s.dev.lineExhausted = true ∧ s.dev.lnet.exhausted = true ∧
      s.dev.lnet.keyreqAt = some t ∧ s.dev.since t (60 * second) = true) ∧
    (∃ (s : State) (t : Nat), s.dev.macRuns = true ∧ s.dev.lnet.refusedAt = some t ∧ s.dev.lnet.kstate = 3 ∧
      s.dev.since t (60 * second) = true) ∧
    (∃ (s : State) (tid : Nat) (j : TunJoin), s.dev.macRuns = true ∧ s.dev.lnet.tunJoin.find? (fun j => j.tid = tid) = some j ∧
      s.dev.since j.last (60 * second) = true) ∧
    (∃ (s : State) (src : Nat) (j : RxJoin), s.dev.macRuns = true ∧ s.dev.lnet.rx.get? src = some j ∧ j.ended + 2 * second = s.dev.up ∧
      s.dev.since j.ended (2 * second) = true) ∧
    (∃ s : State, s.dev.pwr.pstate = .run ∧ s.dev.serving = true ∧ s.dev.quarterDue 0x41 = true) :=
  ⟨⟨onNet { kstate := 1, mode := 1, listenSince := 58 * second }, by decide⟩,
    ⟨onNet { kstate := 2, claims := 3, claimEnd := some 0, collided := 1, gapNoise := true }, 0, by decide⟩,
    ⟨onNet { role := 2, kstate := 4, beaconSec := some 31 }, by decide⟩, ⟨onNet { role := 1, kstate := 4, beaconAt := 34 * second }, by decide⟩,
    ⟨onNet { role := 1, kstate := 4, queue := [{ awaited with tries := 2 }] }, { awaited with tries := 2 }, [], 0, by decide +kernel⟩,
    ⟨onNet { role := 1, kstate := 4, queue := [{ awaited with tries := 3 }] }, { awaited with tries := 3 }, [], 0, by decide +kernel⟩,
    ⟨st { run with lnet := { role := 1, kstate := 4, exhausted := true, keyreqAt := some 0 }, keys := { counter := ⟨[(0x40, 2 ^ 32 - 4096)]⟩ } }, 0, by decide⟩,
    ⟨onNet { kstate := 3, refusedAt := some (4 * second) }, 4 * second, by decide⟩,
    ⟨onNet { tunJoin := [⟨5, [], 1, 2, 4 * second⟩] }, 5, ⟨5, [], 1, 2, 4 * second⟩, by decide⟩,
    ⟨onNet { rx := ⟨[(2, { xid := 3, last := 1, ended := 62 * second })]⟩ }, 2, { xid := 3, last := 1, ended := 62 * second }, by decide⟩,
    ⟨st run, by decide⟩⟩

/-! ### The model's parts on the manual's own numbers

The expected values are those of the manual's worked examples and tables, named in each docstring. -/

/-- The device after one command. -/
def dev1 (c : Instr) (s : State) : Dev := match exec c s with | .next t => t.dev | _ => {}

/-- Table 0.5: the bytes of IDENT from the lowest address. -/
theorem test_ident_bytes : leBytes 8 (run.regOf 0 0x00) = [0x00#8, 0x00#8, 0xA1#8, 0x00#8, 0x64#8, 0x00#8, 0xC3#8, 0xA7#8] := by decide

/-- R559's parameters are those of the published CRC-32, whose check value over "123456789" is 0xCBF4_3926. -/
theorem test_crc32_check : crc32 [0x31#8, 0x32#8, 0x33#8, 0x34#8, 0x35#8, 0x36#8, 0x37#8, 0x38#8, 0x39#8] = 0xCBF43926 := by
  decide +kernel

/-- Chapter 2, worked example: day 9,569 after 2000-01-01 is 2026-03-14; and R88's day 0 is a Saturday. -/
theorem test_calendar : dateOf 9569 = ⟨2026, 3, 14⟩ ∧ dateOf 59 = ⟨2000, 2, 29⟩ ∧ ({} : Dev).weekday = 5 := by decide +kernel

/-- Chapter 2, worked example: MAINS_RETURN keeps the device time HOLD began at, 0x0C52_23F6_1000_0000. -/
theorem test_hold_time :
    (dev1 (.holdEntry 3300 20) (st { run with pwr := { run.pwr with rtc := 0x0C5223F610000000 } })).pwr.holdTime = 0x0C5223F610000000 := by
  decide +kernel

/-- Table 3.10, steps 2 to 12: 20.003 437 5 s unmetered are 320,055 superframes, and 20 s with a residue of 55 superframes. -/
theorem test_unmetered_time : superframes 21478527468 = 320055 ∧
    (((run.addUnmetered 58 320055).openBlk 58).unmetered, ((run.addUnmetered 58 320055).openBlk 58).unmetRes) = (20, 55) := by decide

/-- Table 5.7, steps 2 and 3: the fifth block in a row starts the test and moves Converter B to VOLTS (index 1 of Table 5.2). -/
theorem test_umpire_fifth :
    (dev1 .umpireBlock (blockClosed loudBlock 4 {})).volt.frameB = 1 ∧
    (dev1 .umpireBlock (blockClosed loudBlock 3 {})).volt.frameB = 0 := by decide +kernel

/-- Table 9.8: c3 is predicted at 30.2419 ms from the grid of 49.6 Hz (here in 0.1 µs). -/
theorem test_prediction : predictFrom [(201613, true), (100806, false), (0, true), (0, false)] = some 201612 := by decide

/-- Table 9.8's lower table: c7 − c5 makes no step, c8 − c6 makes one (instants from c3, in 2^−30 s). -/
theorem test_freq_step :
    freqStep [(65309286, true), (54384900, true), (43659941, true), (32922121, true), (21835666, true)] = none ∧
    (freqStep [(86770862, true), (0, true), (65296026, true), (0, true), (43472199, true)]).isSome = true := by decide +kernel

/-- Chapter 10, worked example: half-cycles of 201 V and 198 V give Urms½ = 199.51 V, 203 V and 208 V 205.52 V (in 10 mV). -/
theorem test_urms : sqrtRound (20100 ^ 2 + 19800 ^ 2) 2 = 19951 ∧ sqrtRound (20300 ^ 2 + 20800 ^ 2) 2 = 20552 := by decide +kernel

/-- Table 14.13, steps 1 and 2: at 2,048 below the ceiling 1,003,520 the commit tick raises it to 1,007,616; one before, not. -/
theorem test_ceiling :
    let at_ (n : Nat) : Dev := { keys := { counter := ⟨[(58, n)]⟩ },
                                 led := { work := { keyptr := ⟨[(58, ⟨0, 1, 1⟩)]⟩, counters := { tceil := ⟨[(58, 1003520)]⟩ } } } }
    (at_ 1001472).raiseCeilings.led.work.counters.tceil.get 58 0 = 1007616 ∧
    (at_ 1001471).raiseCeilings.led.work.counters.tceil.get 58 0 = 1003520 := by decide +kernel

/-- Chapter 15: a fourth VBAT check in a row below 1.8 V makes the loss of the battery a condition. -/
theorem test_battery_low : (dev1 (.batteryCheck 1799) (st { run with tam := { batLowRun := 3 } })).tam.batLost = true := by decide +kernel

/-- Chapter 16, worked example: the STATUS values 0x1085 and 0x0089. -/
theorem test_status :
    ({ pwr := { step := .ready, timeInvalid := false } } : Dev).status = 0x1085 ∧ run.status = 0x0089 := by decide

/-- Table 16.13, step 2: LOG2_RINGS 15 without LARGE_RINGS fails at GO, and STATUS reads 0x1095; with it GO is judged good. -/
theorem test_go_large_rings :
    let s (a : W64) : State := st { pwr := { step := .ready, timeInvalid := false }
                                    host := { accept := a, tablebase := 0x12000000F#64, doorbase := 0x120200000#64, enable := true, linkUp := true
                                              fns := ⟨[(0, { bme := true })]⟩ } }
    (dev1 (.go { value := 1#64 }) (s 0x4FEF#64)).status = 0x1095 ∧
    (dev1 (.go { value := 1#64 }) (s 0x4FEF#64)).host.negotiating = none ∧
    (dev1 (.go { value := 1#64 }) (s 0x6FEF#64)).host.negotiating = some 0x6FEF#64 := by decide +kernel

/-- Table 17.12: ring 30,210 belongs to T58; index 1,280 carries phase 1 and index 1,344 phase 0; the pool holds 1,392 blocks. -/
theorem test_ring_example :
    ({ eng := { blocks := ⟨[(59, 58)]⟩ } } : Dev).ringOwner 30210 = 58 ∧ ({ log2 := 6 } : Ring).phase 1280 = true ∧
    ({ log2 := 6 } : Ring).phase 1344 = false ∧ ({ eng := { shadowBlocks := 128 } } : Dev).poolFree = 1392 := by decide

/-- The account of Table 18.10: home T7 with CREDIT −20,163 and voucher 40, epoch 0x2C. -/
def topUp (d : Dev) (voucher tag : Nat) : Dev :=
  dev1 (.creditAdd { src := .ring 0, irq := true, tenant := 7, tag := tag, addr := 50000, expEpoch := 0x2C, args := voucher * 2 ^ 32 })
    (st { d with
      accts := ⟨[(7, { block := layout 32 [⟨0, 1, 7⟩, ⟨3, 1, 2⟩, ⟨17, 1, 1⟩, ⟨18, 1, 0xFF⟩], shown := 2 })]⟩
      led := { d.led with work := { d.led.work with opens := ⟨[(7, { credit := -20163, epoch := 0x2C, tst := { voucher := 40 } })]⟩ } } })

/-- Table 18.11, step 1: the completion holds 29,837 without DETAIL, and its 16 bytes are those of the table. -/
theorem test_credit_add :
    ((topUp run 41 0x412).out.any fun o => o = .entry 1 0 true (.completion 0 0x412 0x748D false)) = true ∧
    completionBytes 0 0x412 0x748D false true =
      [0x00#8, 0x01#8, 0x00#8, 0x00#8, 0x12#8, 0x04#8, 0x00#8, 0x00#8, 0x8D#8, 0x74#8] ++ List.replicate 6 0x00#8 := by decide +kernel

/-- Table 18.11, step 5: a voucher not greater than the stored one completes with OK and DETAIL, and changes nothing. -/
theorem test_credit_duplicate :
    ((topUp run 40 0x413).out.any fun o => o = .entry 1 0 true (.completion 0 0x413 (2 ^ 64 - 20163) true)) = true ∧
    (topUp run 40 0x413).tariff.pend = [] ∧ (completionBytes 0 0x413 29837 true true).getD 1 0#8 = 0x03#8 := by decide +kernel

/-- Table 19.16: the school's preview record. -/
theorem test_preview_bytes :
    (({ ty := 0x01, flags := 2 + 4, tenant := 58, epoch := 0x3A, seq := 20000, time := 0x0C5223F5F0000000
        pay := [⟨0, 4, 200000⟩, ⟨4, 2, 0⟩, ⟨6, 2, 160⟩, ⟨8, 3, 40960⟩, ⟨14, 2, 522⟩, ⟨16, 2, 522⟩, ⟨18, 2, 522⟩, ⟨20, 2, 23000⟩,
          ⟨22, 2, 23000⟩, ⟨24, 2, 23000⟩]
        auth := some ⟨2, 76890, 0⟩ } : Rec).bytes true) =
      [0x01#8, 0x07#8, 0x3A#8, 0x3A#8, 0x20#8, 0x4E#8, 0x00#8, 0x00#8, 0x00#8, 0x00#8, 0x00#8, 0xF0#8, 0xF5#8, 0x23#8, 0x52#8, 0x0C#8] ++
      [0x40#8, 0x0D#8, 0x03#8, 0x00#8, 0x00#8, 0x00#8, 0xA0#8, 0x00#8, 0x00#8, 0xA0#8, 0x00#8, 0x00#8, 0x00#8, 0x00#8] ++
      [0x0A#8, 0x02#8, 0x0A#8, 0x02#8, 0x0A#8, 0x02#8, 0xD8#8, 0x59#8, 0xD8#8, 0x59#8, 0xD8#8, 0x59#8, 0x00#8, 0x00#8, 0x00#8, 0x00#8] ++
      [0x02#8, 0x00#8, 0x00#8, 0x00#8, 0x5A#8, 0x2C#8, 0x01#8, 0x00#8, 0x00#8, 0x00#8] ++ List.replicate 8 0x00#8 := by decide +kernel

/-- Chapter 20, worked example and Table 20.9: five pods and RELEASE_ALL take 1,620 bit times; the survey of five assigned pods and one
more round take 981. -/
theorem test_lineup_bits :
    let won (i : Nat) : RoundSeen := ⟨true, podBytes i, some (podBytes i)⟩
    (lineupBook true [{ rounds := [won 1, won 2, won 3, won 4, won 5, { acked := false }] }]).clocks = 1620 ∧
    (lineupBook false [{ survey := (span 1 16).map fun i => if i ≤ 5 then some (podBytes i) else none,
                         rounds := [won 6, { acked := false }] }]).clocks = 981 := by decide +kernel

/-- Chapter 20, worked example: the target at 0x59 in DOZE gives STATUS 0xA9 and CONTROL 0x3E8_0000_0001. -/
theorem test_twt_read :
    let d : Dev := { inState .doze with pwr := { run.pwr with pstate := .doze, twtA0 := true } }
    (dev1 (.twtAddress 0x59 [.write [0x20#8], .read 8]) (st d)).out.head? =
      some (.twtAnswer [true, true, true] [0xA9#8, 0#8, 0#8, 0#8, 0#8, 0#8, 0#8, 0#8]) ∧
    ((dev1 (.twtAddress 0x59 [.write [0x18#8], .read 8]) (st d)).out.head?.map fun o => match o with | .twtAnswer _ r => r | _ => []) =
      some [0x01#8, 0#8, 0#8, 0#8, 0xE8#8, 0x03#8, 0#8, 0#8] := by decide +kernel

/-- The same: setting WAKE_HOLD through the port ends DOZE, and STATUS then reads 0x489. -/
theorem test_twt_wake_hold :
    let d : Dev := { inState .doze with pwr := { run.pwr with pstate := .doze, twtA0 := true } }
    let e := dev1 (.twtAddress 0x59 [.write [0x18#8, 0x11#8, 0#8, 0#8, 0#8, 0xE8#8, 0x03#8, 0#8, 0#8]]) (st d)
    (e.control, e.status) = (0x3E800000011, 0x489) := by decide +kernel

/-- Chapter 21, worked example: a frame at 79 dBµV puts the gain at step 5. -/
theorem test_gain_step : gainFor (4 * 79) = 5 := by decide

/-- Table 22.10, step 8: the node that claims is Captain 2 s after its third CLAIM; a beacon is due from then on. -/
theorem test_captain :
    (dev1 .captainTimeout (onNet { kstate := 2, claims := 3, claimEnd := some (62 * second) })).lnet.role = 2 := by decide +kernel

/-- Chapter 23, worked example, the recovery of A+ at step 9: 4,872,345,861 mWh with residue 0x5555_5555. -/
theorem test_recovery :
    let c : Legal := { reg := ⟨[(0, 4812345678)]⟩, res := ⟨[(0, 0x80000000)]⟩, infilter := ⟨[(0, 3822934), (3, 3822933), (6, 3822933)]⟩ }
    let d : Dev := { run with
      accts := ⟨[(58, { block := layout 32 [⟨0, 1, 58⟩, ⟨1, 1, 2⟩, ⟨3, 1, 2⟩, ⟨4, 2, 58⟩, ⟨6, 2, 59⟩, ⟨8, 2, 60⟩, ⟨10, 1, 0⟩, ⟨11, 1, 1⟩, ⟨12, 1, 2⟩, ⟨18, 1, 0xFF⟩]
                        shown := 2 })]⟩
      led := { work := { legal := ⟨[(58, { reg := ⟨[(0, 60000007)]⟩, res := ⟨[(0, 0xD5555555)]⟩, fresh := true })]⟩
                         recovery := ⟨[(0, { account := 58, image := c })]⟩ } } }
    let l := (d.applyRecovery 58 (.candidate 0)).legal 58
    (l.reg.get 0 0, l.res.get 0 0, l.fresh) = (4872345861, 0x55555555, false) := by decide +kernel

/-- Table 23.7, steps 1 to 3: a C2 error closes the open C0 slot with ESCALATED, and opens its own. -/
theorem test_escalation :
    let d := (run.raise { code := 0x0301, cls := 0, region := 9 }).raise { code := 0x0301, cls := 0, region := 9 }
    ((d.err.slot.map fun s => (s.follow, s.followCode)) = some (1, 0x0301)) ∧
    (((d.raise { code := 0x0103, cls := 2, region := 0, account := 58 }).err.slot.map fun s => (s.err.code, s.follow, s.regionCount)) =
      some (0x0103, 0, 1)) := by decide +kernel

/-- R339: 255 is followed by 1. -/
theorem test_epoch : nextEpoch 0x37 = 0x38 ∧ nextEpoch 255 = 1 := by decide

/-- R541: outside calibration bursts the width W is followed by a rest, and the next pending pulse. -/
theorem test_pulse_rest :
    ((dev1 (.pulseWidthEnd 2) (onPulse { phase := .active, width := 30, level := true } 1)).pulse 2).phase = .rest ∧
    ((dev1 (.pulseWidthEnd 2) (onPulse { phase := .rest, width := 30 } 1)).pulse 2).phase = .active := by decide +kernel

/-- The opcode table gives no row bits: no word spells a command. -/
theorem test_decode : decodeTableWord 8 0x15 = none ∧ State.reset.withFetchWord 8 0x15 = State.reset := by decide

/-! ### Ill-formed commands -/

/-- 24 frames of the converters in a sample, with one code of Converter B as given. -/
def frames (b : Int) : List ConvFrame := List.replicate 24 ⟨List.replicate 8 32767, b :: List.replicate 7 (-8192)⟩

/-- Ill-formed commands of power, recall, measuring and the stores. -/
def illFormed1 : List Instr :=
  [.configRecallDone [⟨64, 0, false⟩], .ledgerRecallDone [⟨false, 0x400, true⟩], .samplePeriod {}, .samplePeriod { frames := frames 8192 },
    .samplePeriod { frames := frames 0, dm := [[{}]] }, .samplePeriod { frames := frames 0, slices := [⟨4, 0, 0⟩] }, .xt32Restored 1024 2 1,
    .superframeReceived 0 [0] 0, .superframeReceived 0 (List.replicate 384 (2 ^ 20)) 0, .superframeReceived 0 (List.replicate 384 0) 38400,
    .dnShort 0 65536 false 0, .vinOpenTestEnd 0 (2 ^ 23), .compCrossing 0 (2 ^ 32) 0, .auxConversion (.sample (2 ^ 32)), .sealOpen (2 ^ 32),
    .pulseShort 0 (2 ^ 32), .marginPass [⟨5, 64, 0, 0⟩], .ledgerScrub [{ block := 0x400, badA := true, badB := false }],
    .sramScrub [.block 0x300000] [], .sramScrub [.shadow [256]] [], .sramScrub [] [(0, 65536)]]

/-- Ill-formed commands of the host side. -/
def illFormed2 : List Instr :=
  [.tamperWindow [] true, .go { path := .pcie 65, value := 0#64 }, .negotiationComplete [], .negotiationComplete [.ok [], .failed, .failed],
    .kick .twt ⟨65536, none⟩, .scanAll .twt [⟨0, some { index := 2 ^ 32 }⟩], .registerWrite 4 true { value := 0#64 },
    .registerWrite 4096 true { value := 0#64 }, .msixHoldoff 65 0, .msixHoldoff 0 4, .busMasterEnable 65 true, .descriptorFetch 65536 none,
    .descriptorFetch 0 (some [⟨true, 65536, 0, false, 0, 0⟩]), .contextWriteback 65536, .nop { src := .ring 65536 },
    .nop { src := .tunnel 0x8000 }, .nop { src := .boot, tenant := 256 }, .nop { src := .boot, tag := 2 ^ 32 },
    .nop { src := .boot, expEpoch := 256 }, .nop { src := .boot, args := 2 ^ 64 }]

/-- Ill-formed commands of the pod bus, tests, the target port and the line. -/
def illFormed3 : List Instr :=
  [.lineupEnd { passes := [{ survey := [none] }] }, .lineupEnd { passes := [{ rounds := [{ acked := true }] }] },
    .lineupEnd { passes := [], marks := [(0, 65536)] }, .podXferEnd (.dataNack 256), .podXferEnd (.done (List.replicate 257 0)),
    .stretchLimit 0 257 [], .twmSclStuck 0 257 [], .twmSdaStuck 0 true 257 [], .busRecovery 0 (List.replicate 10 false),
    .selftestComplete (2 ^ 32) [], .twtAddress 128 [], .frameDetect { heard 0 with bits := 2 ^ 32 },
    .captured (heard 0) (List.replicate 304 (0, 0)), .phyFrameReceived [], .segmentTimeout 65536, .tunnelTimeout 0x8000,
    .registerRead 0 (.read 4096), .registerRead 0 (.config (.other 4096)), .msixUnmask 65 true false 0#4, .completionTimeout 65536]

/-- A term for each check of WellFormed, which the check refuses. -/
theorem test_wf_refuses : (illFormed1 ++ illFormed2 ++ illFormed3).all (fun c => !c.wf) = true := by decide +kernel

/-- Commands whose operands stand at the top of their ranges. -/
def wellFormed : List Instr :=
  [.configRecallDone [⟨63, 0, false⟩], .samplePeriod { frames := frames 8191, dm := [List.replicate 384 { levels := 255 }] },
    .superframeReceived 15 (List.replicate 384 (2 ^ 20 - 1)) 38399, .auxConversion (.sample (2 ^ 32 - 1)),
    .registerWrite 0xFF8 false { value := 0#64 }, .nop { src := .tunnel 0x7FFF, tenant := 255, tag := 2 ^ 32 - 1, args := 2 ^ 64 - 1 },
    .lineupEnd twoPods, .phyFrameReceived (bands psdu0), .twtAddress 127 [], .descriptorFetch 65535 none]

/-- They are well-formed. -/
theorem test_wf_accepts : wellFormed.all Instr.wf = true := by decide +kernel

/-- The published examples of FIPS 180-4 (the hash of "abc") and of FIPS 197, appendix C.1. -/
theorem test_sha_aes :
    beNat (toNats (sha256 [0x61#8, 0x62#8, 0x63#8])) = 0xBA7816BF8F01CFEA414140DE5DAE2223B00361A396177A9CB410FF61F20015AD ∧
    beNat (aes128 (List.range 16) ((List.range 16).map (17 * ·))) = 0x69C4E0D86A7B0430D8CDB78070B4C55A := by decide +kernel

end Sys2Proof.Tests
end

/-! ## Proofs: tenants (chapter 7) -/

/-! ### Tables: what an index holds after a write -/

namespace Sys2Proof.Machine

namespace Tbl

variable {α : Type}

theorem find_put_same (k : Nat) (v : α) (l : List (Nat × α)) : find k (put k v l) = some v := by
  induction l with
  | nil => simp [put, find]
  | cons p t ih =>
    unfold put
    split
    · simp [find]
    · split
      · simp [find]
      · next hne => simp [find, Ne.symm hne, ih]

theorem find_put_other {k x : Nat} (hx : x ≠ k) (v : α) (l : List (Nat × α)) : find x (put k v l) = find x l := by
  induction l with
  | nil => simp [put, find, hx.symm]
  | cons p t ih =>
    unfold put
    split
    · simp [find, hx.symm]
    · split
      · next hk => simp [find, hx.symm, ← hk]
      · simp [find, ih]

@[simp] theorem get_set_same (t : Tbl α) (k : Nat) (v d : α) : (t.set k v).get k d = v := by
  simp [get, set, find_put_same]

@[simp] theorem get_set_other (t : Tbl α) {k x : Nat} (hx : x ≠ k) (v d : α) : (t.set k v).get x d = t.get x d := by
  simp [get, set, find_put_other hx]

end Tbl

/-! ### Epochs (R339) -/

theorem nextEpoch_ne_zero (e : Nat) : nextEpoch e ≠ 0 := by
  unfold nextEpoch
  split <;> omega

theorem nextEpoch_le (e : Nat) : nextEpoch e ≤ 255 := by
  unfold nextEpoch
  split <;> omega

theorem Dev.bump_book_same (d : Dev) (e : Nat) : (d.bump e).book.get e 1 = nextEpoch (d.book.get e 1) := by simp

theorem Dev.bump_book_other (d : Dev) {e x : Nat} (hx : x ≠ e) : (d.bump e).book.get x 1 = d.book.get x 1 := by simp [hx]

theorem Dev.updOpen_openBlk_same (d : Dev) (a : Nat) (f : OpenBlk → OpenBlk) :
    (d.updOpen a f).openBlk a = f (d.openBlk a) := by
  rw [Dev.openBlk, Dev.updOpen_led]
  exact Tbl.get_set_same ..

theorem Dev.updOpen_openBlk_other (d : Dev) {a b : Nat} (hb : b ≠ a) (f : OpenBlk → OpenBlk) :
    (d.updOpen a f).openBlk b = d.openBlk b := by
  rw [Dev.openBlk, Dev.updOpen_led]
  exact Tbl.get_set_other _ hb ..

theorem Dev.bumpAccount_epoch (d : Dev) (a : Nat) : ((d.bumpAccount a).openBlk a).epoch = nextEpoch (d.openBlk a).epoch :=
  congrArg OpenBlk.epoch (d.updOpen_openBlk_same a _)

/-- Settles O36. Both operations write `nextEpoch` at one index, which lies in 1 to 255 whatever the epoch was. -/
theorem epochsWrap : Obligations.EpochsWrap := by
  unfold Obligations.EpochsWrap
  intro d e a
  have hb := d.bump_book_same e
  refine ⟨hb, fun _ => d.bump_book_other, ?_, fun _ => ?_, d.bumpAccount_epoch a, fun _ hne => d.updOpen_openBlk_other hne _⟩
  · rw [hb]
    exact nextEpoch_ne_zero _
  · rw [hb]
    exact ⟨Nat.pos_of_ne_zero (nextEpoch_ne_zero _), nextEpoch_le _⟩

/-! ### Every opcode command runs the common checks with its row (R891) -/

/-- A test of SELFTEST with a row is the common checks of that row. -/
theorem Dev.selftest_command {d : Dev} {x y : Desc} {row : OpRow} {test : Nat} (ok : Bool) (shut busy may : Dev → Bool)
    (start : Dev → Dev) (h : opcodeRow.selftestRow x test = some (y, row)) :
    ∃ code k, d.selftest x test ok shut busy may start = d.command y row code k := by
  unfold opcodeRow.selftestRow at h
  split at h
  · cases h
  · next hmine =>
    cases h
    have hrun : ¬(decide (x.arg 24 1 ≠ test) && selfTests.contains (x.arg 24 1)) = true := by simpa using hmine
    simp only [Dev.selftest, if_neg hrun, Bool.or_eq_true, decide_eq_true_eq]
    exact ⟨_, _, rfl⟩

/-- ERROR_ACK that recovers no account judges no entry's epoch. -/
theorem Dev.ackCommand_other {d : Dev} {x : Desc} (k : Dev → Dev) (h : ¬(x.arg 24 1 = 1 ∨ x.arg 24 1 = 2)) :
    d.ackCommand x k = d.command x { opcode := 0x00E0 } (fun d _ => (d.acct (x.arg 26 1)).shown) fun d _ => k d := by
  simp [Dev.ackCommand, h]

/-- ERROR_ACK that recovers an account judges that account's epoch. -/
theorem Dev.ackCommand_recover {d : Dev} {x : Desc} (k : Dev → Dev) (h : x.arg 24 1 = 1 ∨ x.arg 24 1 = 2) :
    d.ackCommand x k =
      d.command x (opcodeRow.recoverRow x).2 (fun d _ => (d.acct (x.arg 26 1)).shown) fun d _ => k d := by
  simp [Dev.ackCommand, opcodeRow.recoverRow, h]

/-- An opcode command answers the common checks of its row, followed by its own part. -/
theorem exec_eq_command {c : Instr} {x : Desc} {row : OpRow} (s : State) (h : opcodeRow c = some (x, row)) :
    ∃ code k, exec c s = s.ok (s.dev.command x row code k) := by
  cases c with
  | nop | fence | ringAdd | ringDel | ringStop | ringStart | ringQuery | ringBlockAssign | bufReassign | tenantSet | tenantGet
  | tenantSuspend | tenantResume | calSet | calGet | ledgerRead | snapshot | packageLoad | gridStateSet | creditAdd | relaySet
  | keyLoad | keyCommit | keyStatus | configRead | configWrite | auxSeqSet | auxRead | captureArm | lineSend | lineJoin
  | lineStatus | podLineup | podXfer | clockSet | clockGet | pulseAssign =>
    cases h
    exact ⟨_, _, rfl⟩
  | linkZero | linkWalk | voltB | refTest | crypto =>
    obtain ⟨code, k, hk⟩ := Dev.selftest_command (d := s.dev) _ _ _ _ _ h
    exact ⟨code, k, congrArg s.ok hk⟩
  | errorAck y =>
    change (if y.arg 24 1 = 1 ∨ y.arg 24 1 = 2 then none else some _) = _ at h
    split at h
    · cases h
    · next hact =>
      cases h
      exact ⟨_, _, (if_neg (by simpa using hact)).trans (congrArg s.ok (Dev.ackCommand_other _ hact))⟩
  | recoverCandidate y =>
    change (if y.arg 24 1 = 1 then some _ else none) = _ at h
    split at h
    · next hact =>
      cases h
      exact ⟨_, _, (if_neg (not_not_intro hact)).trans (congrArg s.ok (Dev.ackCommand_recover _ (.inl hact)))⟩
    · cases h
  | recoverFresh y =>
    change (if y.arg 24 1 = 2 then some _ else none) = _ at h
    split at h
    · next hact =>
      cases h
      exact ⟨_, _, (if_neg (not_not_intro hact)).trans (congrArg s.ok (Dev.ackCommand_recover _ (.inr hact)))⟩
    · cases h
  | _ => cases h

/-- The six opcodes a tenant's ring may issue (R895). -/
def tenantOpcodes : List Nat := [0x0001, 0x0002, 0x0031, 0x0050, 0x0051, 0x0072]

/-- The five that need no feature are the six but SNAPSHOT. -/
theorem tenantOpcodes_of_featureless {n : Nat} (h : n ∈ [0x0001, 0x0002, 0x0031, 0x0050, 0x0072]) :
    n ∈ tenantOpcodes ∧ n ≠ 0x0051 :=
  (show ∀ m ∈ [0x0001, 0x0002, 0x0031, 0x0050, 0x0072], m ∈ tenantOpcodes ∧ m ≠ 0x0051 by decide) n h

/-- What the rows of Table 18.5 say about tenants: which opcodes their rings may issue, and that of these only SNAPSHOT needs a
feature and none needs HOSTMODE high. -/
def OpRow.tenantWise (row : OpRow) : Prop :=
  (row.tenantMay = true ↔ row.opcode ∈ tenantOpcodes) ∧
    (row.tenantMay = true → row.hostOnly = false ∧ row.feature = if row.opcode = 0x0051 then some 7 else none)

/-- Every row of Table 18.5 is open or closed to tenants as R895 has it. -/
theorem opcodeRow_tenantWise {c : Instr} {x : Desc} {row : OpRow} (h : opcodeRow c = some (x, row)) : row.tenantWise := by
  unfold opcodeRow opcodeRow.selftestRow at h
  repeat' split at h
  all_goals
    cases h <;> simp [OpRow.tenantWise, tenantOpcodes]

/-! ### What a command finds when it has begun -/

theorem Dev.leaveDoze_eng (d : Dev) : d.leaveDoze.eng = d.eng := by
  unfold Dev.leaveDoze
  dsimp only
  (repeat' split) <;> rfl

theorem Dev.rouse_eng (d : Dev) : d.rouse.eng = d.eng := by
  refine Eq.trans ?_ d.leaveDoze_eng
  unfold Dev.rouse
  dsimp only
  split <;> rfl

theorem Dev.wake_eng (d : Dev) : d.wake.eng = d.eng := Dev.rouse_eng _

theorem Dev.tunBegin_eng (d : Dev) (x : Desc) : (d.tunBegin x).eng = d.eng := by
  unfold Dev.tunBegin
  split <;> rfl

/-- Beginning a command gives no ring another owner. -/
theorem Dev.begun_ringOwner (d : Dev) (x : Desc) (r : Nat) : (d.begun x).ringOwner r = d.ringOwner r := by
  have hblocks : (d.wake.tunBegin x).eng.blocks = d.eng.blocks := by rw [Dev.tunBegin_eng, Dev.wake_eng]
  have hbegun : (d.begun x).eng.blocks = d.eng.blocks := hblocks
  simp only [Dev.ringOwner, hbegun]

theorem Dev.begun_issuer (d : Dev) (x : Desc) (c : CmdRef) : (d.begun x).issuer c = d.issuer c := by
  simp only [Dev.issuer, Dev.begun_ringOwner]

theorem Dev.begun_has (d : Dev) (x : Desc) (n : Nat) : (d.begun x).has n = d.has n :=
  congrArg (fun e => e.host.accepted.getLsbD n) (d.begun_quiet x)

/-! ### The checks on a tenant's ring (R345, R895) -/

/-- On a tenant's ring an opcode that is the supervisor's alone fails check 1. -/
theorem Dev.opcodeOk_of_supervisor_only {d : Dev} {x : Desc} {row : OpRow} (ht : d.issuer x.ref ≠ 0xFF)
    (hmay : row.tenantMay = false) : d.opcodeOk x row = false := by
  simp [Dev.opcodeOk, ht, hmay]

/-- An opcode that tenants may issue, and whose feature is accepted, passes check 1. -/
theorem Dev.opcodeOk_of_tenantMay {d : Dev} {x : Desc} {row : OpRow} (hmay : row.tenantMay = true)
    (hhost : row.hostOnly = false) (hfeat : row.feature.all d.has = true) : d.opcodeOk x row = true := by
  simp [Dev.opcodeOk, hmay, hhost, hfeat]

/-- On a tenant's ring another TENANT than the tenant's own fails check 2. -/
theorem Dev.tenantOk_of_other {d : Dev} {x : Desc} (row : OpRow) (ht : d.issuer x.ref ≠ 0xFF)
    (hother : x.tenant ≠ d.issuer x.ref) : d.tenantOk x row = false := by
  simp [Dev.tenantOk, ht, hother]

/-- A command that only begins and completes changes nothing but what posting may. -/
theorem onlyPosts_of_done {c : Instr} {s : State} {x : Desc} {r : CmdRef} {status : Nat}
    (h : exec c s = s.ok ((s.dev.begun x).done r status)) : OnlyPosts c s :=
  Runs.ok _ h ⟨((s.dev.begun x).done_quiet r status).trans (s.dev.begun_quiet x), rfl, rfl⟩

section
variable {c : Instr} {s : State} {x : Desc} {row : OpRow} (hrow : opcodeRow c = some (x, row))
  (hexec : s.dev.executes x = true)
include hrow hexec

/-- An executing command that fails check 1 completes with BAD_OPCODE (R891). -/
theorem exec_badOpcode (hop : (s.dev.begun x).opcodeOk x row = false) :
    exec c s = s.ok ((s.dev.begun x).done x.ref stBadOpcode) := by
  obtain ⟨code, k, hcmd⟩ := exec_eq_command s hrow
  rw [hcmd, Dev.command_badOpcode code k hexec hop]

/-- An executing command that passes check 1 and fails check 2 completes with BAD_TENANT (R891). -/
theorem exec_badTenant (hop : (s.dev.begun x).opcodeOk x row = true) (hten : (s.dev.begun x).tenantOk x row = false) :
    exec c s = s.ok ((s.dev.begun x).done x.ref stBadTenant) := by
  obtain ⟨code, k, hcmd⟩ := exec_eq_command s hrow
  rw [hcmd, Dev.command_badTenant code k hexec hop hten]

end

/-- Settles O51. On a tenant's ring check 1 stops the opcodes whose row is closed to tenants; the six others pass it, and check 2
stops another TENANT. -/
theorem tenantPrivilege : Obligations.TenantPrivilege := by
  unfold Obligations.TenantPrivilege
  intro c s x row hrow hexec ht
  obtain ⟨hsix, hopen⟩ := opcodeRow_tenantWise hrow
  have htb : (s.dev.begun x).issuer x.ref ≠ 0xFF := by rwa [Dev.begun_issuer]
  refine ⟨fun hop => ?_, fun hop hother => ?_⟩
  · have hmay : row.tenantMay = false := Bool.eq_false_iff.mpr (mt hsix.mp hop)
    have hdone := exec_badOpcode hrow hexec (Dev.opcodeOk_of_supervisor_only htb hmay)
    exact ⟨hdone, onlyPosts_of_done hdone⟩
  · have hsplit : row.opcode ∈ tenantOpcodes ∧ row.opcode ≠ 0x0051 ∨ row.opcode = 0x0051 ∧ s.dev.has 7 = true :=
      hop.imp_left tenantOpcodes_of_featureless
    have hmay : row.tenantMay = true := hsix.mpr (hsplit.elim (·.1) fun h => h.1 ▸ by decide)
    obtain ⟨hhost, hfeat⟩ := hopen hmay
    have hall : row.feature.all (s.dev.begun x).has = true := by
      rw [hfeat]
      rcases hsplit with ⟨-, hne⟩ | ⟨hsnap, hhas⟩
      · simp [hne]
      · simp [hsnap, Dev.begun_has, hhas]
    have hdone := exec_badTenant hrow hexec (Dev.opcodeOk_of_tenantMay hmay hhost hall)
      (Dev.tenantOk_of_other row htb (by rwa [Dev.begun_issuer]))
    exact ⟨hdone, onlyPosts_of_done hdone⟩

end Sys2Proof.Machine

/-! ## Proofs: the host port and its registers (chapter 16) -/

namespace Sys2Proof.Machine

/-! ### CAUSE and MASK, and what moderation leaves of them (R780) -/

/-- CAUSE and MASK of function `g` (Table 16.6). -/
def Dev.causeMask (d : Dev) (g : Nat) : BitVec 4 × BitVec 4 := ((d.fn g).cause, (d.fn g).mask)

theorem Dev.setFn_fn_same (d : Dev) (f : Nat) (x : Fn) : (d.setFn f x).fn f = x := by simp [Dev.fn]

theorem Dev.setFn_fn_other (d : Dev) {f g : Nat} (hg : g ≠ f) (x : Fn) : (d.setFn f x).fn g = d.fn g := by
  simp [Dev.fn, hg]

theorem Dev.setFn_causeMask_same (d : Dev) (f : Nat) (x : Fn) : (d.setFn f x).causeMask f = (x.cause, x.mask) := by
  rw [Dev.causeMask, Dev.setFn_fn_same]

theorem Dev.setFn_causeMask_other (d : Dev) {f g : Nat} (hg : g ≠ f) (x : Fn) : (d.setFn f x).causeMask g = d.causeMask g := by
  rw [Dev.causeMask, Dev.setFn_fn_other d hg, Dev.causeMask]

/-- Writing a function's moderation windows changes no CAUSE and no MASK. -/
@[simp] theorem Dev.setFn_win_causeMask (d : Dev) (f : Nat) (win : Tbl Win) (g : Nat) :
    (d.setFn f { d.fn f with win := win }).causeMask g = d.causeMask g := by
  by_cases hg : g = f
  · subst hg
    exact d.setFn_causeMask_same g _
  · exact d.setFn_causeMask_other hg _

@[simp] theorem Dev.emit_causeMask (d : Dev) (o : Out) (g : Nat) : (d.emit o).causeMask g = d.causeMask g := rfl

@[simp] theorem Dev.sendMsix_causeMask (d : Dev) (f v g : Nat) : (d.sendMsix f v).causeMask g = d.causeMask g := by
  dsimp only [Dev.sendMsix]
  split <;> simp

@[simp] theorem Dev.openWindow_causeMask (d : Dev) (f v n g : Nat) : (d.openWindow f v n).causeMask g = d.causeMask g := by
  dsimp only [Dev.openWindow]
  split <;> simp

/-! ### A write of CAUSE (R781) -/

/-- The causes of function `f` that a write of CAUSE may clear: all but the PF's FAULT while an error waits. -/
def Dev.clearable (d : Dev) (f : Nat) : BitVec 4 := if f = 0 ∧ d.err.queue ≠ [] then 0xB#4 else 0xF#4

/-- A write of CAUSE sets its function's cause and mask; the windows that it ends and opens after that touch neither. -/
theorem Dev.writeCause_causeMask (d : Dev) (f : Nat) (w : RegVal) (g : Nat) :
    (d.writeCause f w).causeMask g =
      if g = f then
        ((d.fn f).cause &&& ~~~(if w.lo then w.value.setWidth 4 &&& d.clearable f else 0#4),
          if w.hi then (w.value >>> 32).setWidth 4 else (d.fn f).mask)
      else d.causeMask g := by
  have hkeep : ~~~(if f = 0 && !d.err.queue.isEmpty then 4#4 else 0#4) = d.clearable f := by
    by_cases h : f = 0 ∧ d.err.queue ≠ [] <;> simp [Dev.clearable, h]
  dsimp only [Dev.writeCause]
  rw [hkeep, Dev.each_keeps (fun d => d.causeMask g)]
  · by_cases hg : g = f
    · subst hg
      rw [Dev.setFn_causeMask_same, if_pos rfl]
    · rw [Dev.setFn_causeMask_other d hg, if_neg hg]
  · -- for each vector, a window of `f` is ended or opened, or nothing is done
    intro d v
    simp only [apply_ite (Dev.causeMask · g), Dev.setFn_win_causeMask, Dev.openWindow_causeMask, ite_self]

/-- Settles O44. The write sets the cause and mask of its own function, and only the PF's FAULT is held while an error waits. -/
theorem causeClears : Obligations.CauseClears := by
  unfold Obligations.CauseClears
  intro d f w
  have hself := d.writeCause_causeMask f w f
  rw [if_pos rfl] at hself
  obtain ⟨hcause, hmask⟩ := Prod.mk.inj hself
  refine ⟨hmask, fun hall => ?_, fun hf hq => ?_, fun g hg => ?_⟩
  · have hclr : d.clearable f = BitVec.allOnes 4 := if_neg fun h => hall.elim (· h.1) h.2
    rw [hcause, hclr, BitVec.and_allOnes]
  · have hclr : d.clearable f = 0xB#4 := if_pos ⟨hf, hq⟩
    rw [hcause, hclr]
  · have hother := d.writeCause_causeMask f w g
    rw [if_neg hg] at hother
    exact Prod.mk.inj hother

end Sys2Proof.Machine


section

-- One proof after another: side by side, their intermediate terms together with the tests' need more memory than a check may take.
set_option Elab.async false
/-! ## Proofs: the block as a machine -/

namespace Sys2Proof.Machine

/-! ### Steps and the queue -/

theorem step_of_pending {c : Instr} {rest : List Instr} {s : State} (h : s.pending = c :: rest) :
    step s = exec c { s with pending := rest } := by
  simp [step, h]

theorem step_of_empty {s : State} (h : s.pending = []) : step s = .next { s with dev := s.dev.tick } := by
  simp [step, h]

theorem exec_next (c : Instr) (s : State) : ∃ t, exec c s = .next t ∧ t.pending = s.pending := (exec_shaped c s).next

theorem exec_keeps_inv {c : Instr} {s t : State} (hi : s.Inv) (h : exec c s = .next t) : t.Inv := (exec_shaped c s).inv hi h

/-! ### The passing of time leaves all but the power unit and the counter of free values -/

theorem Dev.rtcTick_eq (d : Dev) : d.rtcTick = { d with pwr := d.rtcTick.pwr } := rfl

theorem Dev.rtcDue_eq (d : Dev) : d.rtcDue.1 = { d with free := d.rtcDue.1.free } := by
  unfold Dev.rtcDue
  dsimp only
  (repeat' split) <;> rfl

theorem Dev.rtcDue_pwr (d : Dev) : d.rtcDue.1.pwr = d.pwr := by rw [Dev.rtcDue_eq]

theorem Dev.tick_eq (d : Dev) : d.tick = { d with pwr := d.tick.pwr, free := d.tick.free } := by
  unfold Dev.tick
  split
  · rfl
  · split
    · rfl
    · dsimp only
      rw [Dev.rtcDue_eq]
      (repeat' split) <;> rfl

theorem Dev.tick_stores (d : Dev) : d.tick.stores = d.stores := by rw [Dev.tick_eq]

/-! ### What holds of every command and of every step -/

/-- Settles O5. A command's outcome is shaped, so that the bytes on their way are in the boot image area, which stays canonical; the
passing of time touches neither. -/
theorem everyStepKeepsInv : Obligations.EveryStepKeepsInv := by
  unfold Obligations.EveryStepKeepsInv
  intro s t hi hstep
  cases hp : s.pending with
  | nil =>
    rw [step_of_empty hp] at hstep
    cases hstep
    exact ⟨hi.1, s.dev.tick_stores.trans hi.2⟩
  | cons c rest =>
    rw [step_of_pending hp] at hstep
    exact exec_keeps_inv (s := { s with pending := rest }) hi hstep

/-- Settles O2. -/
theorem everyCommandCompletes : Obligations.EveryCommandCompletes := exec_next

/-- Settles O1. -/
theorem stepTakesFront : Obligations.StepTakesFront := fun _ _ => step_of_pending rfl

/-- As many steps as commands wait ahead of some rest take exactly those, and keep the invariant. -/
theorem run_takes_waiting (cs rest : List Instr) :
    ∀ s : State, s.Inv → s.pending = cs ++ rest →
      ∃ t, Host.Core.run Sys2Proof.core cs.length s = .next t ∧ t.pending = rest ∧ t.Inv := by
  induction cs with
  | nil => exact fun s hi hp => ⟨s, rfl, hp, hi⟩
  | cons c cs ih =>
    intro s hi hp
    obtain ⟨u, hu, hup⟩ := exec_next c { s with pending := cs ++ rest }
    obtain ⟨t, ht⟩ := ih u (exec_keeps_inv (s := { s with pending := cs ++ rest }) hi hu) hup
    have hstep : Sys2Proof.core.step s = .next u := (step_of_pending hp).trans hu
    exact ⟨t, by simp [Host.Core.run, hstep, ht.1], ht.2⟩

/-- Settles O3. The first step is the first command's effect; the others take what waits behind it. -/
theorem queueRunsInOrder : Obligations.QueueRunsInOrder := by
  unfold Obligations.QueueRunsInOrder
  intro c cs rest s hi hp
  obtain ⟨u, hu, hup⟩ := exec_next c { s with pending := cs ++ rest }
  obtain ⟨t, ht, htp, hti⟩ :=
    run_takes_waiting cs rest u (exec_keeps_inv (s := { s with pending := cs ++ rest }) hi hu) hup
  have hstep : Sys2Proof.core.step s = .next u := (step_of_pending hp).trans hu
  exact ⟨u, t, hu, hup, ht, by simp [Host.Core.run, hstep, ht], htp, hti⟩

/-- Settles O6. A command that does not store into the boot image area has a plain outcome. -/
theorem bootImageFrame : Obligations.BootImageFrame := by
  unfold Obligations.BootImageFrame
  intro c s t hc ht a
  rw [(exec_plain hc s).boot ht]

/-- At reset no cause stands and every cause is masked, at the PF and at each VF. -/
theorem causeWord_reset (f : Nat) : State.reset.dev.causeWord f = 0x0000000F00000000 := by
  have hfn : State.reset.dev.fn f = {} := rfl
  simp [Dev.causeWord, hfn]

theorem regOf_cause (d : Dev) (f : Nat) : d.regOf f 0x28 = d.causeWord f := by
  unfold Dev.regOf
  split
  · next h => rw [h]; rfl
  · rfl

/-- Settles O4. -/
theorem resetState : Obligations.ResetState := by
  unfold Obligations.ResetState
  exact ⟨⟨rfl, rfl⟩, rfl, rfl, rfl, by decide, by decide, by decide, by decide, by decide, by decide,
    fun f => (regOf_cause _ f).trans (causeWord_reset f), by decide, by decide, by decide, by decide, by decide, by decide,
    fun _ => rfl⟩

end Sys2Proof.Machine

/-! ## Proofs: time (chapter 2) -/

namespace Sys2Proof.Machine

/-! ### Which clock passes -/

theorem Dev.metRuns_of_awake {d : Dev} (ha : d.awake = true) (hc : d.pwr.metClock = true) : d.metRuns = true := by
  simp [Dev.metRuns, ha, hc]

theorem Dev.pstate_of_awake {d : Dev} (h : d.awake = true) : d.pwr.pstate = .run ∨ d.pwr.pstate = .doze := by
  simpa [Dev.awake] using h

theorem Dev.not_off_of_metRuns {d : Dev} (h : d.metRuns = true) : d.pwr.pstate ≠ .off := by
  intro hoff
  simp [Dev.metRuns, Dev.awake, hoff] at h

theorem Dev.tick_off {d : Dev} (h : d.pwr.pstate = .off) : d.tick = d := by
  simp [Dev.tick, h]

theorem Dev.tick_stopped {d : Dev} (hoff : d.pwr.pstate ≠ .off) (h : d.metRuns = false) : d.tick = d.rtcTick := by
  simp [Dev.tick, hoff, h]

/-- The device at a metrology clock, before the RTC tick that may be due at it: the clocks since the last sample count up. -/
def Dev.sampleClock (d : Dev) : Dev :=
  { d.rtcDue.1 with pwr := { d.pwr with smpClocks := d.pwr.smpClocks + 1 } }

theorem Dev.tick_due {d : Dev} (h : d.metRuns = true) (hdue : d.rtcDue.2 = true) : d.tick = d.sampleClock.rtcTick := by
  simp [Dev.tick, Dev.not_off_of_metRuns h, h, hdue, Dev.sampleClock, Dev.rtcDue_pwr]

theorem Dev.tick_counts {d : Dev} (h : d.metRuns = true) (hdue : d.rtcDue.2 = false) (hm : d.pwr.mcount < 749) :
    d.tick = { d.sampleClock with pwr := { d.sampleClock.pwr with mcount := d.pwr.mcount + 1 } } := by
  simp [Dev.tick, Dev.not_off_of_metRuns h, h, hdue, Dev.sampleClock, Dev.rtcDue_pwr, hm]

theorem Dev.tick_holds {d : Dev} (h : d.metRuns = true) (hdue : d.rtcDue.2 = false) (hm : 749 ≤ d.pwr.mcount) :
    d.tick = { d.sampleClock with pwr := { d.sampleClock.pwr with late := true } } := by
  simp [Dev.tick, Dev.not_off_of_metRuns h, h, hdue, Dev.sampleClock, Dev.rtcDue_pwr, hm]

/-! ### When the RTC tick is due (assumption 113) -/

theorem Dev.rtcDue_early {d : Dev} (h : d.pwr.mcount < 748) : d.rtcDue = (d, false) := by
  simp [Dev.rtcDue, h]

theorem Dev.rtcDue_fallback {d : Dev} (h : 748 ≤ d.pwr.mcount) (hsrc : d.pwr.rtcSource ≠ .crystal) :
    d.rtcDue = (d, decide (749 ≤ d.pwr.mcount)) := by
  simp [Dev.rtcDue, hsrc, Nat.not_lt.mpr h]

theorem Dev.rtcDue_late {d : Dev} (h : 748 ≤ d.pwr.mcount) (hsrc : d.pwr.rtcSource = .crystal) (hlate : d.pwr.late = true) :
    d.rtcDue = (d, true) := by
  simp [Dev.rtcDue, hsrc, Nat.not_lt.mpr h, hlate]

/-- A tick is never due before the 749th clock. -/
theorem Dev.mcount_of_rtcDue {d : Dev} (h : d.rtcDue.2 = true) : 748 ≤ d.pwr.mcount := by
  by_contra hlt
  rw [Dev.rtcDue_early (Nat.lt_of_not_le hlt)] at h
  cases h

theorem Dev.tick_early {d : Dev} (h : d.metRuns = true) (hm : d.pwr.mcount < 748) :
    d.tick = { d with pwr := { d.pwr with mcount := d.pwr.mcount + 1, smpClocks := d.pwr.smpClocks + 1 } } := by
  have hdue := Dev.rtcDue_early hm
  rw [Dev.tick_counts h (by rw [hdue]) (by omega), Dev.sampleClock, hdue]

/-- With the metrology domain running, the count since the last RTC tick goes to 0, or counts up to 749 at most. -/
theorem Dev.tick_mcount_le {d : Dev} (h : d.metRuns = true) (hm : d.pwr.mcount ≤ 749) : d.tick.pwr.mcount ≤ 749 := by
  cases hdue : d.rtcDue.2 with
  | true =>
    rw [Dev.tick_due h hdue]
    exact Nat.zero_le _
  | false =>
    rcases Nat.lt_or_ge d.pwr.mcount 749 with hlt | hge
    · rw [Dev.tick_counts h hdue hlt]
      exact hlt
    · rw [Dev.tick_holds h hdue hge]
      exact hm

/-! ### Device time -/

theorem Dev.now_running {d : Dev} (h : d.metRuns = true) : d.now = (d.pwr.rtc + d.pwr.mcount * 32768 / 750) % 2 ^ 64 := by
  simp [Dev.now, h]

theorem Dev.now_at_clock {d : Dev} (h : d.metRuns = true) (n : Nat) :
    ({ d with pwr := { d.pwr with mcount := n } } : Dev).now = (d.pwr.rtc + n * 32768 / 750) % 2 ^ 64 :=
  Dev.now_running (d := { d with pwr := { d.pwr with mcount := n } }) h

/-- Settles O7. -/
theorem deviceTimeInterpolates : Obligations.DeviceTimeInterpolates := by
  unfold Obligations.DeviceTimeInterpolates
  intro d ha hc
  have hrun := Dev.metRuns_of_awake ha hc
  refine ⟨Dev.now_running hrun, fun hm => ?_, Dev.tick_mcount_le hrun, fun hsrc hm => ?_, fun hm hends => ?_⟩
  · rw [Dev.tick_early hrun hm]
    exact ⟨rfl, rfl⟩
  · have hdue := Dev.rtcDue_fallback (Nat.le_of_eq hm.symm) hsrc
    rw [Dev.tick_counts hrun (by rw [hdue]; simp [hm]) (by omega)]
    exact ⟨congrArg (· + 1) hm, rfl⟩
  · have hge : 748 ≤ d.pwr.mcount := by omega
    have hdue : d.rtcDue.2 = true := by
      by_cases hsrc : d.pwr.rtcSource = .crystal
      · rw [Dev.rtcDue_late hge hsrc (hends.resolve_left (not_not_intro hsrc))]
      · simp [Dev.rtcDue_fallback hge hsrc, hm]
    rw [Dev.tick_due hrun hdue]
    exact ⟨rfl, rfl⟩

/-- Settles O8. On an empty queue a step is a tick, which is none in OFF, a metrology clock where the metrology domain runs and an RTC
tick where it does not. -/
theorem idleStepIsTime : Obligations.IdleStepIsTime := by
  unfold Obligations.IdleStepIsTime
  intro s hp
  rw [step_of_empty hp]
  refine ⟨fun hoff => ?_, fun hrun hm => ?_, fun hoff hstop => ?_, fun hrun hm => ?_⟩
  · rw [Dev.tick_off hoff]
  · rw [Dev.tick_early hrun hm]
  · refine ⟨s.dev.rtcTick.pwr, ?_, rfl, rfl, rfl, rfl⟩
    rw [Dev.tick_stopped hoff hstop, ← Dev.rtcTick_eq]
  · refine ⟨s.dev.tick.pwr, s.dev.tick.free, congrArg (fun d => Host.Outcome.next { s with dev := d }) s.dev.tick_eq, ?_⟩
    cases hdue : s.dev.rtcDue.2 with
    | true =>
      rw [Dev.tick_due hrun hdue]
      exact ⟨rfl, rfl, .inr ⟨rfl, rfl⟩⟩
    | false =>
      rcases Nat.lt_or_ge s.dev.pwr.mcount 749 with hlt | hge
      · rw [Dev.tick_counts hrun hdue hlt]
        exact ⟨rfl, rfl, .inl rfl⟩
      · rw [Dev.tick_holds hrun hdue hge]
        exact ⟨rfl, rfl, .inl rfl⟩

/-! ### Slews (R95) -/

/-- What one RTC tick of a slew may absorb is 16 or 17 units. -/
theorem Power.slewStep_bound {p : Power} (h : p.slewFrac < 1000) :
    ∃ n : Int, (n = 16 ∨ n = 17) ∧ p.slewStep = if 0 ≤ p.slew then min n p.slew else -(min n (-p.slew)) := by
  refine ⟨16 + ((p.slewFrac + 384) / 1000 : Nat), ?_, rfl⟩
  omega

/-- Settles O10. -/
theorem slewAbsorbs : Obligations.SlewAbsorbs := by
  unfold Obligations.SlewAbsorbs
  intro p hfrac
  obtain ⟨n, hn, hstep⟩ := Power.slewStep_bound hfrac
  rw [hstep]
  split <;> refine ⟨?_, ?_, ?_, ?_, ?_⟩ <;> omega

theorem Power.slewStep_ge {p : Power} (h : p.slewFrac < 1000) : -17 ≤ p.slewStep ∧ p.slewStep ≤ 17 := by
  have := (slewAbsorbs p h).1
  omega

/-- An RTC tick leaves which clocks run. -/
theorem Dev.rtcTick_metRuns (d : Dev) : d.rtcTick.metRuns = d.metRuns := rfl

/-- With the metrology clock running, an RTC tick brings device time on by a tick and the slew's part. -/
theorem Dev.rtcTick_now_running {d : Dev} (h : d.metRuns = true) :
    d.rtcTick.now = ((d.pwr.rtc : Int) + 32768 + d.pwr.slewStep).toNat % 2 ^ 64 := by
  rw [Dev.now_running (d.rtcTick_metRuns.trans h)]
  simp [Dev.rtcTick, h]

/-- Without it, device time shows whole ticks, to which the first tick rounds it up (R91). -/
theorem Dev.rtcTick_now_stopped {d : Dev} (h : d.metRuns = false) :
    d.rtcTick.now =
      (if d.pwr.coarse then ((d.pwr.rtc : Int) + 32768 + d.pwr.slewStep).toNat
        else (((d.pwr.rtc : Int) + 32768 + d.pwr.slewStep).toNat + 32767) / 32768 * 32768) % 2 ^ 64 / 32768 * 32768 := by
  have hrun : d.rtcTick.metRuns = false := h
  have hc : d.rtcTick.pwr.coarse = true := congrArg (!·) h
  have hnow : d.rtcTick.now = d.rtcTick.pwr.rtc / 32768 * 32768 := by simp [Dev.now, hc, hrun]
  rw [hnow]
  cases hcoarse : d.pwr.coarse <;> simp [Dev.rtcTick, h, hcoarse]

section
variable {d : Dev} (hm : d.pwr.mcount ≤ 749) (hfrac : d.pwr.slewFrac < 1000) (htop : d.pwr.rtc + 2 ^ 17 ≤ 2 ^ 64)
include hm hfrac htop

/-- An RTC tick brings device time forward: a slew takes 17 units of a tick at most, fewer than the 44 that the clocks counted before
it leave of it. -/
theorem Dev.now_le_rtcTick_now : d.now ≤ d.rtcTick.now := by
  have hslew := Power.slewStep_ge hfrac
  cases hrun : d.metRuns with
  | true =>
    rw [Dev.rtcTick_now_running hrun, Dev.now_running hrun]
    unfold DevTime at *
    omega
  | false =>
    rw [Dev.rtcTick_now_stopped hrun]
    unfold DevTime at *
    cases hc : d.pwr.coarse <;> simp only [Dev.now, hrun, hc] <;> simp <;> omega

/-- Device time never runs back at a metrology clock. -/
theorem Dev.now_le_tick_now_running (hrun : d.metRuns = true) : d.now ≤ d.tick.now := by
  cases hdue : d.rtcDue.2 with
  | true =>
    rw [Dev.tick_due hrun hdue]
    exact Dev.now_le_rtcTick_now (d := d.sampleClock) hm hfrac htop
  | false =>
    rcases Nat.lt_or_ge d.pwr.mcount 749 with hlt | hge
    · rw [Dev.tick_counts hrun hdue hlt]
      rw [Dev.now_running hrun, Dev.now_at_clock (d := d.sampleClock) hrun]
      dsimp only [Dev.sampleClock]
      unfold DevTime at *
      rw [Nat.mod_eq_of_lt (by omega), Nat.mod_eq_of_lt (by omega)]
      omega
    · rw [Dev.tick_holds hrun hdue hge]
      exact Nat.le_refl _

end

/-- Settles O9. -/
theorem timeNeverRunsBack : Obligations.TimeNeverRunsBack := by
  unfold Obligations.TimeNeverRunsBack
  intro d hm hfrac htop
  by_cases hoff : d.pwr.pstate = .off
  · rw [Dev.tick_off hoff]
  · cases hrun : d.metRuns with
    | true => exact Dev.now_le_tick_now_running hm hfrac htop hrun
    | false =>
      rw [Dev.tick_stopped hoff hrun]
      exact Dev.now_le_rtcTick_now hm hfrac htop

end Sys2Proof.Machine

/-! ## Proofs: the common checks and the reading opcodes (chapter 18) -/

namespace Sys2Proof.Machine

/-! ### The common checks (R341, R891) -/

/-- A command whose expected epoch is wrong completes with STATE_MISMATCH. -/
theorem Dev.command_mismatch {d : Dev} {x : Desc} {row : OpRow} {n : Nat} (code : Dev → Nat → Nat) (k : Dev → Nat → Dev)
    (hexec : d.executes x = true) (hop : (d.begun x).opcodeOk x row = true) (hten : (d.begun x).tenantOk x row = true)
    (hjudged : row.judged x = some n) (hepoch : (d.begun x).epochOk x n = false) :
    d.command x row code k = (d.begun x).doneMismatch x row.opcode n (code (d.begun x) n) := by
  simp [Dev.command, hexec, hop, hten, hjudged, Option.filter, hepoch]

/-- A command whose own part changes nothing but what posting may does so whatever the checks find. -/
theorem Dev.command_quiet {x : Desc} {row : OpRow} {code : Dev → Nat → Nat} {k : Dev → Nat → Dev}
    (hk : ∀ d a, (k d a).quiet = d.quiet) (d : Dev) : (d.command x row code k).quiet = d.quiet := by
  unfold Dev.command
  dsimp only
  (repeat' split) <;> simp [hk]

/-- A command that leaves all but what posting may. -/
theorem onlyPosts_of_quiet {c : Instr} {s : State} {d : Dev} (h : exec c s = s.ok d) (hq : d.quiet = s.dev.quiet) : OnlyPosts c s :=
  Runs.ok d h ⟨hq, rfl, rfl⟩

/-- An accepted command runs its opcode's own part on the device as it finds it. -/
theorem exec_accepted {c : Instr} {s : State} {x : Desc} {row : OpRow} {code : Dev → Nat → Nat} {k : Dev → Nat → Dev}
    (hexec : exec c s = s.ok (s.dev.command x row code k)) (hrow : opcodeRow c = some (x, row)) (h : Accepted c s) :
    exec c s = s.ok (k (s.dev.begun x) (accountOf x.tenant)) := by
  obtain ⟨p, hp, hacc⟩ := h
  obtain rfl : (x, row) = p := Option.some.inj (hrow.symm.trans hp)
  rw [hexec, Dev.command_accepted code k hacc]

/-- Settles O50. Each check answers as Table 18.3 has it, and completing changes nothing but what posting may. -/
theorem opcodeChecks : Obligations.OpcodeChecks := by
  unfold Obligations.OpcodeChecks
  intro c s x row hrow
  obtain ⟨code, k, hcmd⟩ := exec_eq_command s hrow
  refine ⟨fun hwait => ?_, fun hexec => ⟨fun hop => ?_, fun hop hten => ?_, fun n hop hten hj h0 hne => ?_⟩⟩
  · rw [hcmd, Dev.command_waits code k hwait]
  · have hdone := exec_badOpcode hrow hexec hop
    exact ⟨hdone, onlyPosts_of_done hdone⟩
  · have hdone := exec_badTenant hrow hexec hop hten
    exact ⟨hdone, onlyPosts_of_done hdone⟩
  · have hepoch : (s.dev.begun x).epochOk x n = false := by simp [Dev.epochOk, h0, hne]
    have hdone := hcmd.trans (congrArg s.ok (Dev.command_mismatch code k hexec hop hten hj hepoch))
    exact ⟨⟨_, hdone⟩, onlyPosts_of_quiet hdone (by simp)⟩

/-! ### The length of a layout -/

theorem leBytes_length (sz n : Nat) : (leBytes sz n).length = sz := by
  induction sz generalizing n with
  | zero => rfl
  | succ sz ih => simp [leBytes, ih]

theorem pasteAt_length {bs new : List Byte} {off : Nat} : (pasteAt bs off new).length = bs.length := by
  simp only [pasteAt, List.length_append, List.length_take, List.length_drop]
  omega

@[simp] theorem layout_length (n : Nat) (fs : List Fld) : (layout n fs).length = n := by
  have hpaste : ∀ bs : List Byte,
      (fs.foldl (fun bs f => pasteAt bs f.off (leBytes f.sz f.val)) bs).length = bs.length := by
    induction fs with
    | nil => exact fun _ => rfl
    | cons f fs ih => exact fun bs => (ih _).trans pasteAt_length
  simp [layout, hpaste]

/-! ### The opcodes that only read (R890) -/

/-- The opcodes that only read, NOP and BUF_REASSIGN post and complete, and do nothing else. -/
theorem readingOpcode_onlyPosts {s : State} {x : Desc} {c : Instr}
    (hc : c ∈ [Instr.nop x, .calGet x, .configRead x, .ledgerRead x, .tenantGet x, .clockGet x, .keyStatus x, .lineStatus x,
      .ringQuery x, .bufReassign x]) : OnlyPosts c s := by
  simp only [List.mem_cons, List.not_mem_nil, or_false] at hc
  rcases hc with rfl | rfl | rfl | rfl | rfl | rfl | rfl | rfl | rfl | rfl
  all_goals
    refine onlyPosts_of_quiet rfl (Dev.command_quiet (fun d a => ?_) s.dev)
    try dsimp only
    (repeat' split) <;> simp

/-- CAL_GET of a block that exists, into a buffer that it fits, writes the block of the KIND asked for. -/
theorem exec_calGet {s : State} {x : Desc} {n : Nat} (h : Accepted (.calGet x) s)
    (hsize : calSize (x.arg 24 1) (x.arg 26 2) = some n) (hlen : n ≤ x.len) :
    exec (.calGet x) s = s.ok (((s.dev.begun x).output x (match x.arg 24 1 with
      | 0 => (s.dev.begun x).cal.cabinet
      | 1 => (s.dev.begun x).voltBlk (x.arg 26 2)
      | 2 => (s.dev.begun x).chanBlk (x.arg 26 2)
      | 3 => (s.dev.begun x).calStatus
      | _ => (s.dev.begun x).calFactory)).done x.ref stOK) := by
  refine (exec_accepted rfl rfl h).trans (congrArg s.ok ?_)
  simp only [hsize, if_neg (Nat.not_lt.mpr hlen)] <;> rfl

/-- Settles O52. What each opcode does once accepted is its own part, with the refusals that its operands rule out taken away. -/
theorem readingOpcodes : Obligations.ReadingOpcodes := by
  unfold Obligations.ReadingOpcodes
  intro s x
  refine ⟨fun c hc => readingOpcode_onlyPosts hc, fun h => ?nop, fun n h hsize hlen => ?calGet, fun h h1 hA hlen => ?configRead,
    fun h hlen => ?ledgerRead, fun h hlen => ?tenantGet, fun h => ?clockGet, fun h hown ho hlen => ?keyStatus,
    fun h hlen => ?lineStatus, fun h hlen => ⟨fun hrun => ?auxTrigger, fun hrun => ?auxBlock⟩⟩
  case nop => exact exec_accepted rfl rfl h
  case calGet =>
    have hget := exec_calGet h hsize hlen
    exact ⟨fun hk => by simpa only [hk] using hget, fun hk => by simpa only [hk] using hget, fun hk => by simpa only [hk] using hget,
      fun hk => by simpa only [hk] using hget, fun hk => by simpa only [hk] using hget⟩
  case configRead =>
    refine (exec_accepted rfl rfl h).trans (congrArg s.ok ?_)
    simp [Nat.not_lt.mpr hA, Nat.not_lt.mpr hlen, Nat.pos_iff_ne_zero.mp h1]
  case ledgerRead =>
    refine (exec_accepted rfl rfl h).trans (congrArg s.ok ?_)
    simp [Nat.not_lt.mpr hlen]
  case tenantGet =>
    refine ⟨_, ?_, (exec_accepted rfl rfl h).trans (congrArg s.ok (if_neg (Nat.not_lt.mpr hlen)))⟩
    simp
    omega
  case clockGet => exact exec_accepted rfl rfl h
  case keyStatus =>
    refine (exec_accepted rfl rfl h).trans (congrArg s.ok ?_)
    have hmine : ¬((s.dev.begun x).issuer x.ref ≠ 0xFF ∧ x.arg 24 1 ≠ (s.dev.begun x).issuer x.ref) :=
      fun hne => hown.elim hne.1 hne.2
    simp [hmine, Nat.not_lt.mpr hlen, Nat.not_lt.mpr ho]
  case lineStatus =>
    exact ⟨_, layout_length _ _, (exec_accepted rfl rfl h).trans (congrArg s.ok (if_neg (Nat.not_lt.mpr hlen)))⟩
  case auxTrigger =>
    refine (exec_accepted rfl rfl h).trans (congrArg s.ok ?_)
    simp [Nat.not_lt.mpr hlen, hrun]
  case auxBlock =>
    refine (exec_accepted rfl rfl h).trans (congrArg s.ok ?_)
    simp [Nat.not_lt.mpr hlen, hrun]

end Sys2Proof.Machine

/-! ## Proofs: the mover (chapter 17) -/

namespace Sys2Proof.Machine

/-! ### A wake touches the power unit and what leaves the LY64 -/

theorem Dev.leaveDoze_eq (d : Dev) : d.leaveDoze = { d with pwr := d.leaveDoze.pwr, out := d.leaveDoze.out } := by
  unfold Dev.leaveDoze
  dsimp only
  (repeat' split) <;> rfl

theorem Dev.rouse_eq (d : Dev) : d.rouse = { d with pwr := d.rouse.pwr, out := d.rouse.out } := by
  unfold Dev.rouse
  dsimp only
  rw [Dev.leaveDoze_eq]
  split <;> rfl

theorem Dev.wake_eq (d : Dev) : d.wake = { d with pwr := d.wake.pwr, out := d.wake.out } := Dev.rouse_eq _

@[simp] theorem Dev.wake_host (d : Dev) : d.wake.host = d.host := by rw [Dev.wake_eq]
@[simp] theorem Dev.wake_led (d : Dev) : d.wake.led = d.led := by rw [Dev.wake_eq]
@[simp] theorem Dev.wake_stores (d : Dev) : d.wake.stores = d.stores := by rw [Dev.wake_eq]

/-! ### Bytes on their way into the boot image area -/

theorem storeCells_append (l k m : List Host.Cell) : storeCells (l ++ k) m = storeCells k (storeCells l m) :=
  List.foldl_append

/-- Storing bytes puts them on their way, and touches nothing else. -/
theorem Dev.storeBytes_eq (d : Dev) (a : Nat) (l : List Byte) :
    d.storeBytes a l = { d with stores := (d.storeBytes a l).stores } := by
  induction l generalizing d a with
  | nil => rfl
  | cons b t ih =>
    unfold Dev.storeBytes
    rw [ih]

theorem Dev.storeBytes_cons_stores (d : Dev) (a : Nat) (b : Byte) (l : List Byte) :
    (d.storeBytes a (b :: l)).stores = (Dev.storeBytes { d with stores := d.stores ++ [(a, b)] } (a + 1) l).stores := rfl

/-- Outside the range that the bytes are stored to, the boot image area reads as without them. -/
theorem getCell_storeBytes_outside {a x : Nat} {l : List Byte} (hx : x < a ∨ a + l.length ≤ x) (d : Dev) (m : List Host.Cell) :
    getCell x (storeCells (d.storeBytes a l).stores m) = getCell x (storeCells d.stores m) := by
  induction l generalizing d a with
  | nil => rfl
  | cons b t ih =>
    rw [List.length_cons] at hx
    rw [Dev.storeBytes_cons_stores, ih (by omega), storeCells_append]
    exact getCell_putCell_other (by omega)

/-- Each byte that is stored stands at its address. -/
theorem getCell_storeBytes_inside {m : List Host.Cell} (hm : Memory.wf m = true) {l : List Byte} {i : Nat} (h : i < l.length)
    (d : Dev) (a : Nat) : getCell (a + i) (storeCells (d.storeBytes a l).stores m) = l[i] := by
  induction l generalizing d a i with
  | nil => cases h
  | cons b t ih =>
    rw [Dev.storeBytes_cons_stores]
    cases i with
    | zero =>
      rw [Nat.add_zero, getCell_storeBytes_outside (.inl (Nat.lt_succ_self a)), storeCells_append]
      exact getCell_putCell_same (wf_storeCells _ hm)
    | succ i =>
      rw [show a + (i + 1) = a + 1 + i by omega]
      exact ih (Nat.lt_of_succ_lt_succ h) _ _

/-! ### The end of a transfer (R860) -/

/-- The device at the end of transfer `m`, of which `n` bytes have moved. -/
def Dev.moveEnded (d : Dev) (m : MoverRun) (n : Nat) (okay : Bool) : Dev :=
  let d := { d with host := { d.host with
    mover := none, moveDone := okay, moveFail := !okay
    movesrc := BitVec.ofNat 64 (m.src + n), movedst := BitVec.ofNat 64 (m.dst + n)
    moveCount := BitVec.ofNat 32 (m.left - n) } }
  if d.pwr.backstop then { d with pwr := { d.pwr with fastOn := false } } else d

theorem Dev.moveEnded_eq (d : Dev) (m : MoverRun) (n : Nat) (okay : Bool) :
    d.moveEnded m n okay = { d with
      pwr := (d.moveEnded m n okay).pwr
      host := { d.host with
        mover := none, moveDone := okay, moveFail := !okay
        movesrc := BitVec.ofNat 64 (m.src + n), movedst := BitVec.ofNat 64 (m.dst + n)
        moveCount := BitVec.ofNat 32 (m.left - n) } } := by
  unfold Dev.moveEnded
  dsimp only
  split <;> rfl

/-- A transfer into the boot image area of which every byte was read stores them all. -/
theorem exec_moveDone_in {s : State} {m : MoverRun} {data : List Byte} (hm : s.dev.host.mover = some m) (hu : s.dev.units = true)
    (hdir : m.dir = false) (hlen : data.length = m.left) :
    exec (.moveDone data true []) s = s.stored ((s.dev.wake.storeBytes m.dst data).moveEnded m m.left true) := by
  change execMoveDone data true [] s = _
  simp [execMoveDone, hm, hu, hdir, ← hlen, Option.filter, Dev.moveEnded, Dev.each]

/-- A transfer out of the device of which all bytes went out. -/
theorem exec_moveDone_out {s : State} {m : MoverRun} {data : List Byte} {okay : Bool} (hm : s.dev.host.mover = some m)
    (hu : s.dev.units = true) (hdir : m.dir = true) (hall : okay = true ∨ m.left ≤ data.length ∧ m.moved ≤ m.left) :
    exec (.moveDone data okay []) s =
      s.stored ((s.dev.wake.emit (.hostWrite m.dst ((List.range m.left).map fun i => s.dev.wake.windowByte (m.src + i)))).moveEnded
        m m.left okay) := by
  have hn : (if okay then m.left else max m.moved (min m.left data.length)) = m.left := by
    cases okay with
    | true => rfl
    | false =>
      have := hall.resolve_left Bool.false_ne_true
      simp only [Bool.false_eq_true, if_false]
      omega
  change execMoveDone data okay [] s = _
  simp [execMoveDone, hm, hu, hdir, hn, Option.filter, Dev.moveEnded, Dev.each]

/-- Settles O48. The bytes of a transfer into the boot image area stand there once the command ends; one out of the device only
leaves. -/
theorem mover : Obligations.Mover := by
  unfold Obligations.Mover
  intro s
  refine ⟨fun w hw => ⟨if_pos hw, if_pos hw⟩, fun m data hm hu hdir hlen hi => ?into, fun m data okay hm hu hdir hall => ?out⟩
  case into =>
    refine Runs.stored _ (exec_moveDone_in hm hu hdir hlen) ?_
    have hstored : storeCells s.dev.wake.stores s.boot = s.boot := congrArg (storeCells · s.boot) (s.dev.wake_stores.trans hi.2)
    rw [Dev.moveEnded_eq]
    refine ⟨rfl, rfl, rfl, rfl, rfl, by simp, fun i h => getCell_storeBytes_inside hi.1 h _ _, fun x hx => ?_, ?_, ?_⟩
    · exact (getCell_storeBytes_outside hx _ _).trans (congrArg (getCell x) hstored)
    · exact (congrArg Dev.led (Dev.storeBytes_eq ..)).trans s.dev.wake_led
    · exact (congrArg Dev.eng (Dev.storeBytes_eq ..)).trans s.dev.wake_eng
  case out =>
    refine Runs.stored _ (exec_moveDone_out hm hu hdir hall) ?_
    rw [Dev.moveEnded_eq]
    refine ⟨rfl, rfl, rfl, by simp, rfl, fun hs => ?_, s.dev.wake_led⟩
    exact congrArg (storeCells · s.boot) (s.dev.wake_stores.trans hs)

end Sys2Proof.Machine

/-! ## Proofs: commits (chapter 12) -/

namespace Sys2Proof.Machine

/-- A command that answers `s.ok d` completes only with what holds of that state. -/
theorem Runs.of_ok {c : Instr} {s : State} {d : Dev} {P : State → Prop} (hexec : exec c s = s.ok d) (h : Runs c s P) :
    P { s with dev := { d with stores := [] } } := by
  obtain ⟨t, ht, hp⟩ := h
  rw [hexec] at ht
  cases ht
  exact hp

/-- Settles O38. -/
theorem commitSet : Obligations.CommitSet := by
  unfold Obligations.CommitSet
  intro d seq final time hrepair
  refine ⟨_, rfl, rfl, rfl, rfl, rfl, fun id => ?_, rfl, rfl⟩
  simp [hrepair]

/-- COMMIT_COMPLETE of a write that is not a final one ends it. -/
theorem exec_commitComplete {s : State} {w : Commit} (hw : s.dev.led.writing = some w) (hfinal : w.final = false)
    (hu : s.dev.units = true) : exec .commitComplete s = s.ok s.dev.commitDone := by
  change execCommitComplete s = _
  simp [execCommitComplete, hw, hfinal, hu]

/-- A device in service with a commit being written and an ERROR record of region 0 waiting for ring 2, which can take it: the
region's COUNT stands at 1 and its REPORTED at 0. -/
def errorWaits : Dev :=
  { pwr := { step := .ready, backstop := false, fastOn := true }
    host := { accept := 1#64, accepted := 1#64, enable := true, negotiated := true, linkUp := true, fns := ⟨[(0, { bme := true })]⟩ }
    eng := { rings := ⟨[(2, { ty := 2, log2 := 6, state := .started })]⟩ }
    err := { queue := [⟨{ code := 0x0301, cls := 0, region := 0 }, 0, 0, 0, 1, false, 0, 0⟩] }
    led := { writing := some { img := {}, seq := 1, final := false, reason := 0, time := 0, blocks := [] }
             work := { errors := { count := ⟨[(0, 1)]⟩ } } } }

/-- As the commit completes the waiting ERROR record is posted, and REPORTED of its region takes COUNT (R601, R1102). -/
theorem errorWaits_commitDone_reported : errorWaits.commitDone.led.work.errors.reported.get 0 0 = 1 := by decide

/-- Refutes O37: COMMIT_COMPLETE serves what waits, and an ERROR record that it posts to ring 2 sets REPORTED in the working values,
which therefore do not stay. -/
theorem not_commits : ¬ Obligations.Commits := by
  unfold Obligations.Commits
  intro h
  obtain ⟨-, -, hcomplete, -⟩ := h { dev := errorWaits }
  have hu : errorWaits.units = true := by decide
  obtain ⟨-, -, -, hwork, -⟩ :=
    Runs.of_ok (exec_commitComplete (s := { dev := errorWaits }) rfl rfl hu) (hcomplete _ rfl rfl hu)
  have hreported : errorWaits.commitDone.led.work.errors.reported.get 0 0 = 0 :=
    congrArg (fun w : Image => w.errors.reported.get 0 0) hwork
  exact absurd (errorWaits_commitDone_reported.symm.trans hreported) (by decide)

end Sys2Proof.Machine

/-! ## Proofs: what the host side leaves of metering (chapter 16) -/

namespace Sys2Proof.Machine

/-! ### What metering is -/

/-- The device less all but metering: of the ledger the registers, tamper counts and the rest of the working values that are not
errors, counters, key pointers or recovery blocks, and the commit before; the accounts, the pulses, the tariff engine, the sealed
part, the metrology core, and what the config store holds. -/
def Dev.metering (d : Dev) : Dev :=
  { led := {
      work := { d.led.work with errors := {}, counters := {}, keyptr := {}, recovery := {} }
      last := d.led.last, lastSeq := d.led.lastSeq }
    accts := d.accts, pulses := d.pulses, tariff := d.tariff, cal := d.cal, core := d.core
    store := { slots := d.store.slots, keys := d.store.keys, due := d.store.due } }

/-- What changes nothing but what posting may leaves metering. -/
theorem Dev.metering_of_quiet {d e : Dev} (h : d.quiet = e.quiet) : d.metering = e.metering :=
  show d.quiet.metering = e.quiet.metering from congrArg Dev.metering h

/-! ### Errors and what waits -/

@[simp] theorem Dev.wake_metering (d : Dev) : d.wake.metering = d.metering := Dev.metering_of_quiet (by simp)
@[simp] theorem Dev.settle_metering (d : Dev) : d.settle.metering = d.metering := Dev.metering_of_quiet (by simp)
@[simp] theorem Dev.sendMsix_metering (d : Dev) (f v : Nat) : (d.sendMsix f v).metering = d.metering := Dev.metering_of_quiet (by simp)
@[simp] theorem Dev.occur_metering (d : Dev) (f v : Nat) : (d.occur f v).metering = d.metering := Dev.metering_of_quiet (by simp)
@[simp] theorem Dev.emit_metering (d : Dev) (o : Out) : (d.emit o).metering = d.metering := rfl
@[simp] theorem Dev.setFn_metering (d : Dev) (f : Nat) (x : Fn) : (d.setFn f x).metering = d.metering := rfl
@[simp] theorem Dev.updErr_metering (d : Dev) (f : ErrBlk → ErrBlk) : (d.updErr f).metering = d.metering := rfl

theorem Dev.host_metering (d : Dev) (h : HostPort) : ({ d with host := h } : Dev).metering = d.metering := rfl

@[simp] theorem Dev.reported_metering (d : Dev) (region : Nat) : (d.reported region).metering = d.metering := by
  unfold Dev.reported
  split <;> rfl

/-- Before an ERROR record's region is noted as reported, writing it is no more than posting. -/
@[simp] theorem Dev.writeError_metering (d : Dev) (e : ErrRec) (queued : Bool) : (d.writeError e queued).metering = d.metering := by
  have hposted : ∀ d' : Dev, d'.quiet = d.quiet → ((d'.occur 0 2).reported e.err.region).metering = d.metering := fun d' h => by
    rw [Dev.reported_metering, Dev.occur_metering, Dev.metering_of_quiet h]
  unfold Dev.writeError
  dsimp only
  split
  · exact hposted _ (by simp)
  · exact hposted _ (by simp)

@[simp] theorem Dev.drainErrors_metering (n : Nat) (d : Dev) : (d.drainErrors n).metering = d.metering := by
  induction n generalizing d with
  | zero => rfl
  | succ n ih =>
    unfold Dev.drainErrors
    split
    · rfl
    · split
      · exact (ih _).trans (Dev.writeError_metering ..)
      · rfl

@[simp] theorem Dev.drainOwed_quiet (n c : Nat) (d : Dev) : (d.drainOwed c n).quiet = d.quiet := by
  induction n generalizing d with
  | zero => rfl
  | succ n ih =>
    unfold Dev.drainOwed
    split
    · rfl
    · split
      · rw [ih]
        simp
      · rfl

@[simp] theorem Dev.drainLate_metering (n r : Nat) (d : Dev) : (d.drainLate r n).metering = d.metering := by
  induction n generalizing d with
  | zero => rfl
  | succ n ih =>
    unfold Dev.drainLate
    dsimp only
    split
    · rfl
    · split
      · exact (ih _).trans (Dev.metering_of_quiet (d := Dev.writeRec _ _ _) (by simp))
      · rfl

@[simp] theorem Dev.serveFilled_metering (d : Dev) (r : Nat) : (d.serveFilled r).metering = d.metering := by
  have hfilled : ∀ (d : Dev) (n m : Nat), ((d.drainOwed r n).drainHeld r m).metering = d.metering :=
    fun d n m => Dev.metering_of_quiet (by simp)
  unfold Dev.serveFilled
  dsimp only
  split <;> simp [hfilled]

@[simp] theorem Dev.serveAll_metering (d : Dev) : d.serveAll.metering = d.metering := by
  simp [Dev.serveAll, Dev.each_keeps Dev.metering]

@[simp] theorem Dev.sendPending_quiet (d : Dev) : d.sendPending.quiet = d.quiet := by
  refine Dev.each_keeps Dev.quiet (fun d p => Dev.each_keeps Dev.quiet (fun d v => ?_) _ d) _ d
  split <;> simp

@[simp] theorem Dev.masteringChanged_metering (d : Dev) : d.masteringChanged.metering = d.metering := by
  have hsent := Dev.metering_of_quiet d.sendPending_quiet
  unfold Dev.masteringChanged
  dsimp only
  split <;> simp [hsent]

/-! ### Backstop and resets -/

/-- VOLT_B ends with Converter A serving again, which changes no account. -/
@[simp] theorem Dev.endTest_metering (d : Dev) : d.endTest.metering = d.metering := by
  unfold Dev.endTest
  dsimp only
  split
  · rfl
  · split
    · rfl
    · split
      · split
        · next h =>
          have hB : d.volt.serving = 1 := (by simpa using h : d.volt.healthA.good = true ∧ d.volt.serving = 1).2
          simp only [Dev.serve, hB, Dev.refreshFrame]
          rfl
        · rfl
      · rfl

@[simp] theorem Dev.abandonOf_metering (d : Dev) (own : Nat → Bool) : (d.abandonOf own).metering = d.metering := by
  have hended : (match d.test with
      | some t => if own t.cmd.ring then d.endTest else d
      | none => d).metering = d.metering := by
    split
    · split <;> simp
    · rfl
  exact hended

@[simp] theorem Dev.leaveDoze_metering (d : Dev) : d.leaveDoze.metering = d.metering := Dev.metering_of_quiet (by simp)

theorem Dev.lineApply_metering (d : Dev) : d.lineApply.metering = d.metering := by
  unfold Dev.lineApply
  dsimp only
  (repeat' split) <;> rfl

theorem Dev.lineOff_metering (d : Dev) (soft : Bool) : (d.lineOff soft).metering = d.metering := by
  change d.lineReceiveStop.metering = d.metering
  unfold Dev.lineReceiveStop
  dsimp only
  rw [Dev.lineApply_metering]
  split <;> rfl

@[simp] theorem Dev.enterBackstop_metering (d : Dev) (cause : Nat) (soft : Bool) : (d.enterBackstop cause soft).metering = d.metering := by
  have hoff : (((d.abandonOf fun _ => true).dropErrors).lineOff soft).metering = d.metering :=
    (Dev.lineOff_metering (d.abandonOf fun _ => true).dropErrors soft).trans
      (show (d.abandonOf fun _ => true).metering = d.metering from Dev.abandonOf_metering d _)
  unfold Dev.enterBackstop
  dsimp only [Dev.when]
  split
  · rw [Dev.leaveDoze_metering]
    exact hoff
  · exact hoff

@[simp] theorem Dev.storeBytes_metering (d : Dev) (a : Nat) (l : List Byte) : (d.storeBytes a l).metering = d.metering := by
  rw [Dev.storeBytes_eq]
  rfl

@[simp] theorem Dev.softReset_metering (d : Dev) (flr : Bool) : (d.softReset flr).metering = d.metering :=
  (Dev.storeBytes_metering ..).trans (Dev.enterBackstop_metering ..)

@[simp] theorem Dev.resetVf_metering (d : Dev) (t : Nat) : (d.resetVf t).metering = d.metering := by
  unfold Dev.resetVf
  dsimp only
  rw [Dev.settle_metering]
  refine Eq.trans (Dev.each_keeps Dev.metering (fun d r => ?_) _ _) (Dev.abandonOf_metering ..)
  exact Dev.metering_of_quiet (by simp)

/-! ### Register writes -/

@[simp] theorem Dev.writeCause_quiet (d : Dev) (f : Nat) (w : RegVal) : (d.writeCause f w).quiet = d.quiet := by
  unfold Dev.writeCause
  refine Eq.trans (Dev.each_keeps Dev.quiet (fun d v => ?_) _ _) rfl
  (repeat' split) <;> simp

@[simp] theorem Dev.writeCause_metering (d : Dev) (f : Nat) (w : RegVal) : (d.writeCause f w).metering = d.metering :=
  Dev.metering_of_quiet (by simp)

@[simp] theorem Dev.judgeGo_metering (d : Dev) : d.judgeGo.metering = d.metering := by
  unfold Dev.judgeGo
  (repeat' split)
  · rfl
  · rfl
  · exact Dev.occur_metering ..

@[simp] theorem Dev.controlTriggers_metering (d : Dev) (w : RegVal) : (d.controlTriggers w).metering = d.metering := by
  unfold Dev.controlTriggers
  (repeat' split)
  · simp
  · simp
  · rfl
  · rfl

@[simp] theorem Dev.controlWritten_quiet (d : Dev) (p : Path) : (d.controlWritten p).quiet = d.quiet := by
  unfold Dev.controlWritten
  dsimp only
  split <;> simp

@[simp] theorem Dev.writeControl_metering (d : Dev) (w : RegVal) : (d.writeControl w).metering = d.metering := by
  unfold Dev.writeControl
  dsimp only
  rw [Dev.controlTriggers_metering, Dev.masteringChanged_metering, Dev.metering_of_quiet (Dev.controlWritten_quiet ..)]
  exact d.wake_metering

theorem Dev.freeRange_metering (d : Dev) (a n : Nat) : (d.freeRange a n).metering = d.metering :=
  Dev.each_keeps Dev.metering (fun d _ => Dev.storeBytes_metering d.draw.1 ..) _ _

theorem Dev.moverDrop_metering (d : Dev) : d.moverDrop.metering = d.metering := by
  unfold Dev.moverDrop
  dsimp only
  (repeat' split)
  · rfl
  · rfl
  · exact Dev.freeRange_metering ..

theorem Dev.moverGo_metering (d : Dev) : d.moverGo.metering = d.metering := by
  unfold Dev.moverGo
  split
  · rfl
  · simp only [apply_ite Dev.metering, Dev.wake_metering]
    exact ite_self _

@[simp] theorem Dev.writeMovectl_metering (d : Dev) (w : RegVal) : (d.writeMovectl w).metering = d.metering := by
  simp only [Dev.writeMovectl, apply_ite Dev.metering, Dev.moverGo_metering, Dev.moverDrop_metering, Dev.host_metering, ite_self]

@[simp] theorem Dev.registerWrite_metering (d : Dev) (off : Nat) (w : RegVal) : (d.registerWrite off w).metering = d.metering := by
  unfold Dev.registerWrite
  (repeat' split) <;> simp [Dev.host_metering]

@[simp] theorem Dev.moverLook_metering (d : Dev) : d.moverLook.metering = d.metering := by
  unfold Dev.moverLook
  split <;> rfl

/-! ### The events of the host side -/

/-- An outcome that leaves metering. -/
def KeepsMetering (s : State) (o : Host.Outcome State Fault Refusal) : Prop :=
  ∃ d : Dev, (o = s.ok d ∨ o = s.stored d) ∧ d.metering = s.dev.metering

theorem KeepsMetering.ok {s : State} {d : Dev} (h : d.metering = s.dev.metering) : KeepsMetering s (s.ok d) := ⟨d, .inl rfl, h⟩
theorem KeepsMetering.stored {s : State} {d : Dev} (h : d.metering = s.dev.metering) : KeepsMetering s (s.stored d) :=
  ⟨d, .inr rfl, h⟩

theorem KeepsMetering.runs {c : Instr} {s : State} {P : State → Prop} (h : KeepsMetering s (exec c s))
    (hp : ∀ u : State, u.dev.metering = s.dev.metering → P u) : Runs c s P := by
  obtain ⟨d, hd | hd, hm⟩ := h
  · exact Runs.ok d hd (hp _ hm)
  · exact Runs.stored d hd (hp _ hm)

section
variable (s : State)

theorem execGo_metering (w : RegVal) : KeepsMetering s (execGo w s) := by
  unfold execGo
  dsimp only
  split <;> exact .stored (by simp)

theorem execSoftReset_metering (w : RegVal) : KeepsMetering s (execSoftReset w s) := by
  unfold execSoftReset
  dsimp only
  split <;> exact .stored (by simp)

theorem execCauseW1c_metering (w : RegVal) : KeepsMetering s (execCauseW1c w s) := by
  unfold execCauseW1c
  dsimp only
  (repeat' split) <;> exact .ok (by simp)

theorem execRegisterWrite_metering (off : Nat) (b : Bool) (w : RegVal) : KeepsMetering s (execRegisterWrite off b w s) := by
  unfold execRegisterWrite
  dsimp only
  (repeat' split) <;> exact .stored (by simp)

theorem execRegisterRead_metering (f : Nat) (a : HostAccess) : KeepsMetering s (execRegisterRead f a s) := by
  unfold execRegisterRead
  dsimp only
  split
  · exact .ok rfl
  · split
    case h_1 => (repeat' split) <;> exact .ok (by simp)
    case h_2 => split <;> exact .ok (by simp)
    case h_3 =>
      refine .ok ?_
      simp only [apply_ite Dev.metering, Dev.host_metering, Dev.wake_metering, Dev.emit_metering, ite_self]

theorem execMsixHoldoff_metering (f v : Nat) : KeepsMetering s (execMsixHoldoff f v s) := by
  unfold execMsixHoldoff
  dsimp only
  split <;> exact .ok (by simp)

theorem execMsixUnmask_metering (f : Nat) (en fm : Bool) (v : BitVec 4) : KeepsMetering s (execMsixUnmask f en fm v s) := by
  unfold execMsixUnmask
  dsimp only
  split
  · refine .ok ((Dev.each_keeps Dev.metering (fun d v => ?_) _ _).trans s.dev.wake_metering)
    split <;> simp
  · exact .ok rfl

theorem execHostPortDown_metering : KeepsMetering s (execHostPortDown s) := by
  unfold execHostPortDown
  dsimp only
  split <;> exact .ok rfl

theorem execHostPortFail_metering : KeepsMetering s (execHostPortFail s) := by
  unfold execHostPortFail
  dsimp only
  split <;> exact .ok (by simp)

theorem execHostPortUp_metering : KeepsMetering s (execHostPortUp s) := by
  unfold execHostPortUp
  dsimp only
  split <;> exact .ok rfl

theorem execPfFlr_metering : KeepsMetering s (execPfFlr s) := by
  unfold execPfFlr
  dsimp only
  split
  · exact .stored ((Dev.softReset_metering _ true).trans s.dev.wake_metering)
  · exact .stored rfl

theorem execVfFlr_metering (t : Fin 64) : KeepsMetering s (execVfFlr t s) := by
  unfold execVfFlr
  dsimp only
  split <;> exact .ok (by simp)

theorem execVfFlrDone_metering (t : Fin 64) : KeepsMetering s (execVfFlrDone t s) := by
  unfold execVfFlrDone
  dsimp only
  (repeat' split)
  · refine .ok ((Dev.settle_metering _).trans (Dev.each_keeps Dev.metering (fun d r => ?_) _ _))
    exact Dev.metering_of_quiet (by simp)
  · exact .ok rfl
  · exact .ok rfl

theorem execVfEnable_metering (n : Fin 65) (on ari : Bool) : KeepsMetering s (execVfEnable n on ari s) := by
  unfold execVfEnable
  dsimp only
  split
  · exact .ok ((Dev.each_keeps Dev.metering (fun d t => d.resetVf_metering t) _ _).trans s.dev.wake_metering)
  · exact .ok rfl

theorem execBusMasterEnable_metering (f : Nat) (on : Bool) : KeepsMetering s (execBusMasterEnable f on s) := by
  unfold execBusMasterEnable
  dsimp only
  split <;> exact .ok (by simp)

theorem execD3hot_metering (on : Bool) : KeepsMetering s (execD3hot on s) := by
  unfold execD3hot
  dsimp only
  split
  · exact .ok ((Dev.masteringChanged_metering _).trans (Dev.wake_metering _))
  · exact .ok rfl

end

/-- Settles O47. Each event of the host side leaves metering whole, and so each part of it. -/
theorem hostEventsKeepMetering : Obligations.HostEventsKeepMetering := by
  unfold Obligations.HostEventsKeepMetering
  intro s w off b en fm ari f a v n t c hc
  have hkeeps : KeepsMetering s (exec c s) := by
    simp only [List.mem_cons, List.not_mem_nil, or_false] at hc
    rcases hc with rfl | rfl | rfl | rfl | rfl | rfl | rfl | rfl | rfl | rfl | rfl | rfl | rfl | rfl | rfl | rfl
    · exact execGo_metering s w
    · exact execSoftReset_metering s w
    · exact execCauseW1c_metering s w
    · exact execRegisterWrite_metering s off b w
    · exact execRegisterRead_metering s f a
    · exact execMsixHoldoff_metering s f off
    · exact execMsixUnmask_metering s f en fm v
    · exact execHostPortDown_metering s
    · exact execHostPortFail_metering s
    · exact execHostPortUp_metering s
    · exact execPfFlr_metering s
    · exact execVfFlr_metering s t
    · exact execVfFlrDone_metering s t
    · exact execVfEnable_metering s n b ari
    · exact execBusMasterEnable_metering s f b
    · exact execD3hot_metering s b
  refine hkeeps.runs fun u hu => ?_
  have hled := congrArg Dev.led hu
  have hwork := congrArg Ledger.work hled
  have hstore := congrArg Dev.store hu
  exact ⟨(congrArg Image.legal hwork :), (congrArg Image.opens hwork :), (congrArg Image.pulse hwork :),
    (congrArg Image.tamper hwork :), (congrArg Image.device hwork :), (congrArg Image.sealBlk hwork :),
    (congrArg Ledger.last hled :), (congrArg Ledger.lastSeq hled :), (congrArg Dev.accts hu :), (congrArg Dev.pulses hu :),
    (congrArg Dev.tariff hu :), (congrArg Dev.cal hu :), (congrArg Dev.core hu :), (congrArg ConfigStore.slots hstore :),
    (congrArg ConfigStore.keys hstore :), (congrArg ConfigStore.due hstore :)⟩

end Sys2Proof.Machine

/-! ## Proofs: what errors and accounts leave (chapters 7, 8, 11, 23) -/

namespace Sys2Proof.Machine

/-- The device less what posting may change and what errors and the accounts keep: the error unit, the accounts at run time, the pulse
outputs and the working values of the ledger. -/
def Dev.still (d : Dev) : Dev := { d.quiet with err := {}, accts := {}, pulses := {}, led := { d.led with work := {} } }

theorem Dev.still_of_quiet {d e : Dev} (h : d.quiet = e.quiet) : d.still = e.still :=
  congrArg (fun q : Dev => { q with err := {}, accts := {}, pulses := {}, led := { q.led with work := {} } }) h

/-! ### Errors -/

@[simp] theorem Dev.post_still (d : Dev) (b : RecBody) : (d.post b).still = d.still := Dev.still_of_quiet (by simp)
@[simp] theorem Dev.wake_still (d : Dev) : d.wake.still = d.still := Dev.still_of_quiet (by simp)
@[simp] theorem Dev.occur_still (d : Dev) (f v : Nat) : (d.occur f v).still = d.still := Dev.still_of_quiet (by simp)
@[simp] theorem Dev.emit_still (d : Dev) (o : Out) : (d.emit o).still = d.still := rfl
@[simp] theorem Dev.updErr_still (d : Dev) (f : ErrBlk → ErrBlk) : (d.updErr f).still = d.still := rfl
@[simp] theorem Dev.tunnelRecord_still (d : Dev) (b : RecBody) (t : Option Nat) : (d.tunnelRecord b t).still = d.still :=
  Dev.still_of_quiet (by simp)
theorem Dev.err_still (d : Dev) (e : ErrorUnit) : ({ d with err := e } : Dev).still = d.still := rfl

@[simp] theorem Dev.reported_still (d : Dev) (region : Nat) : (d.reported region).still = d.still := by
  unfold Dev.reported
  split <;> rfl

@[simp] theorem Dev.writeError_still (d : Dev) (e : ErrRec) (queued : Bool) : (d.writeError e queued).still = d.still := by
  have hposted : ∀ d' : Dev, d'.quiet = d.quiet → ((d'.occur 0 2).reported e.err.region).still = d.still := fun d' h => by
    rw [Dev.reported_still, Dev.occur_still, Dev.still_of_quiet h]
  unfold Dev.writeError
  dsimp only
  split <;> exact hposted _ (by simp)

@[simp] theorem Dev.deliverError_still (d : Dev) (e : ErrRec) : (d.deliverError e).still = d.still := by
  unfold Dev.deliverError
  dsimp only
  simp only [apply_ite Dev.still, Dev.err_still, Dev.reported_still, Dev.tunnelRecord_still, Dev.writeError_still, Dev.occur_still,
    ite_self]

@[simp] theorem Dev.closeSlot_still (d : Dev) (escalated : Bool) : (d.closeSlot escalated).still = d.still := by
  unfold Dev.closeSlot
  dsimp only
  split
  · rfl
  · exact Dev.deliverError_still ..

@[simp] theorem Dev.closeExpired_still (d : Dev) : d.closeExpired.still = d.still := by
  unfold Dev.closeExpired
  split
  · split <;> simp
  · rfl

/-- The device once an error is counted in its region and in the totals of its class. -/
def Dev.counted (d : Dev) (e : Err) : Dev :=
  let d := if e.region < 16 then
    d.updErr fun b => { b with count := b.count.upd e.region 0 fun n => sat32 (n + 1) } else d
  { d with err := { d.err with totals := d.err.totals.upd e.cls 0 fun n => sat32 (n + 1) } }

/-- The device once the slot at hand has taken an error, folded it, or given way to it. -/
def Dev.slotted (d : Dev) (e : Err) (rc : Nat) : Dev :=
  match d.err.slot with
  | none => { d with err := { d.err with slot := some { err := e, time := d.now, since := d.up, regionCount := rc } } }
  | some s =>
    if s.err.cls ≥ e.cls then
      { d with err := { d.err with slot := some { s with
        follow := sat32 (s.follow + 1), followCode := if s.follow = 0 then e.code else s.followCode } } }
    else
      let d := d.closeSlot true
      { d with err := { d.err with slot := some { err := e, time := d.now, since := d.up, regionCount := rc } } }

theorem Dev.handleError_eq (d : Dev) (e : Err) :
    d.handleError e =
      if (d.counted e).errRuns && !(d.counted e).err.fatalOpen then
        (d.counted e).wake.closeExpired.slotted e
          (if e.region < 16 then (d.counted e).led.work.errors.count.get e.region 0 else 0)
      else if e.region < 16 then d.counted e
      else (d.counted e).updErr fun b => b.countClass e := rfl

@[simp] theorem Dev.counted_still (d : Dev) (e : Err) : (d.counted e).still = d.still := by
  unfold Dev.counted
  dsimp only
  split <;> rfl

@[simp] theorem Dev.slotted_still (d : Dev) (e : Err) (rc : Nat) : (d.slotted e rc).still = d.still := by
  unfold Dev.slotted
  split
  · rfl
  · split
    · rfl
    · exact d.closeSlot_still true

@[simp] theorem Dev.handleError_still (d : Dev) (e : Err) : (d.handleError e).still = d.still := by
  rw [Dev.handleError_eq]
  (repeat' split) <;> simp

@[simp] theorem Dev.raise_still (d : Dev) (e : Err) : (d.raise e).still = d.still := by
  unfold Dev.raise
  split
  · rfl
  · exact Dev.handleError_still ..

@[simp] theorem Dev.raiseFatal_still (d : Dev) (e : Err) (cause : Nat) : (d.raiseFatal e cause).still = d.still := by
  have hlatch : ∀ d : Dev, (d.latchFatal e cause).still = d.still := fun _ => rfl
  unfold Dev.raiseFatal
  rw [hlatch]
  split <;> simp

/-! ### Energies and pulses -/

@[simp] theorem Dev.updLegal_still (d : Dev) (a : Nat) (f : Legal → Legal) : (d.updLegal a f).still = d.still := rfl
@[simp] theorem Dev.updOpen_still (d : Dev) (a : Nat) (f : OpenBlk → OpenBlk) : (d.updOpen a f).still = d.still := rfl
@[simp] theorem Dev.updPulse_still (d : Dev) (o : Nat) (f : Pulse → Pulse) : (d.updPulse o f).still = d.still := rfl
@[simp] theorem Dev.setPulseBlk_still (d : Dev) (f : PulseBlk → PulseBlk) : (d.setPulseBlk f).still = d.still := rfl
@[simp] theorem Dev.setPending_still (d : Dev) (o n : Nat) : (d.setPending o n).still = d.still := rfl
@[simp] theorem Dev.updPair_still (d : Dev) (a k : Nat) (f : PairRun → PairRun) : (d.updPair a k f).still = d.still := rfl
@[simp] theorem Dev.pulseStart_still (d : Dev) (o t : Nat) : (d.pulseStart o t).still = d.still := rfl
@[simp] theorem Dev.pulseStop_still (d : Dev) (o t : Nat) : (d.pulseStop o t).still = d.still := rfl
theorem Dev.accts_still (d : Dev) (a : Tbl Acct) : ({ d with accts := a } : Dev).still = d.still := rfl

@[simp] theorem Dev.postPulse_still (d : Dev) (event : Nat) (fs : List Fld) (len : Nat) :
    (d.postPulse event fs len).still = d.still := Dev.post_still ..

@[simp] theorem Dev.pulseWait_still (d : Dev) (o : Nat) : (d.pulseWait o).still = d.still := by
  unfold Dev.pulseWait
  dsimp only
  (repeat' split) <;> simp

@[simp] theorem Dev.pulseDue_still (d : Dev) (o t : Nat) (whole : Bool) : (d.pulseDue o t whole).still = d.still := by
  unfold Dev.pulseDue
  dsimp only
  (repeat' split) <;> simp

@[simp] theorem Dev.pulseSpread_still (o : Nat) (a g p : Int) (whole : Nat → Bool) (n i : Nat) (d : Dev) :
    (d.pulseSpread o a g p whole n i).still = d.still := by
  induction n generalizing d i with
  | zero => rfl
  | succ n ih => simp [Dev.pulseSpread, ih]

@[simp] theorem Dev.feedPulses_still (d : Dev) (a r e : Nat) : (d.feedPulses a r e).still = d.still := by
  refine Dev.each_keeps Dev.still (fun d o => ?_) _ _
  dsimp only [Dev.pulseAdd]
  (repeat' split) <;> simp

@[simp] theorem Dev.fileRate_still (d : Dev) (a dir e : Nat) : (d.fileRate a dir e).still = d.still := by
  unfold Dev.fileRate
  dsimp only
  split <;> rfl

@[simp] theorem Dev.fileAll_still (d : Dev) (a : Nat) (l : List (Nat × Nat)) : (d.fileAll a l).still = d.still := by
  refine Dev.each_keeps Dev.still (fun d x => ?_) _ _
  dsimp only [Dev.fileEnergy, Dev.addLegal]
  split <;> simp

@[simp] theorem Dev.release_still (d : Dev) (a k : Nat) : (d.release a k).still = d.still := by
  unfold Dev.release Dev.fileRelease
  dsimp only
  split <;> simp

@[simp] theorem Dev.releaseAll_still (d : Dev) (a : Nat) : (d.releaseAll a).still = d.still :=
  Dev.each_keeps Dev.still (fun d k => d.release_still a k) _ _

/-! ### States and unmetered time of accounts -/

@[simp] theorem Dev.touch_still (d : Dev) (a : Nat) : (d.touch a).still = d.still := rfl

@[simp] theorem Dev.takeState_still (d : Dev) (a : Nat) : (d.takeState a).1.still = d.still := by
  unfold Dev.takeState
  dsimp only
  (repeat' split) <;> rfl

@[simp] theorem Dev.rejudge_still (d : Dev) (a : Nat) : (d.rejudge a).still = d.still := by
  unfold Dev.rejudge
  dsimp only
  split <;> simp

@[simp] theorem Dev.countUnmetered_still (d : Dev) (a : Nat) : (d.countUnmetered a).still = d.still := by
  unfold Dev.countUnmetered
  split <;> rfl

@[simp] theorem Dev.judgeUnmetered_still (d : Dev) (a : Nat) : (d.judgeUnmetered a).still = d.still := by
  unfold Dev.judgeUnmetered
  split
  · exact Dev.countUnmetered_still ..
  · split <;> rfl

@[simp] theorem Dev.eachPair_still (d : Dev) (a : Nat) (ks : List Nat) (f : Dev → PairRun → PairRun) :
    (d.each ks fun d k => d.updPair a k (f d)).still = d.still :=
  Dev.each_keeps Dev.still (fun d k => d.updPair_still a k (f d)) _ _

@[simp] theorem Dev.closeLost_still (d : Dev) (a : Nat) (ks : List Nat) : (d.closeLost a ks).still = d.still := by
  simp [Dev.closeLost]

@[simp] theorem Dev.channelsLost_still (d : Dev) (cs : List Nat) (since : Nat) : (d.channelsLost cs since).still = d.still := by
  refine Dev.each_keeps Dev.still (fun d a => ?_) _ _
  dsimp only
  split
  · rfl
  · rw [Dev.rejudge_still, Dev.judgeUnmetered_still]
    refine Dev.each_keeps Dev.still (fun d k => ?_) _ _
    rw [Dev.updPair_still]
    split <;> simp

@[simp] theorem Dev.channelsBack_still (d : Dev) (cs : List Nat) : (d.channelsBack cs).still = d.still := by
  refine Dev.each_keeps Dev.still (fun d a => ?_) _ _
  dsimp only
  split <;> simp

@[simp] theorem Dev.voltagesGone_still (d : Dev) : d.voltagesGone.still = d.still := by
  refine Dev.each_keeps Dev.still (fun d a => ?_) _ _
  dsimp only
  split <;> simp

@[simp] theorem Dev.voltagesBack_still (d : Dev) : d.voltagesBack.still = d.still := by
  refine Dev.each_keeps Dev.still (fun d a => ?_) _ _
  dsimp only
  split <;> simp

end Sys2Proof.Machine

/-! ## Proofs: voltage converters and the Umpire (chapter 5) -/

namespace Sys2Proof.Machine

/-! ### Judging a test (Table 5.5) -/

theorem testFails_iff (c : Nat) (z v : Reading) : testFails c z v = true ↔
    (200 * z.den : Int) < |z.num| ∨ (4 * (storedVchk c * v.den) : Int) < |v.num - storedVchk c * v.den| * 10000 := by
  simp [testFails]

/-- Settles O18. Each row of Table 5.5 is a case of the two converters' results. -/
theorem testOutcomes : Obligations.TestOutcomes := by
  unfold Obligations.TestOutcomes
  refine ⟨testFails_iff, fun d x => ⟨fun hdrift => ?_, fun hdrift => ⟨fun hA hB => ?_, fun hA hB hgood => ?_,
    fun hA hB hstays => ?_, fun hA hB => ?_⟩⟩⟩
  · simp [Dev.testOutcome, hdrift]
  all_goals simp [Dev.testOutcome, *]

/-! ### What a change of converter leaves -/

theorem Dev.volt_of_still {d e : Dev} (h : d.still = e.still) : d.volt = e.volt :=
  show d.still.volt = e.still.volt from congrArg Dev.volt h

theorem Dev.volt_of_quiet {d e : Dev} (h : d.quiet = e.quiet) : d.volt = e.volt := Dev.volt_of_still (Dev.still_of_quiet h)

@[simp] theorem Dev.post_volt (d : Dev) (b : RecBody) : (d.post b).volt = d.volt := Dev.volt_of_still (by simp)
@[simp] theorem Dev.postUmpire_volt (d : Dev) (event : Nat) (fs : List Fld) : (d.postUmpire event fs).volt = d.volt := Dev.post_volt ..
@[simp] theorem Dev.raise_volt (d : Dev) (e : Err) : (d.raise e).volt = d.volt := Dev.volt_of_still (by simp)
@[simp] theorem Dev.raiseFatal_volt (d : Dev) (e : Err) (cause : Nat) : (d.raiseFatal e cause).volt = d.volt :=
  Dev.volt_of_still (by simp)
@[simp] theorem Dev.done_volt (d : Dev) (c : CmdRef) (st : Nat) : (d.done c st).volt = d.volt := Dev.volt_of_quiet (by simp)
@[simp] theorem Dev.doneWith_volt (d : Dev) (c : CmdRef) (v : Nat) (b : Bool) : (d.doneWith c v b).volt = d.volt :=
  Dev.volt_of_quiet (by simp)
@[simp] theorem Dev.output_volt (d : Dev) (x : Desc) (bs : List Byte) : (d.output x bs).volt = d.volt := Dev.volt_of_quiet (by simp)
@[simp] theorem Dev.voltagesGone_volt (d : Dev) : d.voltagesGone.volt = d.volt := Dev.volt_of_still (by simp)
@[simp] theorem Dev.voltagesBack_volt (d : Dev) : d.voltagesBack.volt = d.volt := Dev.volt_of_still (by simp)

@[simp] theorem Dev.outcomeError_volt (d : Dev) (outcome : Nat) (fs : List Fld) : (d.outcomeError outcome fs).volt = d.volt := by
  unfold Dev.outcomeError
  dsimp only
  split <;> simp

@[simp] theorem Dev.lineApply_volt (d : Dev) : d.lineApply.volt = d.volt := by
  unfold Dev.lineApply
  dsimp only
  split <;> rfl

@[simp] theorem Dev.lineReceiveStop_volt (d : Dev) : d.lineReceiveStop.volt = d.volt := by
  unfold Dev.lineReceiveStop
  dsimp only
  rw [Dev.lineApply_volt]
  split <;> rfl

@[simp] theorem Dev.auxAnswer_volt (d : Dev) (xs : List Desc) (aborted : Bool) : (d.auxAnswer xs aborted).volt = d.volt := by
  refine Dev.each_keeps Dev.volt (fun d x => ?_) _ _
  dsimp only
  split <;> simp

@[simp] theorem Dev.auxHalt_volt (d : Dev) : d.auxHalt.volt = d.volt := by
  have habort : (d.auxAbort false).volt = d.volt := by
    unfold Dev.auxAbort
    split
    · rfl
    · exact Dev.auxAnswer_volt ..
  exact (Dev.auxAnswer_volt ..).trans habort

/-- Which converter serves, with what restarts as that changes. -/
theorem Dev.serve_volt (d : Dev) (sv : Nat) :
    (d.serve sv).volt = { d.volt with
      serving := (d.serve sv).volt.serving, vchkRun := (d.serve sv).volt.vchkRun, watchAt := (d.serve sv).volt.watchAt
      checks := (d.serve sv).volt.checks } := by
  unfold Dev.serve
  dsimp only
  split
  · rfl
  · (repeat' split) <;> simp

/-- The readings of VCHK for the watch start anew as another converter serves. -/
theorem Dev.serve_checks (d : Dev) (sv : Nat) :
    (d.serve sv).volt.checks = d.volt.checks ∨ (d.serve sv).volt.checks = d.volt.checks.erase 8 := by
  unfold Dev.serve
  dsimp only
  split
  · exact .inl rfl
  · right
    (repeat' split) <;> simp

@[simp] theorem Dev.serve_healthA (d : Dev) (sv : Nat) : (d.serve sv).volt.healthA = d.volt.healthA := by rw [Dev.serve_volt]
@[simp] theorem Dev.serve_healthB (d : Dev) (sv : Nat) : (d.serve sv).volt.healthB = d.volt.healthB := by rw [Dev.serve_volt]
@[simp] theorem Dev.serve_test (d : Dev) (sv : Nat) : (d.serve sv).volt.test = d.volt.test := by rw [Dev.serve_volt]
@[simp] theorem Dev.serve_persist (d : Dev) (sv : Nat) : (d.serve sv).volt.persist = d.volt.persist := by rw [Dev.serve_volt]

@[simp] theorem Dev.serve_health (d : Dev) (sv c : Nat) : (d.serve sv).health c = d.health c := by simp [Dev.health]
@[simp] theorem Dev.postUmpire_health (d : Dev) (event : Nat) (fs : List Fld) (c : Nat) :
    (d.postUmpire event fs).health c = d.health c := by simp [Dev.health]
@[simp] theorem Dev.refreshFrame_health (d : Dev) (c : Nat) : d.refreshFrame.health c = d.health c := rfl
@[simp] theorem Dev.outcomeError_health (d : Dev) (outcome : Nat) (fs : List Fld) (c : Nat) :
    (d.outcomeError outcome fs).health c = d.health c := by simp [Dev.health]
@[simp] theorem Dev.chooseServing_health (d : Dev) (c : Nat) : d.chooseServing.health c = d.health c := Dev.serve_health ..

/-- The health of a converter is what it is set to. -/
@[simp] theorem Dev.setHealth_health (d : Dev) (c : Nat) (h : Conv) : (d.setHealth c h).health c = h := by
  unfold Dev.health Dev.setHealth
  split <;> simp

theorem Dev.setHealth_health_other (d : Dev) {c x : Nat} (hx : (x = 0) ≠ (c = 0)) (h : Conv) :
    (d.setHealth c h).health x = d.health x := by
  unfold Dev.health Dev.setHealth
  by_cases hc : c = 0 <;> by_cases hx0 : x = 0 <;> simp_all

/-- A converter that returns to service is good, with its run of passes at 0. -/
theorem Dev.restoreConv_health (d : Dev) (c : Nat) :
    (d.restoreConv c).health c = { d.health c with good := true, passes := 0, retesting := false } := by
  unfold Dev.restoreConv
  dsimp only
  rw [Dev.refreshFrame_health, Dev.postUmpire_health]
  split <;> simp

/-- A return of Converter A leaves Converter B's health. -/
theorem Dev.restoreConv_healthB (d : Dev) : (d.restoreConv 0).health 1 = d.health 1 := by
  simp [Dev.restoreConv, Dev.setHealth_health_other]

/-- A converter in service that fails is good no more. -/
theorem Dev.failConv_good (d : Dev) (c : Nat) : ((d.failConv c).health c).good = false := by
  unfold Dev.failConv
  dsimp only
  split
  · next h => simpa using h
  · have hstop : ∀ e : Dev, e.lineReceiveStop.health c = e.health c := fun e => by simp [Dev.health]
    have hhalt : ∀ e : Dev, e.auxHalt.health c = e.health c := fun e => by simp [Dev.health]
    split <;> simp [hstop, hhalt]

/-! ### The ends of tests -/

/-- A pass of the power-up test clears the test and chooses the converter, and raises nothing. -/
theorem Dev.applyOutcome_pass (d : Dev) (fs : List Fld) :
    d.applyOutcome 1 0 fs =
      ((d.postUmpire 0x02 fs).setVolt { (d.postUmpire 0x02 fs).volt with
        test := none, checks := {}, persist := 0, rms := [], run := { (d.postUmpire 0x02 fs).volt.run with bad := true }
        chkDrift := (d.postUmpire 0x02 fs).volt.chkDrift || false }).chooseServing.refreshFrame := rfl

/-- Settles O19. -/
theorem converterTestsEnd : Obligations.ConverterTestsEnd := by
  unfold Obligations.ConverterTestsEnd
  intro s t ht
  refine ⟨fun hu hk hend => ?powerUp, fun hrun hk hend => ?reference, fun fs => ?pass⟩
  case powerUp =>
    unfold exec execPowerUpTestEnd
    dsimp only
    rw [ht]
    exact if_pos (by simp [hu, hk, hend])
  case reference =>
    unfold exec execReferenceTestEnd
    dsimp only
    rw [ht]
    exact if_pos (by simp [hrun, hk, hend])
  case pass =>
    rw [Dev.applyOutcome_pass]
    refine ⟨Dev.serve_test .., Dev.serve_persist .., ?_, (Dev.serve_healthA ..).trans ?_, (Dev.serve_healthB ..).trans ?_⟩
    · exact (Dev.serve_checks ..).elim id id
    · exact (congrArg Volt.healthA (s.dev.postUmpire_volt 0x02 fs) :)
    · exact (congrArg Volt.healthB (s.dev.postUmpire_volt 0x02 fs) :)

/-! ### Retests and the watch -/

/-- A retest in progress after its time: the failures that its readings count, and the run of passes they leave. -/
def Dev.retestFails (d : Dev) (c : Nat) : Bool := testFails c (d.check (4 + 2 * c)) (d.check (5 + 2 * c))
def Dev.retestPasses (d : Dev) (c : Nat) : Nat := if d.retestFails c then 0 else (d.health c).passes + 1

/-- The device with a retest judged. -/
def Dev.retested (d : Dev) (c : Nat) : Dev :=
  (d.postUmpire 0x02 (testFields (if d.retestFails c then c + 1 else 0) 2 c (d.retestChecks c))).setHealth c
    { d.health c with retesting := false, passes := d.retestPasses c, latestPass := !d.retestFails c }

/-- A retest that has run its time is judged; its tenth pass in a row brings the converter back. -/
theorem exec_converterRetestEnd {s : State} {c : Fin 2} (hrun : s.dev.metRuns = true) (hr : (s.dev.health c).retesting = true)
    (hend : (s.dev.health c).retestAt + ms 100 ≤ s.dev.up) :
    exec (.converterRetestEnd c) s =
      s.ok (if s.dev.retestPasses c ≥ 10 && !(s.dev.health c).stays then (s.dev.retested c).restoreConv c else s.dev.retested c) := by
  change execConverterRetestEnd c s = _
  simp only [execConverterRetestEnd, hrun, hr, hend, decide_true, Bool.and_self, if_true]
  rfl

theorem Dev.failConv_one (d : Dev) : (d.failConv 1).volt.healthB.good = false := Dev.failConv_good d 1

/-- What follows a failure leaves Converter B's health. -/
theorem Dev.settled_healthB (d : Dev) (o : Nat) (fs : List Fld) :
    (d.chooseServing.refreshFrame.outcomeError o fs).volt.healthB = d.volt.healthB :=
  (congrArg Volt.healthB (Dev.outcomeError_volt ..)).trans (Dev.serve_healthB ..)

/-- A reading of the watch that does not fail Converter B begins the next 100 ms. -/
theorem exec_vchkWatch_within {s : State} (hrun : s.dev.metRuns = true) (hsv : s.dev.volt.serving = 1)
    (hgood : s.dev.volt.healthB.good = true) (hfact : s.dev.store.factoryLost = false) (hdue : s.dev.volt.watchAt + ms 100 ≤ s.dev.up)
    (n : Nat) (hn : n = if testFails 1 ⟨0, 0⟩ ((s.dev.volt.checks.get 8 {}).micro 1) then s.dev.volt.vchkRun + 1 else 0) :
    exec .vchkWatch s =
      let x : Checks := ⟨⟨0, 0⟩, ⟨0, 0⟩, ⟨0, 0⟩, (s.dev.volt.checks.get 8 {}).micro 1⟩
      let d := s.dev.setVolt { s.dev.volt with vchkRun := n, watchAt := s.dev.up, checks := s.dev.volt.checks.erase 8 }
      if n < 10 then s.ok d
      else
        let back := s.dev.volt.healthA.good || (s.dev.volt.healthA.latestPass && !s.dev.volt.healthA.stays)
        let o := if back then 2 else 4
        let fs := testFields o 2 1 x
        let d := d.postUmpire 0x02 fs
        let d := if back && !s.dev.volt.healthA.good then d.restoreConv 0 else d
        s.ok (((d.failConv 1).chooseServing.refreshFrame).outcomeError o fs) := by
  subst hn
  change execVchkWatch s = _
  simp only [execVchkWatch, hrun, hsv, hgood, hfact, hdue, decide_true, Bool.and_self, Bool.not_false, Bool.not_true,
    Bool.false_eq_true, if_false]

/-- Settles O20. -/
theorem converterRetests : Obligations.ConverterRetests := by
  unfold Obligations.ConverterRetests
  intro s c hrun
  refine ⟨fun hgood hr hfact hdue => ?retest, fun hr hend => ?retestEnd, fun hsv hgood hfact hdue => ⟨fun hn => ?within, fun hn => ?tenth⟩⟩
  case retest =>
    exact if_pos (by simp [hrun, hgood, hr, hfact, hdue])
  case retestEnd =>
    have hexec := exec_converterRetestEnd hrun hr hend
    by_cases hback : 10 ≤ s.dev.retestPasses c ∧ (s.dev.health c).stays = false
    · have hhealth := Dev.restoreConv_health (s.dev.retested c) c
      exact Runs.ok _ (hexec.trans (congrArg s.ok (if_pos (by simpa using hback))))
        ⟨fun _ _ => ⟨congrArg Conv.good hhealth, congrArg Conv.passes hhealth⟩,
         fun hstill => absurd hback fun ⟨hten, hstays⟩ => hstill.elim (Nat.not_lt.mpr hten) (by simp [hstays])⟩
    · exact Runs.ok _ (hexec.trans (congrArg s.ok (if_neg (by simpa using hback))))
        ⟨fun hten hstays => absurd ⟨hten, hstays⟩ hback, fun _ => Dev.setHealth_health _ c _⟩
  case within => exact (exec_vchkWatch_within hrun hsv hgood hfact hdue _ rfl).trans (if_pos hn)
  case tenth =>
    refine Runs.ok _ ((exec_vchkWatch_within hrun hsv hgood hfact hdue _ rfl).trans (if_neg (Nat.not_lt.mpr hn))) ⟨?_, rfl⟩
    exact (congrArg Conv.good (Dev.settled_healthB _ _ _)).trans (Dev.failConv_one _)

/-! ### The Umpire -/

@[simp] theorem Dev.postAfterCommit_volt (d : Dev) (b : RecBody) : (d.postAfterCommit b).volt = d.volt :=
  Dev.volt_of_quiet (by simp)

theorem Dev.store_of_still {d e : Dev} (h : d.still = e.still) : d.store = e.store :=
  show d.still.store = e.still.store from congrArg Dev.store h

@[simp] theorem Dev.postUmpire_store (d : Dev) (event : Nat) (fs : List Fld) : (d.postUmpire event fs).store = d.store :=
  Dev.store_of_still (Dev.post_still ..)

@[simp] theorem Dev.postAfterCommit_store (d : Dev) (b : RecBody) : (d.postAfterCommit b).store = d.store :=
  Dev.store_of_still (Dev.still_of_quiet (by simp))

@[simp] theorem Dev.tamper_store (d : Dev) (kind index : Nat) (start : DevTime) : (d.tamper kind index start).store = d.store := by
  unfold Dev.tamper Dev.announce
  dsimp only
  split
  · rfl
  · exact Dev.postAfterCommit_store ..

@[simp] theorem Dev.announce_volt (d : Dev) (kind index detect : Nat) (start : DevTime) :
    (d.announce kind index detect start).volt = d.volt := by
  unfold Dev.announce
  split
  · rfl
  · exact Dev.postAfterCommit_volt ..

@[simp] theorem Dev.tamper_volt (d : Dev) (kind index : Nat) (start : DevTime) : (d.tamper kind index start).volt = d.volt :=
  Dev.announce_volt ..

/-- The block's share of the summary, with its RMS(e) among the peaks where it is judged. -/
def Dev.blockSummed (d : Dev) (b : UmpBlock) (judged : Bool) : Dev :=
  d.setVolt { d.volt with
    closed := none, zero := ⟨d.volt.zero.sum + b.zero.sum, d.volt.zero.n + b.zero.n⟩
    vchk := ⟨d.volt.vchk.sum + b.vchk.sum, d.volt.vchk.n + b.vchk.n⟩
    peakE := if judged then d.volt.peakE.set b.shared (max b.rms (d.volt.peakE.get b.shared 0)) else d.volt.peakE }

/-- The persistence count after a judged block of Converter A in service. -/
def Dev.persisted (d : Dev) (b : UmpBlock) : Dev :=
  d.setVolt { d.volt with
    persist := if b.disagrees then d.volt.persist + 1 else 0, rms := if b.disagrees then (b.rms :: d.volt.rms).take 5 else []
    persistMax := max d.volt.persistMax (if b.disagrees then d.volt.persist + 1 else 0) }

/-- The fifth block that disagrees in a row: a tamper, UMPIRE_DISAGREE, and a reference test. -/
def Dev.disagreed (d : Dev) (b : UmpBlock) : Dev :=
  let d := d.tamper 0x0E b.shared d.now
  (d.postUmpire 0x01 (⟨1, 1, b.shared⟩ :: d.volt.rms.reverse.mapIdx fun i r => ⟨4 + 4 * i, 4, r⟩)).startTest 0 none

/-- A block that disagrees while Converter A is failed ends its run of passes. -/
def Dev.passesEnded (d : Dev) (b : UmpBlock) : Dev :=
  if b.disagrees then d.setHealth 0 { d.health 0 with passes := 0 } else d

/-- What a judged block does once it is summed. -/
def Dev.blockJudged (d : Dev) (b : UmpBlock) : Dev :=
  if d.volt.healthA.good then if (d.persisted b).volt.persist = 5 then (d.persisted b).disagreed b else d.persisted b
  else d.passesEnded b

/-- The outcomes of UMPIRE_BLOCK with a block that waits. -/
theorem exec_umpireBlock {s : State} {b : UmpBlock} (hrun : s.dev.metRuns = true) (hb : s.dev.volt.closed = some b)
    (hacc : s.dev.pwr.accum = true) (judged : Bool) (hj : (!b.bad && s.dev.compares) = judged) :
    exec .umpireBlock s =
      s.ok (if judged then (s.dev.blockSummed b judged).blockJudged b else s.dev.blockSummed b judged) := by
  change execUmpireBlock s = _
  simp only [execUmpireBlock, hb, hrun, hacc, hj, Bool.not_true, Bool.or_self, Bool.false_eq_true, if_false]
  cases judged
  · rfl
  cases hA : s.dev.volt.healthA.good
  · have hj : (s.dev.blockSummed b true).blockJudged b = (s.dev.blockSummed b true).passesEnded b :=
      if_neg (by simp [Dev.blockSummed, Dev.setVolt, hA])
    rw [hj]
    rfl
  · have hj : (s.dev.blockSummed b true).blockJudged b = _ := if_pos hA
    by_cases h : ((s.dev.blockSummed b true).persisted b).volt.persist = 5
    · exact (if_neg (not_not.mpr h)).trans (congrArg s.ok (hj.trans (if_pos h)).symm)
    · exact (if_pos h).trans (congrArg s.ok (hj.trans (if_neg h)).symm)

theorem Dev.blockSummed_goodA {d : Dev} (b : UmpBlock) (hA : d.volt.healthA.good = true) :
    (d.blockSummed b true).volt.healthA.good = true := hA

/-- Short of the fifth that disagrees in a row, a block only moves the persistence count. -/
theorem blockJudged_counts {d : Dev} {b : UmpBlock} (hA : d.volt.healthA.good = true)
    (hfew : b.disagrees = true → d.volt.persist ≠ 4) :
    (d.blockSummed b true).blockJudged b = (d.blockSummed b true).persisted b := by
  have hn : ((d.blockSummed b true).persisted b).volt.persist ≠ 5 := by
    show (if b.disagrees then d.volt.persist + 1 else 0) ≠ 5
    split
    · next h => simpa using hfew h
    · decide
  exact (if_pos hA).trans (if_neg hn)

/-- The fifth block that disagrees in a row is UMPIRE_DISAGREE. -/
theorem blockJudged_fifth {d : Dev} {b : UmpBlock} (hA : d.volt.healthA.good = true) (hdis : b.disagrees = true)
    (hfour : d.volt.persist = 4) :
    (d.blockSummed b true).blockJudged b = ((d.blockSummed b true).persisted b).disagreed b := by
  have hn : ((d.blockSummed b true).persisted b).volt.persist = 5 := by
    show (if b.disagrees then d.volt.persist + 1 else 0) = 5
    rw [if_pos hdis, hfour]
  exact (if_pos hA).trans (if_pos hn)

/-- With FACTORY standing a reference test starts. -/
theorem Dev.startTest_volt {d : Dev} (hfact : d.store.factoryLost = false) (kind : Nat) (cmd : Option CmdRef) :
    (d.startTest kind cmd).volt.closed = d.volt.closed ∧
      (d.startTest kind cmd).volt.test = some { kind := kind, since := d.up, cmd := cmd } := by
  have hstart : d.startTest kind cmd = _ := if_neg (Bool.eq_false_iff.mp hfact)
  rw [hstart]
  exact ⟨rfl, rfl⟩

theorem Dev.disagreed_volt {d : Dev} (b : UmpBlock) (hfact : d.store.factoryLost = false) :
    (d.disagreed b).volt.closed = d.volt.closed ∧ ∃ up, (d.disagreed b).volt.test = some { kind := 0, since := up, cmd := none } := by
  have hstore : (((d.tamper 0x0E b.shared d.now).postUmpire 0x01 (⟨1, 1, b.shared⟩ ::
      (d.tamper 0x0E b.shared d.now).volt.rms.reverse.mapIdx fun i r => ⟨4 + 4 * i, 4, r⟩)).store = d.store) := by simp
  obtain ⟨hclosed, htest⟩ := Dev.startTest_volt (hstore ▸ hfact : _ = false) 0 none
  exact ⟨hclosed.trans (by simp), _, htest⟩

/-- Settles O21. -/
theorem umpireBlocks : Obligations.UmpireBlocks := by
  unfold Obligations.UmpireBlocks
  intro s hrun
  refine ⟨fun b hb hacc => ?block, fun hp hs hq => ?summary⟩
  case block =>
    have hexec := fun judged hj => exec_umpireBlock hrun hb hacc judged hj
    refine ⟨fun hj => ?spoilt, fun ⟨hwhole, hcmp⟩ hA => ?failed, fun ⟨hwhole, hcmp⟩ hA hlow => ?agrees,
      fun ⟨hwhole, hcmp⟩ hA habove hfew => ?counts, fun ⟨hwhole, hcmp⟩ hA habove hfour hfact => ?fifth⟩
    case spoilt => exact hexec false (by simpa using hj)
    all_goals have hexec := hexec true (by simp [hwhole, hcmp])
    case failed =>
      have hj : (s.dev.blockSummed b true).blockJudged b = (s.dev.blockSummed b true).passesEnded b :=
        if_neg (by simp [hA, Dev.blockSummed])
      refine Runs.ok _ (hexec.trans (congrArg s.ok hj)) ⟨?_, ?_, ?_, decide_eq_true_iff⟩ <;>
        · unfold Dev.passesEnded
          split <;> rfl
    case agrees =>
      have hdis : b.disagrees = false := decide_eq_false hlow
      have hj := blockJudged_counts hA fun h => absurd (hdis.symm.trans h) Bool.false_ne_true
      exact Runs.ok _ (hexec.trans (congrArg s.ok hj)) ⟨rfl, if_neg (Bool.eq_false_iff.mp hdis), rfl, rfl, rfl⟩
    case counts =>
      have hdis : b.disagrees = true := decide_eq_true habove
      have hj := blockJudged_counts (b := b) hA fun _ => Nat.ne_of_lt hfew
      exact Runs.ok _ (hexec.trans (congrArg s.ok hj)) ⟨rfl, if_pos hdis, rfl, rfl, rfl⟩
    case fifth =>
      have hj := blockJudged_fifth (b := b) hA (decide_eq_true habove) hfour
      obtain ⟨hclosed, htest⟩ := Dev.disagreed_volt (d := (s.dev.blockSummed b true).persisted b) b hfact
      exact Runs.ok _ (hexec.trans (congrArg s.ok hj)) ⟨hclosed, ⟨_, htest.choose_spec, rfl⟩, rfl⟩
  case summary =>
    have hexec : exec .umpireSummary s = s.ok _ := if_neg (by simp [hp, hs, hq])
    refine Runs.ok _ hexec ⟨rfl, rfl, rfl, rfl, ?_⟩
    exact (congrArg Dev.led (Dev.post_quiet (s.dev.quarter 0x15) _) :)

/-! ### Clipping and open inputs -/

@[simp] theorem Dev.postUmpire_trk (d : Dev) (event : Nat) (fs : List Fld) : (d.postUmpire event fs).trk = d.trk :=
  (congrArg Dev.trk (Dev.post_still d _) :)

@[simp] theorem Dev.postUmpire_accum (d : Dev) (event : Nat) (fs : List Fld) : (d.postUmpire event fs).pwr.accum = d.pwr.accum :=
  (congrArg (fun e => e.pwr.accum) (Dev.post_still d _) :)

/-- What an open-input test finds: 1 open, 2 dead, 0 normal. -/
def Dev.openFound (d : Dev) (c : Nat) (shift : Int) : Nat :=
  if 100000 < shift then 1 else if c < 3 && 100 ≤ d.volt.lowRun.get c 0 then 2 else 0

theorem Dev.openFound_eq (d : Dev) (c : Nat) (shift : Int) :
    d.openFound c shift = if 100000 < shift then 1 else if c < 3 ∧ 100 ≤ d.volt.lowRun.get c 0 then 2 else 0 := by
  simp [Dev.openFound]

/-- An open-input test that has run its time holds its result. -/
def Dev.openHeld (d : Dev) (c t : Nat) (shift : Int) : Dev :=
  d.setVolt { d.volt with
    openTest := none, lastOpen := d.volt.lastOpen.set c t, openState := d.volt.openState.set c (d.openFound c shift) }

theorem exec_vinOpenTestEnd {s : State} {c : Fin 4} {t : Nat} (shift : Int) (hrun : s.dev.metRuns = true)
    (ht : s.dev.volt.openTest = some (c.val, t)) (hend : t + ms 20 ≤ s.dev.up) :
    exec (.vinOpenTestEnd c shift) s = s.ok (
      let now := s.dev.openFound c shift
      let was := s.dev.volt.openState.get c 0
      let d := s.dev.openHeld c t shift
      let e := if now = was then d else
        d.postUmpire (if now = 1 then 0x07 else if now = 2 then 0x08 else 0x09) [⟨1, 1, c⟩, sfld 4 4 shift]
      if now ≠ 0 && now ≠ was && e.trk.volt = c.val && e.pwr.accum then e.voltageFailed else e) := by
  have hp : (s.dev.metRuns && decide (c.val = c.val) && decide (t + ms 20 ≤ s.dev.up)) = true := by simp [hrun, hend]
  unfold exec execVinOpenTestEnd
  dsimp only
  rw [ht]
  exact if_pos hp

/-- Settles O22. -/
theorem voltageInputs : Obligations.VoltageInputs := by
  unfold Obligations.VoltageInputs
  intro s c hrun
  refine ⟨fun hclip hlast => ?clip, fun hused hnone hdue => ?start, fun t shift ht hend => ⟨fun hsame => ?same, fun hother => ?other⟩⟩
  case clip => exact if_pos (by simp [hrun, hclip, hlast])
  case start => exact if_pos (by simp [hrun, hused, hnone, hdue])
  all_goals
    refine (exec_vinOpenTestEnd shift hrun ht hend).trans (congrArg s.ok ?_)
    dsimp only
    simp only [← Dev.openFound_eq] at *
  case same => simp [hsame, Dev.openHeld]
  case other =>
    simp [hother, Dev.openHeld, and_assoc]

end Sys2Proof.Machine

/-! ## Proofs: links and the current intake (chapters 3 and 4) -/

namespace Sys2Proof.Machine

/-- What stands through errors, the accounts, posts and tampers: all that `Dev.still` holds, less the tamper unit. -/
def Dev.calm (d : Dev) : Dev := { d.still with tam := {} }

theorem Dev.calm_of_still {d e : Dev} (h : d.still = e.still) : d.calm = e.calm := congrArg (fun q : Dev => { q with tam := {} }) h

theorem Dev.tam_calm (d : Dev) (t : TamperUnit) : ({ d with tam := t } : Dev).calm = d.calm := rfl

@[simp] theorem Dev.postAfterCommit_still (d : Dev) (b : RecBody) : (d.postAfterCommit b).still = d.still :=
  Dev.still_of_quiet (by simp)

@[simp] theorem Dev.tamper_calm (d : Dev) (kind index : Nat) (start : DevTime) : (d.tamper kind index start).calm = d.calm := by
  unfold Dev.tamper Dev.announce
  dsimp only
  split
  · rfl
  · exact (Dev.calm_of_still (Dev.postAfterCommit_still ..)).trans rfl

/-! ### Where the links stand -/

theorem Dev.links_of_calm {d e : Dev} (h : d.calm = e.calm) : d.links = e.links :=
  show d.calm.links = e.calm.links from congrArg Dev.links h

theorem Dev.link_of_links {d e : Dev} (h : d.links = e.links) (n : Nat) : d.link n = e.link n := congrArg (fun t : Tbl Link => t.get n {}) h

@[simp] theorem Dev.setLink_link_same (d : Dev) (n : Nat) (l : Link) : (d.setLink n l).link n = l := Tbl.get_set_same ..
theorem Dev.setLink_link_other (d : Dev) {n m : Nat} (h : m ≠ n) (l : Link) : (d.setLink n l).link m = d.link m :=
  Tbl.get_set_other _ h ..

@[simp] theorem Dev.post_links (d : Dev) (b : RecBody) : (d.post b).links = d.links :=
  Dev.links_of_calm (Dev.calm_of_still (by simp))
@[simp] theorem Dev.postPod_links (d : Dev) (event link channel : Nat) (fs : List Fld) (len : Nat) :
    (d.postPod event link channel fs len).links = d.links := Dev.post_links ..
@[simp] theorem Dev.postChan_links (d : Dev) (event c : Nat) (fs : List Fld) : (d.postChan event c fs).links = d.links := by
  unfold Dev.postChan
  split <;> simp
@[simp] theorem Dev.tamper_links (d : Dev) (kind index : Nat) (start : DevTime) : (d.tamper kind index start).links = d.links :=
  Dev.links_of_calm (by simp)
@[simp] theorem Dev.channelsLost_links (d : Dev) (cs : List Nat) (since : Nat) : (d.channelsLost cs since).links = d.links :=
  Dev.links_of_calm (Dev.calm_of_still (by simp))
@[simp] theorem Dev.updPair_links (d : Dev) (a k : Nat) (f : PairRun → PairRun) : (d.updPair a k f).links = d.links :=
  Dev.links_of_calm (Dev.calm_of_still (by simp))
@[simp] theorem Dev.updChan_links (d : Dev) (c : Nat) (f : Chan → Chan) : (d.updChan c f).links = d.links := rfl
@[simp] theorem Dev.setStream_links (d : Dev) (c : Nat) (x : Stream) : (d.setStream c x).links = d.links := rfl

@[simp] theorem Dev.postPod_link (d : Dev) (event link channel : Nat) (fs : List Fld) (len n : Nat) :
    (d.postPod event link channel fs len).link n = d.link n := Dev.link_of_links (by simp) n

@[simp] theorem Dev.overload_links (d : Dev) (c : Nat) : (d.overload c).links = d.links := by
  have hpair : (match d.ownerOf c with
      | some (a, k) => d.updPair a k fun p => { p with secBad := true }
      | none => d).links = d.links := by split <;> simp
  unfold Dev.overload
  dsimp only
  split
  · rfl
  · split
    · exact hpair
    · exact (Dev.postChan_links ..).trans hpair

@[simp] theorem Dev.feed_links (d : Dev) (c : Nat) (new : List Bool) : (d.feed c new).links = d.links := by
  unfold Dev.feed
  dsimp only
  split <;> simp

@[simp] theorem Dev.feedLink_links (d : Dev) (n : Nat) (mods : List Nat) : (d.feedLink n mods).links = d.links :=
  Dev.each_keeps Dev.links (fun d _ => d.feed_links ..) _ _

@[simp] theorem Dev.watchTest_links (d : Dev) (n : Nat) (rx : List SlotRx) (mods : List Nat) (was : Option Nat) :
    (d.watchTest n rx mods was).links = d.links := by
  unfold Dev.watchTest
  split
  · rfl
  · dsimp only
    split <;> rfl

@[simp] theorem Dev.relayAbsent_links (d : Dev) (n r : Nat) : (d.relayAbsent n r).links = d.links := by
  unfold Dev.relayAbsent
  split <;> simp

@[simp] theorem Dev.firstStatus_links (d : Dev) (n : Nat) (was : Option Nat) : (d.firstStatus n was).links = d.links := by
  unfold Dev.firstStatus
  dsimp only
  split
  · rfl
  · exact Dev.each_keeps Dev.links (fun d r => d.relayAbsent_links n r) _ _

/-! ### What a superframe changes of its link -/

/-- A link less its driver's polarity and the reports of its UP period. -/
def Link.core (l : Link) : Link :=
  { l with
    invRun := 0, undecRun := 0, toggleAge := 0, toggling := false, dnFlip := false
    unassignedRun := 0, unassignedPosted := false, absentPosted := false }

/-- The polarity of the driver and its runs are all that the echo changes. -/
theorem Dev.echoChecks_core (d : Dev) (n : Nat) (e : Echo) : ((d.echoChecks n e).link n).core = (d.link n).core := by
  unfold Dev.echoChecks
  dsimp only
  (repeat' split) <;> simp [Link.core]

theorem Dev.echoChecks_other (d : Dev) {n m : Nat} (h : m ≠ n) (e : Echo) : (d.echoChecks n e).link m = d.link m := by
  unfold Dev.echoChecks
  dsimp only
  (repeat' split) <;> simp [Dev.setLink_link_other, h]

/-- The reports of an UP period are all that its checks change. -/
theorem Dev.upChecks_core (d : Dev) (n : Nat) (was : Option Nat) : ((d.upChecks n was).link n).core = (d.link n).core := by
  unfold Dev.upChecks
  dsimp only
  (repeat' split) <;> simp [Link.core]

theorem Dev.upChecks_other (d : Dev) {n m : Nat} (h : m ≠ n) (was : Option Nat) : (d.upChecks n was).link m = d.link m := by
  unfold Dev.upChecks
  dsimp only
  (repeat' split) <;> simp [Dev.setLink_link_other, h]

/-- Link `n` as its loss leaves it. -/
def Dev.lostLink (d : Dev) (n : Nat) (st : LinkState) : Link :=
  let since := (linkChannels n |>.filter fun c => (d.chan c).flat).foldl (fun t c => min t (d.chan c).flatSince) (d.up - 3 * sfUnits)
  { d.link n with
    state := st, found := 0, released := false, shortUp := false, bad := 0, lossCount := sat32 ((d.link n).lossCount + 1), changed := true
    lostSince := if d.pwr.accum then some ((d.link n).lostSince.getD since) else (d.link n).lostSince }

theorem Dev.loseLink_links (d : Dev) (n : Nat) (st : LinkState) : (d.loseLink n st).links = d.links.set n (d.lostLink n st) := by
  have hchans : ∀ (e : Dev) (l : List Nat),
      (e.each l fun d c => d.updChan c fun x => { x with flat := false, backAt := 0 }).links = e.links := fun e l =>
    Dev.each_keeps Dev.links (fun d c => d.updChan_links ..) l e
  unfold Dev.loseLink
  dsimp only
  split <;> simp [hchans, Dev.lostLink]

theorem Dev.loseLink_link (d : Dev) (n : Nat) (st : LinkState) : (d.loseLink n st).link n = d.lostLink n st := by
  rw [Dev.link, Dev.loseLink_links, Tbl.get_set_same]

theorem Dev.loseLink_other (d : Dev) {n m : Nat} (h : m ≠ n) (st : LinkState) : (d.loseLink n st).link m = d.link m := by
  rw [Dev.link, Dev.loseLink_links, Tbl.get_set_other _ h]
  rfl

/-! ### A superframe of an aligned link -/

/-- What a superframe of an aligned link counts and takes in. -/
def Link.received (l : Link) (rx : List SlotRx) (sync : Bool) : Link :=
  let bads := (rx.filter SlotRx.bad).length
  let crcBad := crc16 rx ≠ crc16Sent rx
  let valid := sfValid sync rx
  { l with
    mods := (modsOf l.mods rx).getLastD l.mods
    badSlot := sat32 (l.badSlot + bads), crcFail := sat32 (l.crcFail + b2n crcBad), syncMiss := sat32 (l.syncMiss + b2n (!sync))
    changed := l.changed || bads ≠ 0 || crcBad || !sync
    status := if valid then some (serField rx 1 16 (l.status.getD 0)) else l.status
    relayState := if valid then serField rx 17 12 l.relayState else l.relayState }

theorem Link.received_valid (l : Link) {rx : List SlotRx} {sync : Bool} (h : sfValid sync rx = true) :
    (l.received rx sync).status = some (serField rx 1 16 (l.status.getD 0)) ∧
      (l.received rx sync).relayState = serField rx 17 12 l.relayState := ⟨if_pos h, if_pos h⟩

theorem Link.received_invalid (l : Link) {rx : List SlotRx} {sync : Bool} (h : sfValid sync rx = false) :
    (l.received rx sync).status = l.status := if_neg (Bool.eq_false_iff.mp h)

/-- A valid superframe of a link that is not ALIGNING. -/
theorem Dev.aligned_valid {d : Dev} {n : Nat} {rx : List SlotRx} {sync : Bool} (hst : (d.link n).state ≠ .aligning)
    (hvalid : sfValid sync rx = true) (arrival : Nat) : ∃ e, d.aligned n rx sync arrival =
      ((((((d.setLink n { (d.link n).received rx sync with bad := 0 }).firstStatus n (d.link n).status).echoChecks n e).upChecks n
        (d.link n).status).watchTest n rx (modsOf (d.link n).mods rx) (d.link n).status).feedLink n (modsOf (d.link n).mods rx)) :=
  ⟨_, (if_neg hst).trans (if_pos hvalid)⟩

/-- One that is not valid. -/
theorem Dev.aligned_invalid {d : Dev} {n : Nat} {rx : List SlotRx} {sync : Bool} (hst : (d.link n).state ≠ .aligning)
    (hvalid : sfValid sync rx = false) (arrival : Nat) : ∃ e,
      let l := (d.link n).received rx sync
      let d' := (d.setLink n { l with bad := l.bad + 1, unassignedRun := 0 }).echoChecks n e
      d.aligned n rx sync arrival = if l.bad + 1 ≥ 3 then d'.loseLink n .down else d'.feedLink n (modsOf (d.link n).mods rx) :=
  ⟨_, (if_neg hst).trans (if_neg (by simp [hvalid]))⟩

/-- Link `l`, ALIGNING, after a superframe with its sync symbol. -/
def Link.aligning (l : Link) (rx : List SlotRx) (arrival : Nat) : Link :=
  { l.received rx true with
    noSync := 0
    aligned := if sfValid true rx && inWindow arrival then l.aligned + 1 else 0
    outside := if true && !inWindow arrival then l.outside + 1 else 0 }

/-- The first superframe of a link that has just begun to align leaves it ALIGNING. -/
theorem Dev.aligned_first {d : Dev} {n : Nat} {rx : List SlotRx} (hst : (d.link n).state = .aligning)
    (ha : (d.link n).aligned = 0) (ho : (d.link n).outside = 0) (arrival : Nat) :
    ((d.aligned n rx true arrival).link n).core = ((d.link n).aligning rx arrival).core ∧
      ∀ m, m ≠ n → (d.aligned n rx true arrival).link m = d.link m := by
  have hfew : ((d.link n).aligning rx arrival).aligned < 3 := by
    unfold Link.aligning
    dsimp only
    split <;> omega
  have hin : ((d.link n).aligning rx arrival).outside ≠ 16 := by
    unfold Link.aligning
    dsimp only
    split <;> omega
  have he : d.aligned n rx true arrival =
      ((d.setLink n ((d.link n).aligning rx arrival)).firstStatus n (d.link n).status).echoChecks n _ :=
    (if_pos hst).trans ((if_neg (by simp)).trans ((if_neg (Nat.not_le.mpr hfew)).trans (if_neg hin)))
  rw [he]
  refine ⟨?_, fun m hm => ?_⟩
  · rw [Dev.echoChecks_core, Dev.link_of_links (Dev.firstStatus_links ..), Dev.setLink_link_same]
  · rw [Dev.echoChecks_other _ hm, Dev.link_of_links (Dev.firstStatus_links ..), Dev.setLink_link_other _ hm]

/-- What a valid superframe leaves of a link that is not ALIGNING, and of the others. -/
theorem Dev.aligned_valid_link {d : Dev} {n : Nat} {rx : List SlotRx} {sync : Bool} (hst : (d.link n).state ≠ .aligning)
    (hvalid : sfValid sync rx = true) (arrival : Nat) :
    ((d.aligned n rx sync arrival).link n).core = ({ (d.link n).received rx sync with bad := 0 } : Link).core ∧
      ∀ m, m ≠ n → (d.aligned n rx sync arrival).link m = d.link m := by
  obtain ⟨e, he⟩ := Dev.aligned_valid hst hvalid arrival
  have hlinks : (d.aligned n rx sync arrival).links = _ := he ▸ (Dev.feedLink_links ..).trans (Dev.watchTest_links ..)
  refine ⟨?_, fun m hm => ?_⟩
  · rw [Dev.link_of_links hlinks, Dev.upChecks_core, Dev.echoChecks_core, Dev.link_of_links (Dev.firstStatus_links ..),
      Dev.setLink_link_same]
  · rw [Dev.link_of_links hlinks, Dev.upChecks_other _ hm, Dev.echoChecks_other _ hm, Dev.link_of_links (Dev.firstStatus_links ..),
      Dev.setLink_link_other _ hm]

/-- What one that is not valid leaves: a third in a row is the link's loss. -/
theorem Dev.aligned_invalid_link {d : Dev} {n : Nat} {rx : List SlotRx} {sync : Bool} (hst : (d.link n).state ≠ .aligning)
    (hvalid : sfValid sync rx = false) (arrival : Nat) :
    let l := (d.link n).received rx sync
    let e := (d.aligned n rx sync arrival).link n
    (l.bad < 2 → e.core = ({ l with bad := l.bad + 1 } : Link).core) ∧
    (2 ≤ l.bad → e.state = .down ∧ e.released = false ∧ e.lossCount = sat32 (l.lossCount + 1) ∧ e.status = l.status) ∧
    ∀ m, m ≠ n → (d.aligned n rx sync arrival).link m = d.link m := by
  obtain ⟨echo, he⟩ := Dev.aligned_invalid hst hvalid arrival
  dsimp only at he ⊢
  have hcore : ∀ l : Link, (((d.setLink n l).echoChecks n echo).link n).core = l.core := fun l => by
    rw [Dev.echoChecks_core, Dev.setLink_link_same]
  refine ⟨fun hfew => ?_, fun hthird => ?_, fun m hm => ?_⟩
  · rw [he, if_neg (by omega), Dev.link_of_links (Dev.feedLink_links ..), hcore]
    rfl
  · rw [he, if_pos (by omega), Dev.loseLink_link]
    have hlink := hcore { (d.link n).received rx sync with bad := ((d.link n).received rx sync).bad + 1, unassignedRun := 0 }
    exact ⟨rfl, rfl, (congrArg (fun l : Link => sat32 (l.lossCount + 1)) hlink :), (congrArg Link.status hlink :)⟩
  · rw [he]
    split
    · rw [Dev.loseLink_other _ hm, Dev.echoChecks_other _ hm, Dev.setLink_link_other _ hm]
    · rw [Dev.link_of_links (Dev.feedLink_links ..), Dev.echoChecks_other _ hm, Dev.setLink_link_other _ hm]

/-! ### A superframe received -/

theorem Link.state_cases (l : Link) (h : l.state = .up) : l.state ≠ .down ∧ l.state ≠ .short ∧ l.state ≠ .aligning := by simp [h]

theorem not_and_of_ne {a b : Nat} (h : a ≠ b) (c : Bool) : ¬ (decide (a = b) && c) = true := by simp [h]

/-- A superframe of a link in UP without an inverted sync, the first since the last sample instant. -/
theorem Dev.superframe_up {d : Dev} {n : Fin 16} (hrun : d.metRuns = true) (hheard : (d.link n).heard = false)
    (hup : (d.link n).state = .up) (slots : List Nat) (arrival : Nat)
    (hflip : codeOf (d.link n).rxInv (slots.headD 0) 3 ≠ invSync) :
    d.superframe n slots arrival = (d.setLink n { d.link n with heard := true }).aligned n (slotsRx (d.link n).rxInv slots)
      (decide (codeOf (d.link n).rxInv (slots.headD 0) 3 = syncCode)) arrival := by
  have hopen : ¬ (!d.metRuns || (d.link n).heard) = true := by simp [hrun, hheard]
  unfold Dev.superframe
  dsimp only
  rw [if_neg hopen, if_neg (not_and_of_ne hflip _), Dev.setLink_link_same]
  dsimp only
  rw [hup]

/-- One of a link in DOWN. -/
theorem Dev.superframe_down {d : Dev} {n : Fin 16} (hrun : d.metRuns = true) (hheard : (d.link n).heard = false)
    (hdown : (d.link n).state = .down) (slots : List Nat) (arrival : Nat)
    (hflip : codeOf (d.link n).rxInv (slots.headD 0) 3 ≠ invSync) :
    d.superframe n slots arrival =
      let l := { d.link n with heard := true }
      let e := d.setLink n l
      let sync := decide (codeOf (d.link n).rxInv (slots.headD 0) 3 = syncCode)
      if !sync then e.setLink n { l with found := 0 }
      else if l.found = 0 then e.setLink n { l with found := 1 }
      else (e.setLink n { l with
          state := .aligning, found := 0, aligned := 0, noSync := 0, outside := 0, invRun := 0, undecRun := 0
          toggling := false }).aligned n (slotsRx l.rxInv slots) sync arrival := by
  have hopen : ¬ (!d.metRuns || (d.link n).heard) = true := by simp [hrun, hheard]
  unfold Dev.superframe
  dsimp only
  rw [if_neg hopen, if_neg (not_and_of_ne hflip _), Dev.setLink_link_same]
  dsimp only
  rw [hdown, decide_eq_false hflip, Bool.or_false]

theorem Tbl.put_put {α : Type} (k : Nat) (v w : α) (l : List (Nat × α)) : Tbl.put k w (Tbl.put k v l) = Tbl.put k w l := by
  induction l with
  | nil => simp [Tbl.put]
  | cons p t ih =>
    by_cases hlt : k < p.1
    · simp [Tbl.put, hlt]
    · by_cases heq : k = p.1 <;> simp [Tbl.put, hlt, heq, ih]

theorem Tbl.set_set {α : Type} (t : Tbl α) (k : Nat) (v w : α) : (t.set k v).set k w = t.set k w := by
  simp [Tbl.set, Tbl.put_put]

theorem Dev.setLink_setLink (d : Dev) (n : Nat) (l m : Link) : (d.setLink n l).setLink n m = d.setLink n m := by
  simp [Dev.setLink, Tbl.set_set]

/-- The second superframe with its sync symbol makes a link ALIGNING. -/
theorem Dev.superframe_aligns {d : Dev} {n : Fin 16} (hrun : d.metRuns = true) (hheard : (d.link n).heard = false)
    (hdown : (d.link n).state = .down) (slots : List Nat) (arrival : Nat) (hsync : codeOf (d.link n).rxInv (slots.headD 0) 3 = syncCode)
    (hfound : (d.link n).found ≠ 0) :
    let e := d.superframe n slots arrival
    (e.link n).state = .aligning ∧ (e.link n).found = 0 ∧ ∀ m, m ≠ n.val → e.link m = d.link m := by
  have hflip : codeOf (d.link n).rxInv (slots.headD 0) 3 ≠ invSync := hsync ▸ by decide
  have hframe := (Dev.superframe_down hrun hheard hdown slots arrival hflip).trans
    ((if_neg (by simp only [hsync, decide_true]; decide)).trans (if_neg hfound))
  dsimp only
  rw [hframe, decide_eq_true hsync]
  obtain ⟨hcore, hother⟩ := Dev.aligned_first (n := n) (rx := slotsRx (d.link n).rxInv slots)
    (d := (d.setLink n { d.link n with heard := true }).setLink n
      { d.link n with
        heard := true, state := .aligning, found := 0, aligned := 0, noSync := 0, outside := 0, invRun := 0, undecRun := 0
        toggling := false })
    (by simp) (by simp) (by simp) arrival
  rw [Dev.setLink_link_same] at hcore
  refine ⟨(congrArg Link.state hcore :), (congrArg Link.found hcore :), fun m hm => ?_⟩
  rw [hother m hm, Dev.setLink_link_other _ hm, Dev.setLink_link_other _ hm]

/-- Settles O23. -/
theorem superframeReceived : Obligations.SuperframeReceived := by
  unfold Obligations.SuperframeReceived
  intro s n slots arrival hrun hheard
  refine ⟨fun hdown hsync hfirst => ?first, fun hdown hsync hsecond => ?second, fun hdown hsync hflip => ?none, fun hup hflip hvalid => ?valid,
    fun hup hflip hvalid => ?invalid⟩
  case first =>
    have hflip : codeOf (s.dev.link n).rxInv (slots.headD 0) 3 ≠ invSync := hsync ▸ by decide
    refine congrArg s.ok ((Dev.superframe_down hrun hheard hdown slots arrival hflip).trans ?_)
    exact (if_neg (by simp only [hsync, decide_true]; decide)).trans ((if_pos hfirst).trans (Dev.setLink_setLink ..))
  case second =>
    have hflip : codeOf (s.dev.link n).rxInv (slots.headD 0) 3 ≠ invSync := hsync ▸ by decide
    have hne : (s.dev.link n).found ≠ 0 := by omega
    obtain ⟨hstate, hfound, hother⟩ := Dev.superframe_aligns hrun hheard hdown slots arrival hsync hne
    exact Runs.ok _ rfl ⟨hstate, hfound, hother, rfl⟩
  case none =>
    refine congrArg s.ok ((Dev.superframe_down hrun hheard hdown slots arrival hflip).trans ?_)
    exact (if_pos (by simp only [decide_eq_false hsync, Bool.not_false])).trans (Dev.setLink_setLink ..)
  case valid =>
    obtain ⟨hcore, hother⟩ := Dev.aligned_valid_link (d := s.dev.setLink n { s.dev.link n with heard := true }) (n := n)
      (by simp [hup]) hvalid arrival
    rw [← Dev.superframe_up hrun hheard hup slots arrival hflip] at hcore hother
    rw [Dev.setLink_link_same] at hcore
    obtain ⟨hstatus, hrelay⟩ := Link.received_valid { s.dev.link n with heard := true } hvalid
    refine Runs.ok _ rfl ?_
    generalize s.dev.superframe n slots arrival = e at hcore hother ⊢
    exact ⟨(congrArg Link.state hcore).trans hup, congrArg Link.bad hcore, (congrArg Link.status hcore).trans hstatus,
      (congrArg Link.relayState hcore).trans hrelay, fun m hm => (hother m hm).trans (Dev.setLink_link_other _ hm _), rfl⟩
  case invalid =>
    obtain ⟨hfew, hthird, hother⟩ := Dev.aligned_invalid_link (d := s.dev.setLink n { s.dev.link n with heard := true }) (n := n)
      (by simp [hup]) hvalid arrival
    rw [← Dev.superframe_up hrun hheard hup slots arrival hflip] at hfew hthird hother
    rw [Dev.setLink_link_same] at hfew hthird
    have hstatus := Link.received_invalid { s.dev.link n with heard := true } hvalid
    refine Runs.ok _ rfl ?_
    generalize s.dev.superframe n slots arrival = e at hfew hthird hother ⊢
    refine ⟨?_, fun m hm => (hother m hm).trans (Dev.setLink_link_other _ hm _), rfl,
      fun hlow => ⟨(congrArg Link.state (hfew hlow)).trans hup, congrArg Link.bad (hfew hlow)⟩, fun hhigh => ?_⟩
    · rcases Nat.lt_or_ge (s.dev.link n).bad 2 with h | h
      · exact (congrArg Link.status (hfew h)).trans hstatus
      · obtain ⟨-, -, -, hstat⟩ := hthird h
        exact hstat.trans hstatus
    · obtain ⟨hdown, hrel, hcount, -⟩ := hthird hhigh
      exact ⟨hdown, hrel, hcount⟩

end Sys2Proof.Machine

/-! ## Proofs: events of links, channels and direct inputs (chapters 3 and 4) -/

namespace Sys2Proof.Machine

/-- A driver's fault, as R176 says it. -/
theorem dnFault_of {common tenths : Nat} {limit : Bool} (hlong : 50 < tenths) (h : limit = true ∨ common < 900 ∨ 1600 < common) :
    dnFault common limit tenths = true := by
  simpa [dnFault, hlong, or_assoc] using h

/-- Settles O24. Each command's guard holds, and what it then does is as stated. -/
theorem linkEvents : Obligations.LinkEvents := by
  unfold Obligations.LinkEvents
  intro s n hrun
  refine ⟨fun hup hrel hsince => ?release, fun r hup hvalid hnew hdue => ⟨fun hne => ?differs, fun heq hst => ?same⟩,
    fun common limit tenths hlong hfault => ⟨fun hst => ?fault, fun hst hretry => ?refault⟩, fun hst hretry hdue => ?retry,
    fun hst hretry hdue => ?clear⟩
  case release => exact if_pos (by simp [hrun, hup, hrel, hsince])
  case differs => exact (if_pos (by simpa [hrun, hup, hvalid, hnew] using hdue)).trans (if_pos (by simpa using hne))
  case same =>
    exact (if_pos (by simpa [hrun, hup, hvalid, hnew] using hdue)).trans ((if_neg (by simpa using heq)).trans (State.ok_same hst))
  case fault => exact (if_neg (by simp [hrun, dnFault_of hlong hfault])).trans (if_neg hst)
  case refault =>
    exact (if_neg (by simp [hrun, dnFault_of hlong hfault])).trans ((if_pos hst).trans (if_pos hretry))
  case retry => exact if_pos (by simp [hrun, hst, hretry, hdue])
  case clear => exact if_pos (by simp [hrun, hst, hretry, hdue])

/-! ### Channels -/

theorem Dev.intake_of_calm {d e : Dev} (h : d.calm = e.calm) : d.intake = e.intake :=
  show d.calm.intake = e.calm.intake from congrArg Dev.intake h

@[simp] theorem Dev.post_intake (d : Dev) (b : RecBody) : (d.post b).intake = d.intake :=
  Dev.intake_of_calm (Dev.calm_of_still (by simp))
@[simp] theorem Dev.postPod_intake (d : Dev) (event link channel : Nat) (fs : List Fld) (len : Nat) :
    (d.postPod event link channel fs len).intake = d.intake := Dev.post_intake ..
@[simp] theorem Dev.postChan_intake (d : Dev) (event c : Nat) (fs : List Fld) : (d.postChan event c fs).intake = d.intake := by
  unfold Dev.postChan
  split <;> simp
@[simp] theorem Dev.post_led (d : Dev) (b : RecBody) : (d.post b).led = d.led := (congrArg Dev.led (Dev.post_quiet d b) :)
@[simp] theorem Dev.postPod_led (d : Dev) (event link channel : Nat) (fs : List Fld) (len : Nat) :
    (d.postPod event link channel fs len).led = d.led := Dev.post_led ..
@[simp] theorem Dev.postChan_led (d : Dev) (event c : Nat) (fs : List Fld) : (d.postChan event c fs).led = d.led := by
  unfold Dev.postChan
  split <;> simp
@[simp] theorem Dev.tamper_intake (d : Dev) (kind index : Nat) (start : DevTime) : (d.tamper kind index start).intake = d.intake :=
  Dev.intake_of_calm (by simp)
@[simp] theorem Dev.channelsLost_intake (d : Dev) (cs : List Nat) (since : Nat) : (d.channelsLost cs since).intake = d.intake :=
  Dev.intake_of_calm (Dev.calm_of_still (by simp))

theorem Dev.chan_of_intake {d e : Dev} (h : d.intake = e.intake) (c : Nat) : d.chan c = e.chan c :=
  congrArg (fun i : Intake => i.chans.get c {}) h
theorem Dev.dm_of_intake {d e : Dev} (h : d.intake = e.intake) (x : Nat) : d.dm x = e.dm x :=
  congrArg (fun i : Intake => i.dms.get x {}) h

@[simp] theorem Dev.updChan_chan_same (d : Dev) (c : Nat) (f : Chan → Chan) : (d.updChan c f).chan c = f (d.chan c) :=
  Tbl.get_set_same ..
@[simp] theorem Dev.updDm_dm_same (d : Dev) (x : Nat) (f : DirectIn → DirectIn) : (d.updDm x f).dm x = f (d.dm x) :=
  Tbl.get_set_same ..
@[simp] theorem Dev.updChan_dm (d : Dev) (c x : Nat) (f : Chan → Chan) : (d.updChan c f).dm x = d.dm x := rfl
@[simp] theorem Dev.setStream_dm (d : Dev) (c x : Nat) (t : Stream) : (d.setStream c t).dm x = d.dm x := rfl
@[simp] theorem Dev.setLink_dm (d : Dev) (n x : Nat) (l : Link) : (d.setLink n l).dm x = d.dm x := rfl

@[simp] theorem Dev.markCounter_chan (d : Dev) (c k : Nat) : (d.markCounter c).chan k = d.chan k := by
  unfold Dev.markCounter
  split <;> rfl
@[simp] theorem Dev.markCounter_led (d : Dev) (c : Nat) : (d.markCounter c).led = d.led := by
  unfold Dev.markCounter
  split <;> rfl

/-- A marked counter of a direct input changes nothing of it but the mark. -/
theorem Dev.markCounter_lossCount (d : Dev) (c x : Nat) : ((d.markCounter c).dm x).lossCount = (d.dm x).lossCount := by
  unfold Dev.markCounter
  split
  · rfl
  · by_cases hx : x = c - 192
    · rw [hx, Dev.updDm_dm_same]
    · exact congrArg DirectIn.lossCount (Tbl.get_set_other _ hx _ _)

/-- The end of an overload: its channel, and that the ledger stands. -/
theorem Dev.endOverload_chan (d : Dev) (c : Nat) : (d.endOverload c).chan c = { d.chan c with
    ovl := false, overSecs := sat32 ((d.chan c).overSecs + (d.up - (d.chan c).overSince + second - 1) / second) } := by
  unfold Dev.endOverload
  dsimp only
  rw [Dev.chan_of_intake (Dev.postChan_intake ..), Dev.markCounter_chan, Dev.updChan_chan_same]

theorem Dev.endOverload_led (d : Dev) (c : Nat) : (d.endOverload c).led = d.led := by
  unfold Dev.endOverload
  dsimp only
  rw [Dev.postChan_led, Dev.markCounter_led]
  rfl

/-- Settles O25. -/
theorem channelEvents : Obligations.ChannelEvents := by
  unfold Obligations.ChannelEvents
  intro s c hrun
  refine ⟨fun bit since hseen hw hflat => ?flat, fun hflat hw hfew hdue => ?flatEnd, fun hovl hdue => ?ovlEnd⟩
  case flat =>
    unfold exec execChFlatline
    dsimp only
    rw [hseen]
    exact if_pos (by simp [hrun, hw, hflat])
  case flatEnd => exact if_pos (by simp [hrun, hw, hflat, hfew, hdue])
  case ovlEnd =>
    have hchan := s.dev.endOverload_chan c
    have hled := s.dev.endOverload_led c
    refine Runs.ok (s.dev.endOverload c) (if_pos (by simp [hrun, hovl, hdue])) ?_
    generalize s.dev.endOverload c = e at hchan hled ⊢
    exact ⟨congrArg Chan.ovl hchan, congrArg Chan.overSecs hchan, hled, rfl⟩

/-! ### Direct inputs and the counters -/

theorem Dev.endOverload_lossCount (d : Dev) (c x : Nat) : ((d.endOverload c).dm x).lossCount = (d.dm x).lossCount := by
  unfold Dev.endOverload
  dsimp only
  rw [Dev.dm_of_intake (Dev.postChan_intake ..), Dev.markCounter_lossCount, Dev.updChan_dm]

/-- A flatline counts no loss of a direct input. -/
theorem Dev.startFlat_lossCount (d : Dev) (c bit since x : Nat) : ((d.startFlat c bit since).dm x).lossCount = (d.dm x).lossCount := by
  have hposted : ∀ (e : Dev) (cs : List Nat) (event k : Nat) (fs : List Fld),
      ((e.channelsLost cs since).postChan event k fs).intake = e.intake := by simp
  have hovl : ((if (d.chan c).ovl then d.endOverload c else d).dm x).lossCount = (d.dm x).lossCount := by
    split
    · exact Dev.endOverload_lossCount ..
    · rfl
  unfold Dev.startFlat
  dsimp only
  split
  · rw [Dev.dm_of_intake (Dev.tamper_intake ..), Dev.dm_of_intake (hposted ..), Dev.markCounter_lossCount, Dev.setStream_dm,
      Dev.updChan_dm, hovl]
  · rw [Dev.dm_of_intake (hposted ..), Dev.markCounter_lossCount, Dev.setStream_dm, Dev.updChan_dm, hovl]

theorem Dev.lostInFlat_dm (d : Dev) (c x : Nat) : (d.lostInFlat c).dm x = d.dm x := by
  unfold Dev.lostInFlat
  split
  · exact Dev.dm_of_intake (Dev.tamper_intake ..) x
  · rfl

/-- A loss of a direct input, before its counters are set. -/
def Dev.inputLost (d : Dev) (x : Nat) : Dev :=
  if (d.chan (192 + x)).flat then d.lostInFlat (192 + x) else d.startFlat (192 + x) 0xFF (d.dm x).badFrom

theorem Dev.inputLost_lossCount (d : Dev) (x : Nat) : ((d.inputLost x).dm x).lossCount = (d.dm x).lossCount := by
  unfold Dev.inputLost
  split
  · rw [Dev.lostInFlat_dm]
  · exact Dev.startFlat_lossCount ..

/-- A step that clears the mark of one index and leaves the others clears those of a list. -/
theorem Dev.each_clears {β : Type} (π : Dev → Nat → β) (clear : β → β) {f : Dev → Nat → Dev}
    (hsame : ∀ d n, π (f d n) n = clear (π d n)) (hother : ∀ d n m, m ≠ n → π (f d n) m = π d m)
    (hclear : ∀ b, clear (clear b) = clear b) (l : List Nat) (d : Dev) (m : Nat) :
    π (d.each l f) m = if m ∈ l then clear (π d m) else π d m := by
  unfold Dev.each
  induction l generalizing d with
  | nil => simp
  | cons n t ih =>
    rw [List.foldl_cons, ih]
    by_cases hm : m = n
    · subst hm
      simp [hsame, hclear]
    · simp [hother _ _ _ hm, hm]

/-- COUNTERS of one link, and of one direct input. -/
def Dev.linkReported (d : Dev) (n : Nat) : Dev :=
  let l := d.link n
  let d := d.setLink n { l with changed := false }
  d.postPod 0x0D n 0xFFFF
    ([⟨4, 4, l.badSlot⟩, ⟨8, 4, l.crcFail⟩, ⟨12, 4, l.syncMiss⟩, ⟨16, 4, l.lossCount⟩, ⟨20, 4, l.shortRetry⟩,
      ⟨24, 4, l.unmetered⟩, ⟨28, 2, l.status.getD 0⟩] ++
      (List.range 12).flatMap fun i =>
        [⟨32 + 8 * i, 4, (d.chan (12 * n + i)).overSecs⟩, ⟨36 + 8 * i, 4, (d.chan (12 * n + i)).flatCount⟩]) 128

def Dev.inputReported (d : Dev) (x : Nat) : Dev :=
  let m := d.dm x
  let d := d.updDm x fun m => { m with changed := false }
  d.postPod 0x0D (16 + x) (192 + x) [⟨4, 4, m.codeErr⟩, ⟨8, 4, m.lossCount⟩, ⟨12, 4, m.unmetered⟩,
    ⟨16, 4, (d.chan (192 + x)).overSecs⟩, ⟨20, 4, (d.chan (192 + x)).flatCount⟩]

/-- COUNTERS of every link, then of every direct input, that has a change to report. -/
def Dev.linksReported (d : Dev) : Dev := d.each (d.links.keys.filter fun n => (d.link n).changed) Dev.linkReported
def Dev.inputsReported (d : Dev) : Dev := d.each (d.intake.dms.keys.filter fun x => (d.dm x).changed) Dev.inputReported

theorem Tbl.find_none_of_not_mem {α : Type} {k : Nat} {l : List (Nat × α)} (h : k ∉ l.map Prod.fst) : Tbl.find k l = none := by
  induction l with
  | nil => rfl
  | cons p t ih =>
    simp only [List.map_cons, List.mem_cons, not_or] at h
    simp [Tbl.find, Ne.symm h.1, ih h.2]

/-- An index that was never written holds its starting value. -/
theorem Tbl.get_of_not_mem {α : Type} {t : Tbl α} {k : Nat} (h : k ∉ t.keys) (d : α) : t.get k d = d := by
  simp [Tbl.get, Tbl.find_none_of_not_mem (l := t.cells) h]

theorem Dev.linksReported_link (d : Dev) (n : Nat) : d.linksReported.link n = { d.link n with changed := false } := by
  have hclears := Dev.each_clears Dev.link (fun l => { l with changed := false }) (f := Dev.linkReported)
    (fun d n => (Dev.postPod_link ..).trans (Dev.setLink_link_same ..))
    (fun d n m hm => (Dev.postPod_link ..).trans (Dev.setLink_link_other _ hm _)) (fun _ => rfl)
    (d.links.keys.filter fun n => (d.link n).changed) d n
  refine hclears.trans (ite_eq_left_iff.mpr fun hout => ?_)
  have hsame : (d.link n).changed = false := by
    by_cases hkey : n ∈ d.links.keys
    · simpa [hkey] using hout
    · rw [Dev.link, Tbl.get_of_not_mem hkey]
  rw [← hsame]

theorem Dev.inputsReported_dm (d : Dev) (n : Nat) : d.inputsReported.dm n = { d.dm n with changed := false } := by
  have hclears := Dev.each_clears Dev.dm (fun m => { m with changed := false }) (f := Dev.inputReported)
    (fun d n => (Dev.dm_of_intake (Dev.postPod_intake ..) n).trans (Dev.updDm_dm_same ..))
    (fun d n m hm => (Dev.dm_of_intake (Dev.postPod_intake ..) m).trans (Tbl.get_set_other _ hm ..)) (fun _ => rfl)
    (d.intake.dms.keys.filter fun x => (d.dm x).changed) d n
  refine hclears.trans (ite_eq_left_iff.mpr fun hout => ?_)
  have hsame : (d.dm n).changed = false := by
    by_cases hkey : n ∈ d.intake.dms.keys
    · simpa [hkey] using hout
    · rw [Dev.dm, Tbl.get_of_not_mem hkey]
  rw [← hsame]

theorem Dev.linksReported_intake (d : Dev) : d.linksReported.intake = d.intake :=
  Dev.each_keeps Dev.intake (f := Dev.linkReported) (fun _ _ => Dev.postPod_intake ..) _ _
theorem Dev.linksReported_led (d : Dev) : d.linksReported.led = d.led :=
  Dev.each_keeps Dev.led (f := Dev.linkReported) (fun _ _ => Dev.postPod_led ..) _ _
theorem Dev.inputsReported_links (d : Dev) : d.inputsReported.links = d.links :=
  Dev.each_keeps Dev.links (f := Dev.inputReported) (fun _ _ => Dev.postPod_links ..) _ _
theorem Dev.inputsReported_led (d : Dev) : d.inputsReported.led = d.led :=
  Dev.each_keeps Dev.led (f := Dev.inputReported) (fun _ _ => Dev.postPod_led ..) _ _

theorem exec_counters {s : State} (hp : s.dev.pwr.pstate = .run) (hs : s.dev.serving = true) (hq : s.dev.quarterDue 0x31 = true) :
    exec .counters s = s.ok (s.dev.quarter 0x31).linksReported.inputsReported := if_neg (by simp [hp, hs, hq])

/-- Settles O26. -/
theorem directInputs : Obligations.DirectInputs := by
  unfold Obligations.DirectInputs
  intro s x hrun
  refine ⟨fun hmode hlock hgood => ?lock, fun hmode hlock hbad => ?lost, fun hmode hlock hdue => ?align, fun hp hs hq => ?counters⟩
  case lock =>
    have hdm : ∀ e : Dev, e.dm x = { s.dev.dm x with locked := true, alignPosted := none } →
        (if (e.chan (192 + x)).flat then e.updChan (192 + x) fun c => { c with backAt := e.up } else e).dm x =
          { s.dev.dm x with locked := true, alignPosted := none } := fun e he => by split <;> exact he
    have hled : ∀ e : Dev, e.led = s.dev.led →
        (if (e.chan (192 + x)).flat then e.updChan (192 + x) fun c => { c with backAt := e.up } else e).led = s.dev.led :=
      fun e he => by split <;> exact he
    refine Runs.ok _ (if_pos (by simp [hrun, hmode, hlock, hgood])) ⟨?_, ?_, rfl⟩
    · exact (Dev.dm_of_intake (Dev.postChan_intake ..) x).trans (hdm _ (Dev.updDm_dm_same s.dev x fun m => { m with locked := true, alignPosted := none }))
    · exact (Dev.postChan_led ..).trans (hled _ rfl)
  case lost =>
    have hloss := s.dev.inputLost_lossCount x
    refine Runs.ok ((s.dev.inputLost x).updDm x fun m => { m with
      locked := false, unlockedSince := (s.dev.inputLost x).up, alignPosted := none, lossCount := sat32 (m.lossCount + 1)
      changed := true }) (if_pos (by simp [hrun, hmode, hlock, hbad])) ?_
    generalize s.dev.inputLost x = e at hloss ⊢
    have hdm := Dev.updDm_dm_same e x fun m => { m with
      locked := false, unlockedSince := e.up, alignPosted := none, lossCount := sat32 (m.lossCount + 1), changed := true }
    exact ⟨congrArg DirectIn.locked hdm, congrArg DirectIn.alignPosted hdm, congrArg DirectIn.changed hdm,
      (congrArg DirectIn.lossCount hdm).trans (congrArg (fun n => sat32 (n + 1)) hloss), rfl⟩
  case align =>
    have hdue : (match (s.dev.dm x).alignPosted with
        | some t => decide (t + 60 * second ≤ s.dev.up)
        | none => decide ((s.dev.dm x).unlockedSince + second ≤ s.dev.up)) = true := by
      cases h : (s.dev.dm x).alignPosted <;> simpa [h] using hdue
    unfold exec execDmAlignError
    dsimp only
    exact if_pos (by rw [hrun, hmode, hlock]; exact hdue)
  case counters =>
    have hlink : ∀ n, (s.dev.quarter 0x31).linksReported.inputsReported.link n = { s.dev.link n with changed := false } := fun n =>
      (Dev.link_of_links (Dev.inputsReported_links _) n).trans (Dev.linksReported_link ..)
    have hdm : ∀ n, (s.dev.quarter 0x31).linksReported.inputsReported.dm n = { s.dev.dm n with changed := false } := fun n =>
      (Dev.inputsReported_dm ..).trans (by rw [Dev.dm_of_intake (Dev.linksReported_intake _)]; rfl)
    have hled : (s.dev.quarter 0x31).linksReported.inputsReported.led = s.dev.led :=
      (Dev.inputsReported_led _).trans (Dev.linksReported_led _)
    refine Runs.ok _ (exec_counters hp hs hq) ?_
    generalize (s.dev.quarter 0x31).linksReported.inputsReported = e at hlink hdm hled ⊢
    exact ⟨hlink, hdm, hled, rfl⟩

end Sys2Proof.Machine

/-! ## Proofs: samples, reversals and the aux sequencer (chapters 6 and 8) -/

namespace Sys2Proof.Machine

theorem Dev.updPair_pair_same (d : Dev) (a k : Nat) (f : PairRun → PairRun) : (d.updPair a k f).pair a k = f (d.pair a k) := by
  simp [Dev.pair, Dev.updPair, Dev.acct]

/-- Settles O27. -/
theorem samplesAndReversals : Obligations.SamplesAndReversals := by
  unfold Obligations.SamplesAndReversals
  intro s x a k hrun
  refine ⟨fun hfull => ?sample, fun hsoon hst => ?sooner, fun hin hk hdir hrev hlong => ?reverse, fun hrev hlong => ?back⟩
  case sample =>
    have hguard : ¬ (!s.dev.metRuns || s.dev.pwr.smpClocks < sampleClocks) = true := by
      simp [hrun, sampleClocks, Nat.not_lt.mpr hfull]
    refine (if_neg hguard).trans ?_
    have hclocks : sampleClocks = 1536 := rfl
    simp only [Bool.and_eq_true, decide_eq_true_eq, Dev.sampleInstant, hclocks]
  case sooner =>
    have hguard : (!s.dev.metRuns || s.dev.pwr.smpClocks < sampleClocks) = true := by simp [sampleClocks, hsoon]
    exact (if_pos hguard).trans (State.ok_same hst)
  case reverse => exact if_pos (by simp [hrun, hin, hk, hdir, hrev, hlong])
  case back =>
    have hpair := s.dev.updPair_pair_same a k fun p => { p with reversed := false }
    exact Runs.ok (s.dev.updPair a k fun p => { p with reversed := false }) (if_pos (by simp [hrun, hrev, hlong]))
      ⟨hpair, rfl, rfl, rfl⟩

/-! ### The aux sequencer -/

@[simp] theorem Dev.post_aux (d : Dev) (b : RecBody) : (d.post b).aux = d.aux := (congrArg Dev.aux (Dev.post_quiet d b) :)

/-- The result of a conversion leaves the definition, the running run and the one that waits. -/
theorem Dev.auxWrite_runs (d : Dev) (x : AuxConv) : (d.auxWrite x).aux.seq = d.aux.seq ∧ (d.auxWrite x).aux.run = d.aux.run ∧
    (d.auxWrite x).aux.queued = d.aux.queued := by
  unfold Dev.auxWrite
  dsimp only
  split
  · exact ⟨rfl, rfl, rfl⟩
  · simp only [apply_ite Dev.aux, Dev.post_aux, ite_self]
    exact ⟨rfl, rfl, rfl⟩

/-- The edge that a comparator counts. -/
theorem counted_iff (edge : Nat) (rising : Bool) :
    (decide (edge = 2) || decide ((edge = 0) = (rising = true))) = true ↔ edge = 2 ∨ (edge = 0 ↔ rising = true) := by
  simp only [Bool.or_eq_true, decide_eq_true_eq, eq_iff_iff]

/-- Settles O28. -/
theorem auxEvents : Obligations.AuxEvents := by
  unfold Obligations.AuxEvents
  intro s b hseq hrun
  refine ⟨fun n nv tenths hawake hin => ?crossing, fun r nv hr hnext hfree hdue => ?sampled, fun x rest hx hdue => ?result⟩
  case crossing =>
    refine ⟨fun hsame hst => ?same, fun hedge hno => ?silent, fun hedge hcount => ?counted⟩
    all_goals
      unfold exec execCompCrossing
      dsimp only
      rw [hseq]
    case same => exact (if_neg (by simp [hsame])).trans (State.ok_same hst)
    case silent => exact (if_pos (by simpa [hawake, hrun, hin] using hedge)).trans (if_neg ((counted_iff _ _).not.mpr hno))
    case counted => exact (if_pos (by simpa [hawake, hrun, hin] using hedge)).trans (if_pos ((counted_iff _ _).mpr hcount))
  case sampled =>
    unfold exec execAuxConversion Dev.auxSample
    dsimp only
    rw [if_neg (by simp [hrun]), hr, hseq]
    exact if_pos (by simpa [hfree, hdue] using hnext)
  case result =>
    have hexec : exec (.auxConversion .result) s = s.ok (s.dev.auxResult x rest) := by
      unfold exec execAuxConversion
      dsimp only
      rw [if_neg (by simp [hrun]), hx]
      exact if_pos hdue
    obtain ⟨hwseq, hwrun, -⟩ := (s.dev.setAux { s.dev.aux with sampled := rest }).auxWrite_runs x
    replace hwseq : _ = some b := hwseq.trans hseq
    replace hwrun : _ = s.dev.aux.run := hwrun
    refine ⟨fun hother => hexec.trans (congrArg s.ok ?_), fun r hr hnum hlast => hexec.trans (congrArg s.ok ?_)⟩
    all_goals
      unfold Dev.auxResult
      dsimp only
      rw [hwrun, hwseq]
    · cases hr : s.dev.aux.run with
      | none => rfl
      | some r =>
        have hno := hother r hr
        exact if_neg (by simpa [← not_and_or] using hno)
    · rw [hr]
      exact if_pos (by simp [hnum, hlast])

end Sys2Proof.Machine

/-! ## Proofs: serving what waits, and the cycle tracker (chapters 9 and 17) -/

namespace Sys2Proof.Machine

/-- What stands while the rings and the error queue post what waits for them: all that `Dev.still` holds, less PREVIEW_LATE, which a
follow-up that waited counts (R435). -/
def Dev.served (d : Dev) : Dev := { d.still with trk := { d.trk with previewLate := 0 } }

theorem Dev.served_of_still {d e : Dev} (h : d.still = e.still) : d.served = e.served :=
  congrArg (fun q : Dev => { q with trk := { q.trk with previewLate := 0 } }) h

theorem Dev.served_of_quiet {d e : Dev} (h : d.quiet = e.quiet) : d.served = e.served := Dev.served_of_still (Dev.still_of_quiet h)

@[simp] theorem Dev.drainErrors_still (n : Nat) (d : Dev) : (d.drainErrors n).still = d.still := by
  induction n generalizing d with
  | zero => rfl
  | succ n ih =>
    unfold Dev.drainErrors
    split
    · rfl
    · split
      · exact (ih _).trans (Dev.writeError_still ..)
      · rfl

@[simp] theorem Dev.drainLate_served (n r : Nat) (d : Dev) : (d.drainLate r n).served = d.served := by
  induction n generalizing d with
  | zero => rfl
  | succ n ih =>
    unfold Dev.drainLate
    dsimp only
    split
    · rfl
    · split
      · exact (ih _).trans (Dev.served_of_quiet (d := Dev.writeRec _ _ _) (by simp))
      · rfl

@[simp] theorem Dev.serveFilled_served (d : Dev) (r : Nat) : (d.serveFilled r).served = d.served := by
  have hfilled : ∀ (d : Dev) (n m : Nat), ((d.drainOwed r n).drainHeld r m).served = d.served :=
    fun d n m => Dev.served_of_quiet (by simp)
  unfold Dev.serveFilled
  dsimp only
  split <;> simp [hfilled, Dev.served_of_still (Dev.drainErrors_still ..)]

@[simp] theorem Dev.serveAll_served (d : Dev) : d.serveAll.served = d.served := by
  rw [Dev.serveAll, Dev.served_of_still (Dev.drainErrors_still ..)]
  exact Dev.each_keeps Dev.served Dev.serveFilled_served _ _

@[simp] theorem Dev.masteringChanged_served (d : Dev) : d.masteringChanged.served = d.served := by
  have hsent : d.sendPending.served = d.served := Dev.served_of_quiet (by simp)
  unfold Dev.masteringChanged
  dsimp only
  split
  · exact hsent
  · exact (Dev.serveAll_served _).trans hsent

@[simp] theorem Dev.afterSet_served (d : Dev) : d.afterSet.served = d.served := by
  have heach : ∀ (l : List Behind) (e : Dev), (e.each l fun d b => match b with
      | .record r b => d.postNow r b | .completion o => d.finishNow o).quiet = e.quiet := fun l e =>
    Dev.each_keeps Dev.quiet (fun d b => by cases b <;> simp) l e
  have hsettled : ∀ e : Dev, e.quiet = d.quiet → e.settle.served = d.served := fun e he => Dev.served_of_quiet (by simp [he])
  unfold Dev.afterSet
  dsimp only
  split
  · rfl
  · split
    · exact (Dev.serveAll_served _).trans (hsettled _ (heach ..))
    · exact hsettled _ (heach ..)

/-! ### The tracker at a preview -/

theorem Dev.trk_of_quiet {d e : Dev} (h : d.quiet = e.quiet) : d.trk = e.trk := show d.quiet.trk = e.quiet.trk from congrArg Dev.trk h

/-- Tp of the half-cycle in progress stands while what waits is posted. -/
theorem Dev.afterSet_tp (d : Dev) : d.afterSet.trk.tp = d.trk.tp :=
  show d.afterSet.served.trk.tp = d.served.trk.tp from congrArg (fun e => e.trk.tp) d.afterSet_served

theorem Dev.previewTo_tp (d : Dev) (own : Nat → Bool) (b : RecBody) (hcsn : Nat) : (d.previewTo own b hcsn).trk.tp = d.trk.tp := by
  refine Dev.each_keeps (fun e => e.trk.tp) (fun d p => ?_) _ _
  have hpost : (d.postNow p.1 b).trk = d.trk := Dev.trk_of_quiet (by simp)
  dsimp only
  split
  · split <;> simp [hpost]
  · rfl

theorem Dev.eventPreviews_tp (d : Dev) (h : Half) : (d.eventPreviews h).trk.tp = d.trk.tp := by
  unfold Dev.eventPreviews
  split
  · rfl
  · split
    · rfl
    · refine Dev.each_keeps (fun e => e.trk.tp) (fun d k => ?_) _ _
      exact Dev.previewTo_tp ..

/-- The previews of accounts are numbered without touching the tracker. -/
theorem previewsNumbered_trk (d : Dev) (h : Half) (go : List Nat) (bs : List RecBody) :
    (go.foldl (fun (q : Dev × List RecBody) a =>
      let (d, b) := q.1.number (q.1.withHold (q.1.previewRec a h))
      (d, q.2 ++ [b])) (d, bs)).1.trk = d.trk := by
  induction go generalizing d bs with
  | nil => rfl
  | cons a t ih => exact ih _ _

/-- The start of PREVIEW_INSTANT: the test pulse, and Tp. -/
def Dev.previewBegun (d : Dev) : Dev :=
  (d.setTrk { d.trk with tp := some d.up }).emit (.testPulse 2)

/-- While the tracker does not predict, or too few cycles have been confirmed since Backstop, previews are suppressed. -/
def Dev.tooEarly (d : Dev) : Bool := d.trk.state ≠ .predicting || d.pwr.cyclesSinceBackstop < 8

/-- Where the previews are not posted, they are counted as suppressed. -/
theorem exec_previewInstant_suppressed {s : State} {p : Nat} (hrun : s.dev.metRuns = true) (hp : s.dev.trk.predicted = some p)
    (htp : s.dev.trk.tp = none) (hreach : s.dev.reached p = true) :
    let d := s.dev.previewBegun
    let n := s.dev.previewAccounts.length
    (s.dev.tooEarly = true → exec .previewInstant s =
      s.ok (d.setTrk { d.trk with wakeFailed := false, suppTrack := sat32 (d.trk.suppTrack + n) }).afterSet) ∧
    (s.dev.tooEarly = false → s.dev.trk.wakeFailed = true → exec .previewInstant s =
      s.ok (d.setTrk { d.trk with wakeFailed := false, suppWake := sat32 (d.trk.suppWake + n) }).afterSet) := by
  have hguard : ¬ (!(s.dev.metRuns && s.dev.trk.tp.isNone && s.dev.reached p)) = true := by simp [hrun, htp, hreach]
  refine ⟨fun hearly => ?_, fun hlate hfail => ?_⟩
  all_goals
    unfold exec execPreviewInstant
    extract_lets d
    rw [show d.trk.predicted = some p from hp]
    refine (if_neg hguard).trans ?_
  · exact if_pos hearly
  · exact (if_neg (Bool.eq_false_iff.mp hlate)).trans (if_pos hfail)

/-- A set of previews that is posted leaves Tp as it is noted. -/
theorem exec_previewInstant_posted {s : State} {p : Nat} (hrun : s.dev.metRuns = true) (hp : s.dev.trk.predicted = some p)
    (htp : s.dev.trk.tp = none) (hreach : s.dev.reached p = true) (hlate : s.dev.tooEarly = false)
    (hwake : s.dev.trk.wakeFailed = false) :
    ∃ e : Dev, exec .previewInstant s = s.ok e.afterSet ∧ e.trk.tp = some s.dev.up := by
  have hguard : ¬ (!(s.dev.metRuns && s.dev.trk.tp.isNone && s.dev.reached p)) = true := by simp [hrun, htp, hreach]
  generalize hx : exec .previewInstant s = x
  unfold exec execPreviewInstant at hx
  extract_lets d at hx
  rw [show d.trk.predicted = some p from hp] at hx
  replace hx := (if_neg hguard).symm.trans hx
  extract_lets at hx
  replace hx := (if_neg (Bool.eq_false_iff.mp hlate)).symm.trans hx
  replace hx := (if_neg (Bool.eq_false_iff.mp hwake)).symm.trans hx
  split at hx
  · exact ⟨_, hx.symm, rfl⟩
  · split at hx
    next q bs hq =>
    have htrk := congrArg (fun r : Dev × List RecBody => r.1.trk.tp) hq
    have heach : ∀ (e : Dev) (own : Nat → Bool) (n : Nat),
        (e.each bs fun d b => d.previewTo own b n).trk.tp = e.trk.tp := fun e own n =>
      Dev.each_keeps (fun e => e.trk.tp) (fun d b => Dev.previewTo_tp ..) _ _
    refine ⟨_, hx.symm, (Dev.eventPreviews_tp _ _).trans ((heach _ _ _).trans ((heach _ _ _).trans (htrk.symm.trans ?_)))⟩
    exact (congrArg Tracker.tp (previewsNumbered_trk _ _ _ _)).trans (congrArg Tracker.tp (Dev.trk_of_quiet (Dev.wake_quiet _)))

/-- Settles O29. -/
theorem trackerEvents : Obligations.TrackerEvents := by
  unfold Obligations.TrackerEvents
  intro s hrun
  refine ⟨fun inst pos rest hw hacc => ?confirmed, fun hst hlast => ?lost, fun b hb hacc hst hreach => ?free, fun hp hs hq => ?summary,
    fun p hp htp hreach => ?preview, fun t ht hprev hdue => ?retract⟩
  case confirmed =>
    unfold exec execCrossingConfirmed
    dsimp only
    rw [hw]
    exact if_pos (by simp [hrun, hacc])
  case lost => exact if_pos ((Bool.and_eq_true ..).mpr ⟨by simp [hrun, hst], decide_eq_true hlast⟩)
  case free =>
    subst hb
    exact if_pos (by simp [hrun, hacc, hst, hreach])
  case summary => exact if_pos (by simp [hp, hs, hq, hrun])
  case preview =>
    obtain ⟨hsupp, hfailed⟩ := exec_previewInstant_suppressed hrun hp htp hreach
    refine ⟨fun hearly => hsupp (by simpa [Dev.tooEarly] using hearly),
      fun hst hmany hfail => hfailed (by simp [Dev.tooEarly, hst, hmany]) hfail, fun hst hmany hwake => ?_⟩
    obtain ⟨e, he, htp⟩ := exec_previewInstant_posted hrun hp htp hreach (by simp [Dev.tooEarly, hst, hmany]) hwake
    exact Runs.ok _ he ⟨(Dev.afterSet_tp e).trans htp, rfl⟩
  case retract =>
    have hdue : (!s.dev.trk.previews.isEmpty && decide (t + ms 4 ≤ s.dev.up)) = true := by simp [hprev, hdue]
    unfold exec execRetractNoCrossing Dev.noCrossing
    dsimp only
    rw [hrun, ht]
    exact congrArg s.ok (if_pos hdue)

end Sys2Proof.Machine

/-! ## Proofs: power quality (chapters 9 and 10) -/

namespace Sys2Proof.Machine

/-- A request for no block is always served. -/
theorem contest_serves_empty {reqs : List BlockReq} {q : BlockReq} (hq : q ∈ reqs) (hzero : q.blocks = 0) (d : Dev) (cls : Nat) :
    q.no ∈ (d.contest cls reqs).2 := by
  have hfold : ∀ (l : List BlockReq) (z : Nat × List Nat × Option Nat), q.no ∈ z.2.1 ∨ q ∈ l →
      q.no ∈ (l.foldl (fun (z : Nat × List Nat × Option Nat) q =>
        if q.blocks ≤ z.1 then (z.1 - q.blocks, z.2.1 ++ [q.no], z.2.2) else (z.1, z.2.1, z.2.2.or (some q.who))) z).2.1 := by
    intro l
    induction l with
    | nil => simp
    | cons r t ih =>
      intro z hz
      refine ih _ ?_
      rw [List.mem_cons] at hz
      obtain hin | rfl | hrest := hz
      · left
        dsimp only
        split <;> simp [hin]
      · left
        simp [hzero]
      · exact .inr hrest
  refine hfold _ _ (.inr ?_)
  by_cases hlost : d.eng.lost.get? cls = some q.who <;> simp [hq, hlost]

theorem Dev.each_post_harm (l : List RecBody) (d : Dev) : (d.each l Dev.post).pq.harm = d.pq.harm :=
  Dev.each_keeps (fun e => e.pq.harm) (f := Dev.post) (fun d b => show (d.post b).quiet.pq.harm = d.quiet.pq.harm by simp) _ _

/-- HARMONIC_WINDOW drops no record that waited and needs no block. -/
theorem exec_harmonicWindow_empty {s : State} {w : HarmWin} {b : RecBody} (hw : s.dev.pq.harm.closed = some w)
    (hserving : s.dev.serving = true) (hb : s.dev.pq.harm.delayed = [b]) (hlen : b.len = 0) :
    ∃ e : Dev, exec .harmonicWindow s = s.ok e ∧ e.pq.harm.dropped = sat32 s.dev.pq.harm.dropped := by
  generalize hx : exec .harmonicWindow s = x
  unfold exec execHarmonicWindow at hx
  extract_lets d h ask at hx
  rw [show h.closed = some w from hw] at hx
  replace hx := (if_neg (by simp [d, hserving])).symm.trans hx
  split at hx
  next e recs hrecs =>
  extract_lets e' at hx
  split at hx
  next f got hgot =>
  extract_lets has lost late at hx
  have hdelayed : h.delayed = [b] := hb
  have hserved : 2 * b.tenant ∈ got := by
    have hmem := contest_serves_empty (q := ⟨2 * b.tenant + 0, b.tenant, (b.len + 2047) / 2048⟩)
      (reqs := h.delayed.map (ask 0) ++ recs.map (ask 1)) (by simp [hdelayed, ask]) (by simp [hlen]) e' 4
    rw [hgot] at hmem
    exact hmem
  refine ⟨_, hx.symm, (congrArg Harm.dropped (Dev.each_post_harm ..)).trans ?_⟩
  have hlost : lost = [] := by
    simp [lost, has, hdelayed, hserved]
  show sat32 (h.dropped + lost.length) = _
  rw [hlost]
  rfl

/-- A device in service with no staging block free, a harmonic window closed, and one record of no bytes that waited since the window
before. -/
def emptyRecordWaits : Dev :=
  { pwr := { step := .ready, backstop := false }
    host := { accept := 1#64, accepted := 1#64, enable := true, negotiated := true, linkUp := true }
    eng := { quarantined := 1520 }
    pq := { harm := { closed := some { opened := 0, hcsn := 0 }, delayed := [{ ty := 0x20, len := 0 }] } } }

/-- Refutes O30: with no staging block free a record that waited and has no byte asks for none, so it is posted, and not dropped and
counted. -/
theorem not_pqResults : ¬ Obligations.PqResults := by
  unfold Obligations.PqResults
  intro h
  obtain ⟨-, hwindow, -⟩ := h { dev := emptyRecordWaits }
  obtain ⟨-, -, hfull⟩ := hwindow _ rfl
  have hserving : emptyRecordWaits.serving = true := by decide
  obtain ⟨e, hexec, hdropped⟩ := exec_harmonicWindow_empty (s := { dev := emptyRecordWaits }) rfl hserving rfl rfl
  obtain ⟨-, -, hcount, -⟩ := Runs.of_ok hexec (hfull hserving (by decide))
  exact absurd (hcount.symm.trans hdropped) (by decide)

end Sys2Proof.Machine

/-! ## Proofs: pulse outputs, the seal and the tamper inputs (chapters 11, 12 and 15) -/

namespace Sys2Proof.Machine

/-- Where no byte is on its way, the next state is the device given. -/
theorem State.ok_none {s : State} {d : Dev} (h : d.stores = []) : s.ok d = .next { s with dev := d } := by
  rw [State.ok_eq, ← h]

/-! ### Pulse outputs -/

@[simp] theorem Dev.updPulse_pulse_same (d : Dev) (o : Nat) (f : Pulse → Pulse) : (d.updPulse o f).pulse o = f (d.pulse o) :=
  Tbl.get_set_same ..

theorem Dev.postPulse_quiet (d : Dev) (event : Nat) (fs : List Fld) (len : Nat) : (d.postPulse event fs len).quiet = d.quiet :=
  Dev.post_quiet ..
theorem Dev.postPulse_led (d : Dev) (event : Nat) (fs : List Fld) (len : Nat) : (d.postPulse event fs len).led = d.led :=
  Dev.post_led ..
theorem Dev.postPulse_pulse (d : Dev) (event : Nat) (fs : List Fld) (len o : Nat) : (d.postPulse event fs len).pulse o = d.pulse o :=
  (congrArg (fun e => e.pulses.get o {}) (Dev.postPulse_quiet d event fs len) :)

/-- A width that has run, of an output in service. -/
theorem exec_pulseWidthEnd {s : State} {o : Fin 8} (hrun : s.dev.metRuns = true) (hs : (s.dev.pulse o).shorted = false)
    (hend : (s.dev.pulse o).ended s.dev.up = true) (hcal : plsCal (s.dev.pulse o).block = false) :
    ((s.dev.pulse o).phase = .active → exec (.pulseWidthEnd o) s = s.ok (s.dev.pulseStop o s.dev.up)) ∧
    ((s.dev.pulse o).phase = .rest → s.dev.pulsePending o = 0 →
      exec (.pulseWidthEnd o) s = s.ok (s.dev.updPulse o fun p => { p with phase := .idle })) ∧
    ((s.dev.pulse o).phase = .rest → s.dev.pulsePending o ≠ 0 → exec (.pulseWidthEnd o) s =
      let d := s.dev.setPending o (s.dev.pulsePending o - 1)
      let d := if s.dev.pulsePending o = 1 then d.updPulse o fun p => { p with zeroSince := some d.up } else d
      s.ok (d.pulseStart o d.up)) := by
  refine ⟨fun hph => ?_, fun hph hn => ?_, fun hph hn => ?_⟩
  all_goals
    unfold exec execPulseWidthEnd
    dsimp only
    rw [if_neg (by simp [hrun, hs, hend, hph]), if_neg (by simp [hcal]), hph]
  · exact if_pos hn
  · exact if_neg hn

/-- Settles O31. -/
theorem pulseEvents : Obligations.PulseEvents := by
  unfold Obligations.PulseEvents
  intro s o hst
  refine ⟨fun hrun hs hend hcal => ?width, fun t hrun hz hsat hn hdue => ?saturated,
    fun tenths hrun => ⟨fun hs hlong => ?short, fun hs hre ht => ?redrive⟩, fun hrun hs hre hdue => ?retry, fun hrun hs hre hdue => ?clear,
    fun hp hsv hq => ?summary⟩
  case width =>
    obtain ⟨hactive, hidle, hnext⟩ := exec_pulseWidthEnd hrun hs hend hcal
    refine ⟨fun hph => (hactive hph).trans (State.ok_none hst), fun hph hn => (hidle hph hn).trans (State.ok_none hst),
      fun hph hn => ?_, fun hph hn => ?_⟩
    · refine (hnext hph (by omega)).trans ?_
      rw [hn]
      rfl
    · exact (hnext hph (by omega)).trans (congrArg (fun d : Dev => s.ok (d.pulseStart o d.up)) (if_neg (by omega)))
  case saturated =>
    have hexec : exec (.pulseSaturatedEnd o) s = s.ok ((s.dev.updPulse o fun p => { p with saturated := false, zeroSince := none }).postPulse
        0x71 [⟨2, 1, o⟩, ⟨4, 4, (s.dev.up - (s.dev.pulse o).satSince) * 1000 / 2 ^ 30⟩, ⟨8, 4, (s.dev.pulse o).satEmitted⟩]) := by
      unfold exec execPulseSaturatedEnd
      dsimp only
      rw [hz]
      exact if_pos (by simp [hrun, hsat, hn, hdue])
    exact Runs.ok _ hexec ⟨(Dev.postPulse_pulse ..).trans (Dev.updPulse_pulse_same ..), Dev.postPulse_led .., rfl⟩
  case short =>
    have hexec : exec (.pulseShort o tenths) s = s.ok (((s.dev.updPulse o fun p => { p with
        shorted := true, redriving := false, shortAt := s.dev.up, phase := .idle, level := false }).emit (.pulseHighZ o)).postPulse
          0x72 [⟨2, 1, o⟩]) :=
      (if_neg (by simp [hrun]; omega)).trans ((if_neg (by simp [hs])).trans (if_neg (by omega)))
    have hpulse := s.dev.updPulse_pulse_same o fun p => { p with
      shorted := true, redriving := false, shortAt := s.dev.up, phase := .idle, level := false }
    exact Runs.ok _ hexec ⟨(Dev.postPulse_pulse ..).trans hpulse, Dev.postPulse_led .., rfl⟩
  case redrive =>
    have hexec : exec (.pulseShort o tenths) s =
        s.ok ((s.dev.updPulse o fun p => { p with redriving := false }).emit (.pulseHighZ o)) :=
      (if_neg (by simp [hrun, ht])).trans ((if_pos hs).trans (congrArg s.ok (if_pos hre)))
    have hpulse := s.dev.updPulse_pulse_same o fun p => { p with redriving := false }
    exact Runs.ok _ hexec ⟨hpulse, rfl, rfl, rfl⟩
  case retry =>
    have hexec : exec (.pulseShortRetry o) s = s.ok ((s.dev.updPulse o fun p => { p with
        redriving := true, shortAt := s.dev.up }).emit (.pulse o false (plsLow (s.dev.pulse o).block))) :=
      if_pos (by simp [hrun, hs, hre, hdue])
    have hpulse := s.dev.updPulse_pulse_same o fun p => { p with redriving := true, shortAt := s.dev.up }
    exact Runs.ok _ hexec ⟨hpulse, rfl, rfl, rfl⟩
  case clear =>
    have hexec : exec (.pulseShortClear o) s = s.ok ((s.dev.updPulse o fun p => { p with
        shorted := false, redriving := false, phase := .rest, since := 0, width := 0, calPulse := false }).postPulse
          0x73 [⟨2, 1, o⟩, ⟨4, 4, s.dev.pulsePending o⟩]) := if_pos (by simp [hrun, hs, hre, hdue])
    exact Runs.ok _ hexec ⟨(Dev.postPulse_pulse ..).trans (Dev.updPulse_pulse_same ..), Dev.postPulse_led .., rfl⟩
  case summary => exact if_pos (by simp [hp, hsv, hq])

/-! ### The seal -/

theorem Dev.announce_led (d : Dev) (kind index detect : Nat) (start : DevTime) : (d.announce kind index detect start).led = d.led := by
  unfold Dev.announce
  dsimp only
  split
  · rfl
  · exact (congrArg Dev.led (Dev.postAfterCommit_quiet _ _) :)

/-- A tamper writes its slot of the working values, and nothing else of the ledger. -/
theorem Dev.tamper_led (d : Dev) (kind index : Nat) (start : DevTime) : (d.tamper kind index start).led =
    { d.led with work := { d.led.work with tamper := (d.tamper kind index start).led.work.tamper } } := by
  have h : (d.tamper kind index start).led = (d.setTamper (tamperSlot kind index)
      ((d.led.work.tamper.get (tamperSlot kind index) {}).take 1 start start)).led := Dev.announce_led ..
  rw [h]
  rfl

theorem Dev.tamper_cal (d : Dev) (kind index : Nat) (start : DevTime) : (d.tamper kind index start).cal = d.cal :=
  (congrArg Dev.cal (Dev.tamper_calm d kind index start) :)

/-- The seal opens: SEALED goes to 0, and the SEAL block takes the time. -/
def Dev.unsealed (d : Dev) : Dev :=
  ({ d with cal := { d.cal with calEn := true, sealed := false } } : Dev).setWork
    { d.led.work with sealBlk := { d.led.work.sealBlk with lastOpen := d.now } }

/-- Settles O32. -/
theorem sealPin : Obligations.SealPin := by
  unfold Obligations.SealPin
  intro s
  refine ⟨fun micros hu hsealed hlong hsince => ?opens, fun hawake hst => (if_pos hawake).trans (State.ok_none hst)⟩
  have hexec : exec (.sealOpen micros) s = s.ok (s.dev.unsealed.tamper 0x06 0 s.dev.now) :=
    have hguard : (s.dev.cal.sealed && micros ≥ 100000 && s.dev.since s.dev.pwr.recallAt (ms 100)) = true := by
      simp [hsealed, hlong, hsince]
    (if_neg (by simp [hu])).trans (if_pos hguard)
  have hled := s.dev.unsealed.tamper_led 0x06 0 s.dev.now
  have hcal := s.dev.unsealed.tamper_cal 0x06 0 s.dev.now
  have hstore := s.dev.unsealed.tamper_store 0x06 0 s.dev.now
  refine Runs.ok _ hexec ?_
  generalize s.dev.unsealed.tamper 0x06 0 s.dev.now = e at hled hcal hstore ⊢
  exact ⟨hcal, (congrArg (fun l : Ledger => l.work.sealBlk.lastOpen) hled :), (congrArg Ledger.last hled :), hstore, rfl⟩

/-! ### The tamper inputs -/

/-- Settles O33. -/
theorem tamperChecks : Obligations.TamperChecks := by
  unfold Obligations.TamperChecks
  intro s
  refine ⟨fun mv hvdd hlast => ?battery, fun inputs calEn hdue => if_neg (by simp [hdue]), fun hp hs hq => if_pos (by simp [hp, hs, hq])⟩
  have hdue : ∀ due : Bool, (due = match s.dev.tam.lastCheck with | some t => decide (t + ms 250 ≤ s.dev.up) | none => true) →
      ¬ (!((s.dev.awake || s.dev.pwr.pstate = .hold) && due)) = true := by
    rintro due rfl
    have hin : (s.dev.awake || s.dev.pwr.pstate = .hold) = true := by simpa using hvdd
    cases h : s.dev.tam.lastCheck with
    | none => simp [hin]
    | some t => simp [hin, hlast t h]
  refine ⟨fun hlost hlow hfew => ?low, fun hlost hlow hmany => ?condition, fun hlost hhigh hmany => ?ended, fun hlost hlow => ?still⟩
  case low => 
    have hexec : exec (.batteryCheck mv) s = s.ok _ :=
      (if_neg (hdue _ rfl)).trans ((if_pos (by simp [hlost])).trans ((if_pos hlow).trans (if_neg (by simp; omega))))
    exact Runs.ok _ hexec ⟨rfl, rfl⟩
  case condition =>
    have hexec : exec (.batteryCheck mv) s = s.ok _ :=
      (if_neg (hdue _ rfl)).trans ((if_pos (by simp [hlost])).trans ((if_pos hlow).trans (if_pos (by simp; omega))))
    exact Runs.ok _ hexec ⟨rfl, rfl, rfl⟩
  case ended =>
    have hexec : exec (.batteryCheck mv) s = s.ok _ :=
      (if_neg (hdue _ rfl)).trans ((if_neg (by simp [hlost])).trans ((if_pos hhigh).trans (if_pos (by simp; omega))))
    have htam : ∀ d : Dev, (d.postEnd 0x0C 0 0).tam = d.tam := fun d => (congrArg Dev.tam (Dev.post_quiet d _) :)
    have hbat := htam { s.dev with tam := { s.dev.tam with
      lastCheck := some s.dev.up, batLost := false, batLowRun := 0, batOkRun := 0 } }
    exact Runs.ok _ hexec ⟨congrArg TamperUnit.batLost hbat, congrArg TamperUnit.batOkRun hbat⟩
  case still =>
    have hexec : exec (.batteryCheck mv) s = s.ok _ :=
      (if_neg (hdue _ rfl)).trans ((if_neg (by simp [hlost])).trans (if_neg (by omega)))
    exact Runs.ok _ hexec rfl

end Sys2Proof.Machine

/-! ## Proofs: the tariff engine and the second (chapters 10 and 13) -/

namespace Sys2Proof.Machine

/-- The hold of a grid state that has run out, as GRID_FALLBACK judges it. -/
theorem Dev.gridExpired_of {d : Dev} (harr : d.tariff.arrival = none) (hsrc : d.led.work.device.gridSource ≠ 2)
    (hheld : ∀ t, d.tariff.arrivedAt = some t → t + (d.holdMin * 60 * second : Nat) ≤ d.up) : d.gridExpired = true := by
  unfold Dev.gridExpired
  cases h : d.tariff.arrivedAt with
  | none => simp [harr, hsrc]
  | some t => simpa [harr, hsrc] using hheld t h

/-- A tariff engine whose notes of step 5 are as a tick would write them, but for the slot. -/
theorem Tariff.noted_eq {t : Tariff} {off dm : _} (hrestart : t.restart = false) (hwas : t.wasInvalid = false)
    (hoff : t.lastOffset = some off) (hdm : t.lastDemandMin = some dm) :
    ({ t with restart := false, wasInvalid := false, lastOffset := some off, lastDemandMin := some dm } : Tariff) = t := by
  rw [← hoff, ← hdm]
  cases t
  simp_all

/-- The plan of step 5 at a tick that only passes a demand boundary. -/
theorem Dev.demandPlan_boundary {d : Dev} {slot : _} {off : _} {dm : _} (hstand : d.ratesStand = true)
    (hvalid : d.pwr.timeInvalid = false) (hrestart : d.tariff.restart = false) (hwas : d.tariff.wasInvalid = false)
    (hoff : d.tariff.lastOffset = some off) (hoffset : off = d.localOffset) (hdm : d.tariff.lastDemandMin = some dm)
    (hdemand : dm = tarDemandMin d.section_) (hslot : d.tariff.lastSlot = some slot) (hpassed : slot ≠ d.demandSlot) :
    d.demandPlan = (d.setTariff { d.tariff with lastSlot := some d.demandSlot }, .boundary) := by
  have hrate : ¬ d.rate0 = true := by
    unfold Dev.ratesStand at hstand
    simp only [Bool.and_eq_true, Bool.not_eq_true'] at hstand
    simp [hstand.1.2]
  have hgo : (d.tariff.restart || d.tariff.lastOffset.any (fun o => o ≠ d.localOffset) ||
      d.tariff.lastDemandMin.any (fun m => m ≠ tarDemandMin d.section_) || d.tariff.wasInvalid) = false := by
    simp [hrestart, hwas, hoff, hdm, hoffset, hdemand]
  have hslotPassed : d.slotPassed = true := by simp [Dev.slotPassed, hslot, hpassed]
  unfold Dev.demandPlan
  dsimp only
  rw [if_neg hrate, hgo, hvalid, if_neg Bool.false_ne_true, if_neg Bool.false_ne_true, if_pos hslotPassed, ← hoffset, ← hdemand]
  exact congrArg (fun t : Tariff => (d.setTariff { t with lastSlot := some d.demandSlot }, DemandClose.boundary))
    (Tariff.noted_eq hrestart hwas hoff hdm)

/-- The reason of a load limit that ends, and the accounts it leaves. -/
theorem Dev.reclose_tst (d : Dev) (a : Nat) : ((d.reclose a).openBlk a).tst = { (d.openBlk a).tst with
    openReasons := (d.openBlk a).tst.openReasons &&& 5, llCount := 0, recloseLeft := 0 } :=
  congrArg OpenBlk.tst (Dev.updOpen_openBlk_same ({ d with accts := d.accts.set a { d.acct a with llLimit := 0 } } : Dev) a _)

theorem Dev.reclose_other (d : Dev) {a b : Nat} (hb : b ≠ a) : (d.reclose a).openBlk b = d.openBlk b :=
  Dev.updOpen_openBlk_other ({ d with accts := d.accts.set a { d.acct a with llLimit := 0 } } : Dev) hb _

/-- Settles O34. -/
theorem tariffEvents : Obligations.TariffEvents := by
  unfold Obligations.TariffEvents
  intro s hstill
  refine ⟨fun hheld hsrc harr => ?fallback,
    fun slot off dm hstand harr hvalid hrestart hwas hoff hoffset hdm hdemand hslot hpassed => ?demand,
    fun hstand harr hfriendly hplan => ?friendly, fun a hstand heval hends hopen hleft => ?reclose⟩
  case fallback => exact if_pos (by simp [hstill, Dev.gridExpired_of harr hsrc hheld])
  case demand =>
    have hplan := Dev.demandPlan_boundary hstand hvalid hrestart hwas hoff hoffset hdm hdemand hslot hpassed
    unfold exec execDemandIntervalClose
    dsimp only
    rw [hplan]
    exact if_pos (by simp [hstill, hstand, harr])
  case friendly => exact if_pos (by simp [hstill, hstand, harr, hfriendly, hplan])
  case reclose =>
    have hexec : exec (.loadReclose a) s = s.ok (s.dev.reclose a) := if_pos (by simp [hstill, hstand, heval, hends, hopen, hleft])
    exact Runs.ok _ hexec ⟨s.dev.reclose_tst a, fun b hb => s.dev.reclose_other hb, rfl, rfl⟩

/-! ### The second -/

theorem Tbl.find_map {α β : Type} (f : α → β) (k : Nat) (l : List (Nat × α)) :
    Tbl.find k (l.map fun p => (p.1, f p.2)) = (Tbl.find k l).map f := by
  induction l with
  | nil => rfl
  | cons p t ih =>
    by_cases h : p.1 = k <;> simp [Tbl.find, h, ih]

/-- A table changed throughout holds the changed value, where the starting value is one that the change keeps. -/
theorem Tbl.get_mapV {α : Type} {f : α → α} {d : α} (t : Tbl α) (h : f d = d) (k : Nat) : (t.mapV f).get k d = f (t.get k d) := by
  unfold Tbl.get Tbl.mapV
  dsimp only
  rw [Tbl.find_map]
  cases Tbl.find k t.cells <;> simp [h]

/-- Settles O35. -/
theorem secondEvents : Obligations.SecondEvents := by
  unfold Obligations.SecondEvents
  intro s hrun
  refine ⟨fun x hx hacc => ?boundary, fun hp hs hon hq => ?summary⟩
  case boundary =>
    unfold exec execSecondBoundary
    dsimp only
    rw [hx]
    exact if_neg (by simp [hrun, hacc])
  case summary =>
    have hexec : exec .balanceSummary s = s.ok _ := if_pos (by simp [hp, hs, hon, hq, hrun])
    refine Runs.ok _ hexec ⟨rfl, Dev.post_led .., rfl, fun p => ?_⟩
    have hbal : ∀ (d : Dev) (b : RecBody), (d.post b).pq.bal = d.pq.bal := fun d b =>
      (congrArg (fun e => e.pq.bal) (Dev.post_quiet d b) :)
    exact (Tbl.get_mapV _ rfl p).trans (congrArg (fun t : Tbl BalPhase =>
      ({ t.get p {} with evalN := 0, devN := 0, sumD := 0, sumLargest := 0 } : BalPhase)) (hbal (s.dev.quarter 0x14) _))

end Sys2Proof.Machine

/-! ## Proofs: the power states, power-up and the clocks -/

namespace Sys2Proof.Machine

/-! ### MCLK edges only drive balls -/

theorem Dev.emit_eq (d : Dev) (o : Out) : d.emit o = { d with out := (d.emit o).out } := rfl

theorem Dev.mclkEdges_eq (d old : Dev) : d.mclkEdges old = { d with out := (d.mclkEdges old).out } := by
  unfold Dev.mclkEdges
  simp only [Dev.each, List.foldl]
  (repeat' split) <;> rfl

/-- MCLK does not move where the metrology domain ran neither before nor after. -/
theorem Dev.mclkEdges_of_stopped {d old : Dev} (hd : d.metRuns = false) (hold : old.metRuns = false) : d.mclkEdges old = d := by
  simp [Dev.mclkEdges, Dev.each, Dev.mclkOut, hd, hold]

theorem Dev.awake_of_pstate {d : Dev} {p : PState} (h : d.pwr.pstate = p) (hrun : p ≠ .run) (hdoze : p ≠ .doze) : d.awake = false := by
  simp [Dev.awake, h, hrun, hdoze]

/-! ### HOLD, BACKUP and OFF -/

/-- Settles O11: MCLK stands still over these moves, so each is the update it names. -/
theorem backupAndOff : Obligations.BackupAndOff := by
  unfold Obligations.BackupAndOff
  intro s hstores
  refine ⟨fun hhold hfinal => ?_, fun hbackup => ?_, fun hbackup => ?_⟩
  · have hwas : s.dev.metRuns = false := by simp [Dev.metRuns, Dev.awake, hhold, hfinal]
    let d : Dev := { s.dev with
      pwr := { s.dev.pwr with pstate := .backup, backupTime := if s.dev.pwr.backupTime = 0 then s.dev.now else s.dev.pwr.backupTime }
      tam := { s.dev.tam with batLowRun := 0, batOkRun := 0 } }
    have hexec : exec .backupEntry s = s.ok d.alignWindows := by
      refine (if_neg (not_not.2 hhold)).trans (congrArg s.ok ?_)
      simp only [hfinal, if_true]
      refine (Dev.mclkEdges_of_stopped (by simp [Dev.metRuns, Dev.alignWindows, Dev.awake]) hwas).trans ?_
      rw [← hfinal]
    refine Runs.ok _ hexec ?_
    simp only [d, Dev.alignWindows, hstores]
  · have hexec : exec .backupExit s =
        s.ok ({ s.dev with pwr := { s.dev.pwr with pstate := .hold }, tw := { lastUse := s.dev.up } } : Dev).alignWindows := if_pos hbackup
    refine Runs.ok _ hexec ?_
    simp only [Dev.alignWindows, hstores]
  · exact (if_pos hbackup).trans (State.ok_none hstores)

/-- HOLD's own part of the power unit, whatever its ways. -/
theorem Dev.enterHold_pwr (d : Dev) :
    d.enterHold.pwr.pstate = .hold ∧ d.enterHold.pwr.fastOn = false ∧ d.enterHold.pwr.mainsOk = false ∧
      (d.pwr.metClock = false ∨ d.pwr.step = .ready → d.enterHold.pwr.accum = false) ∧ d.enterHold.pwr.wasHeld = true ∧
      d.enterHold.pwr.holdTime = (if d.pwr.wasHeld then d.pwr.holdTime else d.now) := by
  unfold Dev.enterHold
  dsimp only
  split
  · simp
  · rename_i hclock
    split
    · rename_i hstep
      simp_all
    · simp

theorem Dev.toHold_pwr (d : Dev) : d.toHold.pwr = d.enterHold.pwr := by
  unfold Dev.toHold
  rw [Dev.mclkEdges_eq]

/-- Settles O12, by the power unit that `enterHold` leaves: MCLK's edges change none of it. -/
theorem holdBegins : Obligations.HoldBegins := by
  unfold Obligations.HoldBegins
  intro s vdd33 tenths
  obtain ⟨hhold, hfast, hmains, haccum, hwas, htime⟩ := s.dev.enterHold_pwr
  rw [← Dev.toHold_pwr] at hhold hfast hmains haccum hwas htime
  refine ⟨fun hawake hclock hlow => ?_, fun hshort hvdd hstores => ?_, fun hlong hawake hclock => ?_, fun hlong hpstate hstores => ?_⟩
  · have hexec : exec (.holdEntry vdd33 tenths) s = s.ok s.dev.toHold :=
      (if_neg (by rcases hclock with h | h <;> simp [hawake, h])).trans (if_pos (by simpa using hlow))
    refine Runs.ok _ hexec ?_
    generalize s.dev.toHold = e at hhold hfast hmains haccum hwas htime ⊢
    exact ⟨hhold, hfast, hmains, haccum, hwas, htime, rfl⟩
  · have hexec : exec (.holdEntry vdd33 tenths) s = s.ok s.dev := by
      by_cases hskip : (!s.dev.awake || (!s.dev.pwr.metClock && !decide (vdd33 < 3050))) = true
      · exact if_pos hskip
      · exact (if_neg hskip).trans ((if_neg (by simp; omega)).trans (if_pos hshort))
    exact hexec.trans (State.ok_none hstores)
  · have hexec : exec (.vddaLow tenths) s = s.ok { s.dev.toHold with pwr := { s.dev.toHold.pwr with vddaHeld := true } } :=
      (if_neg (by omega)).trans (if_pos (by simp [hawake, hclock]))
    refine Runs.ok _ hexec ?_
    generalize s.dev.toHold = e at hhold hfast ⊢
    exact ⟨hhold, rfl, hfast, rfl⟩
  · have hexec : exec (.vddaLow tenths) s = s.ok { s.dev with pwr := { s.dev.pwr with vddaHeld := true } } :=
      (if_neg (by omega)).trans ((if_neg (by simp [Dev.awake, hpstate])).trans (if_pos hpstate))
    exact hexec.trans (State.ok_none hstores)

end Sys2Proof.Machine

/-! ## Proofs: power-up begins, the clocks, DOZE and the fast domain -/

namespace Sys2Proof.Machine

/-! ### Power-up -/

theorem Dev.each_emit {α : Type} (l : List α) (f : α → Out) (d : Dev) :
    (d.each l fun e x => e.emit (f x)) = { d with out := (d.each l fun e x => e.emit (f x)).out } := by
  induction l generalizing d with
  | nil => rfl
  | cons x xs ih =>
    have hstep : d.each (x :: xs) (fun e x => e.emit (f x)) = (d.emit (f x)).each xs fun e x => e.emit (f x) := rfl
    rw [hstep, ih (d.emit (f x))]
    rfl

/-- What the always-on domain and the stores keep, as step 3 of Table 2.5 begins with mains present. -/
def Dev.kept (d : Dev) : Dev := { d.keptOver with pwr := { d.keptOver.pwr with mainsOk := true, backSince := d.now } }

/-- The pulse outputs go low, and MCLK moves where it must. -/
def Dev.ballsAtPowerUp (d was : Dev) : Dev := (d.each (List.range 8) fun e o => e.emit (.pulse o false false)).mclkEdges was

theorem Dev.ballsAtPowerUp_eq (d was : Dev) : d.ballsAtPowerUp was = { d with out := (d.ballsAtPowerUp was).out } := by
  unfold Dev.ballsAtPowerUp
  rw [Dev.mclkEdges_eq, Dev.each_emit]

/-- The power unit as power-up begins. -/
def Dev.begins (d : Dev) : Power :=
  let p := d.kept.pwr
  if d.pwr.wasHeld then { p with coarse := false, timeInvalid := p.timeInvalid || p.rcLong, rcLong := false, rcTicks := 0 }
  else { p with coarse := false }

theorem Dev.powerUp_eq {d : Dev} (h : d.pwr.testmode = false) :
    d.powerUp true = { d.keptOver with pwr := d.begins, out := (d.kept.ballsAtPowerUp d).out } := by
  have hshape : d.powerUp true =
      ({ d.kept.ballsAtPowerUp d with pwr := { (d.kept.ballsAtPowerUp d).pwr with coarse := false } } : Dev).when
        (d.kept.ballsAtPowerUp d).pwr.wasHeld Dev.judgeRc := by
    refine if_pos ?_
    have htest : (d.kept.ballsAtPowerUp d).pwr.testmode = false := by rw [Dev.ballsAtPowerUp_eq]; exact h
    show (true && !(d.kept.ballsAtPowerUp d).pwr.testmode) = true
    rw [htest]
    rfl
  rw [hshape, Dev.ballsAtPowerUp_eq]
  generalize (d.kept.ballsAtPowerUp d).out = o
  have hwas : d.kept.pwr.wasHeld = d.pwr.wasHeld := rfl
  unfold Dev.begins Dev.when
  rw [hwas]
  cases d.pwr.wasHeld <;> rfl

/-- The power unit at the beginning of power-up: RUN, step 3, power-up Backstop, with the RTC value kept. -/
theorem Dev.begins_pwr (d : Dev) :
    d.begins.pstate = .run ∧ d.begins.step = .configRecall ∧ d.begins.backstop = true ∧ d.begins.cause = 1 ∧ d.begins.fastOn = false ∧
      d.begins.accum = false ∧ d.begins.rtc = d.pwr.rtc ∧ d.begins.mcount = d.pwr.mcount ∧ d.begins.coarse = false ∧
      d.begins.lostOwed = d.pwr.lostOwed ∧ d.begins.hostmode = d.pwr.hostmode ∧
      d.begins.timeInvalid = (d.pwr.timeInvalid || (d.pwr.wasHeld && d.pwr.rcLong)) := by
  unfold Dev.begins
  dsimp only
  cases hwas : d.pwr.wasHeld
  · refine ⟨rfl, rfl, rfl, rfl, rfl, rfl, rfl, rfl, rfl, rfl, rfl, ?_⟩
    simp [Dev.kept, Dev.keptOver]
  · refine ⟨rfl, rfl, rfl, rfl, rfl, rfl, rfl, rfl, rfl, rfl, rfl, ?_⟩
    simp [Dev.kept, Dev.keptOver]

/-- What a command that ends in a power-up completes with. -/
theorem Runs.powerUp {c : Instr} {s : State} {P : State → Prop} (d : Dev) (h : exec c s = s.fresh (d.powerUp true))
    (htest : d.pwr.testmode = false)
    (hp : ∀ o, P { s with dev := { d.keptOver with pwr := d.begins, out := o, stores := [] }, boot := [] }) : Runs c s P := by
  refine Runs.fresh _ h ?_
  rw [Dev.powerUp_eq htest]
  exact hp _

/-! ### A write cut short -/

/-- The device less the config store, the free values and what `Dev.still` leaves out. -/
def Dev.flash (d : Dev) : Dev := { d.still with store := {}, free := 0 }

theorem Dev.flash_of_still {d e : Dev} (h : d.still = e.still) : d.flash = e.flash :=
  congrArg (fun q : Dev => { q with store := {}, free := 0 }) h

theorem Dev.store_flash (d : Dev) (x : ConfigStore) : ({ d with store := x } : Dev).flash = d.flash := rfl
@[simp] theorem Dev.draw_flash (d : Dev) : d.draw.1.flash = d.flash := rfl

theorem Dev.dropSectors_flash (d : Dev) (g : Nat) (ss : List Nat) : (d.dropSectors g ss).flash = d.flash := rfl
theorem Dev.putBadKey_flash (d : Dev) : d.putBadKey.flash = d.flash := rfl

@[simp] theorem Dev.raise_flash (d : Dev) (e : Err) : (d.raise e).flash = d.flash := Dev.flash_of_still (by simp)

theorem Dev.retireSector_flash (d : Dev) (g s : Nat) : (d.retireSector g s).flash = d.flash := by
  unfold Dev.retireSector
  dsimp only
  split
  · rfl
  · split
    · rfl
    · split
      · rfl
      · rw [Dev.raise_flash]
        rfl

theorem Dev.beginErase_flash (d : Dev) (g : Nat) (ss : List Nat) : (d.beginErase g ss).flash = d.flash :=
  Dev.each_keeps Dev.flash (fun d s => d.retireSector_flash g s) _ _

theorem Dev.makeRoom_flash (d : Dev) (g : Nat) : (d.makeRoom g).flash = d.flash := by
  unfold Dev.makeRoom
  dsimp only
  split
  · rfl
  · rw [Dev.dropSectors_flash]
    exact Dev.each_keeps Dev.flash (fun d s => d.retireSector_flash g s) _ _

theorem Dev.programSlot_flash (d : Dev) (g : Nat) (payload : List Byte) (done : Bool) :
    (d.programSlot g payload done).flash = d.flash := by
  refine Eq.trans ?_ (d.makeRoom_flash g)
  unfold Dev.programSlot
  dsimp only
  split
  · rw [Dev.beginErase_flash]
    rfl
  · rfl

theorem foldl_fst_flash {α β : Type} {f : Dev × β → α → Dev × β} (hf : ∀ p x, (f p x).1.flash = p.1.flash) (l : List α)
    (p : Dev × β) : (l.foldl f p).1.flash = p.1.flash := by
  induction l generalizing p with
  | nil => rfl
  | cons x xs ih => exact (ih (f p x)).trans (hf p x)

theorem Dev.cutSlot_flash (d : Dev) (g : Nat) (x : Slot) : (d.cutSlot g x).1.flash = d.flash := by
  unfold Dev.cutSlot
  dsimp only
  split <;> rfl

theorem Dev.cutErases_flash (d : Dev) : d.cutErases.flash = d.flash := by
  unfold Dev.cutErases
  split
  · rfl
  · dsimp only
    rw [Dev.store_flash]
    refine Dev.each_keeps Dev.flash (fun d g => ?_) _ _
    rw [Dev.store_flash]
    exact foldl_fst_flash (f := fun (p : Dev × List Slot) x => ((p.1.cutSlot g x).1, p.2 ++ (p.1.cutSlot g x).2))
      (fun p x => p.1.cutSlot_flash g x) _ _

/-- A config store that stops raises errors at most: nothing else outside it changes. -/
theorem Dev.cutConfig_flash (d : Dev) : d.cutConfig.flash = d.flash := by
  unfold Dev.cutConfig
  dsimp only
  rw [Dev.store_flash, Dev.cutErases_flash]
  split
  · rfl
  · split
    · rfl
    · split
      · rfl
      · rw [Dev.store_flash, Dev.programSlot_flash]
        rfl

theorem Dev.cutLedger_eq (d : Dev) : d.cutLedger = { d with led := d.cutLedger.led, free := d.cutLedger.free } := by
  unfold Dev.cutLedger
  split <;> rfl

theorem Dev.cutLedger_none {d : Dev} (h : d.led.writing = none) : d.cutLedger = d := by
  unfold Dev.cutLedger
  rw [h]

/-! ### The commands that begin power-up -/

/-- Settles O13: each ends in `powerUp`, which keeps what `keptOver` names and starts the rest afresh. -/
theorem powerUpBegins : Obligations.PowerUpBegins := by
  unfold Obligations.PowerUpBegins
  intro s p micros begun
  have hbegun (d : Dev) (o : List Out) :
      begun { s with dev := { d.keptOver with pwr := d.begins, out := o, stores := [] }, boot := [] } := by
    obtain ⟨hrun, hstep, hback, hcause, hfast, haccum, _⟩ := d.begins_pwr
    exact ⟨hrun, hstep, hback, hcause, hfast, haccum, rfl, rfl, rfl, rfl, rfl⟩
  refine ⟨fun vdd33 vdda hhold hfinal hclock htest hlong hvdd hvdda => ?_, fun hawake hclock htest => ?_,
    fun hoff hbackup hlong htest => ?_, fun hoff htest => ?_⟩
  · have hexec : exec (.holdExit micros vdd33 vdda) s = s.fresh (s.dev.powerUp true) := if_pos (by
      cases hheld : s.dev.pwr.vddaHeld
      · simp [hhold, hfinal, hclock, htest, hlong, hvdd]
      · simp [hhold, hfinal, hclock, htest, hlong, hvdd, hvdda hheld])
    obtain ⟨_, _, _, _, _, _, hrtc, _⟩ := s.dev.begins_pwr
    exact Runs.powerUp _ hexec htest fun o => ⟨hbegun _ o, hrtc, rfl, rfl⟩
  · let d : Dev := { s.dev with pwr := { s.dev.pwr with
      metClock := true, lostOwed := s.dev.pwr.lostOwed + max 1 ((s.dev.pwr.lostTicks + 32767) / 32768), lostTicks := 0 } }
    have hp := Dev.pstate_of_awake hawake
    have hexec : exec .metrologyClockReturn s = s.fresh (d.powerUp true) :=
      (if_neg (by rcases hp with h | h <;> simp [hclock, h])).trans
        (if_neg (by rcases hp with h | h <;> simp [Dev.awake, h]))
    obtain ⟨_, _, _, _, _, _, hrtc, _, _, howed, _⟩ := d.begins_pwr
    exact Runs.powerUp _ hexec htest fun o => ⟨hbegun d o, hrtc, rfl, rfl, howed⟩
  · let e : Dev := s.dev.cutLedger.cutConfig
    have hexec : exec (.resetN p true micros) s = s.fresh ((e.sampleStraps p).powerUp true) := by
      unfold exec execResetN
      dsimp only
      rw [if_neg (by simp [hoff, hbackup]; omega), if_neg (by omega : ¬ micros < 10)]
      exact if_neg (show ¬ 1 % 2 = 0 by decide)
    have hflash : e.flash = s.dev.cutLedger.flash := s.dev.cutLedger.cutConfig_flash
    obtain ⟨_, _, _, _, _, _, hrtc, _, _, _, hmode, _⟩ := (e.sampleStraps p).begins_pwr
    have hrtc' : e.pwr.rtc = s.dev.pwr.rtc := by
      rw [show e.pwr.rtc = s.dev.cutLedger.pwr.rtc from (congrArg (fun d : Dev => d.pwr.rtc) hflash :), Dev.cutLedger_eq]
    refine Runs.powerUp _ hexec htest fun o => ⟨hbegun _ o, hrtc.trans hrtc', hmode, fun hwriting => ?_⟩
    rw [Dev.cutLedger_none hwriting] at hflash
    exact ⟨(congrArg (fun d : Dev => d.led.a) hflash :), (congrArg (fun d : Dev => d.led.b) hflash :)⟩
  · let d : Dev := { s.dev with
      pwr := { s.dev.pwr with up := s.dev.up, rtc := 0, mcount := 0, coarse := false, slew := 0, slewFrac := 0, timeInvalid := true, rtcSource := .startup, rcTicks := 0, rcLong := false, recallAbandoned := false, lostOwed := 0 }
      tam := { windowBase := s.dev.up }
      cal := { s.dev.cal with aonHigh := false, aonRun := 0 } }
    have hexec : exec (.alwaysOnPor p true) s = s.fresh ((d.sampleStraps p).powerUp true) := if_neg (not_not.2 hoff)
    obtain ⟨_, _, _, _, _, _, hrtc, hcount, hcoarse, _, hmode, hinvalid⟩ := (d.sampleStraps p).begins_pwr
    refine Runs.powerUp _ hexec htest fun o => ⟨hbegun _ o, ?_, hinvalid, hmode⟩
    have hrtc0 : (d.sampleStraps p).begins.rtc = 0 := hrtc
    have hcount0 : (d.sampleStraps p).begins.mcount = 0 := hcount
    simp [Dev.now, hcoarse, hrtc0, hcount0]

/-! ### The clocks -/

/-- A device that writes a CALIBRATION slot into a sector due for retirement, with no spare sector left. -/
def spareless : Dev :=
  { store := { executing := some { w := ⟨0x02, 0, [], none, 0, false, false, 0⟩, payload := [] }, dirty := [2, 3], sparesUsed := 20 }
    led := { work := { device := { weak := (({} : Tbl Nat).set 3 3) } } } }

/-- The cut write makes room for the slot it leaves, which finds the spares exhausted and counts that error in region 5. -/
theorem spareless_cut_counts : spareless.cutLedger.cutConfig.led.work.errors.count.get 5 0 = 1 := by decide

theorem spareless_counts : spareless.led.work.errors.count.get 5 0 = 0 := by decide

theorem Dev.mclkEdges_led (d old : Dev) : (d.mclkEdges old).led = d.led := by rw [Dev.mclkEdges_eq]

/-- The device whose transmission on the line, where one runs, is cut short. -/
def Dev.txCut (d : Dev) : Dev := if d.lphy.tx.isSome then (d.setPhy { d.lphy with tx := none }).emit .lineOff else d

theorem Dev.txCut_led (d : Dev) : d.txCut.led = d.led := by
  unfold Dev.txCut
  split <;> rfl

/-- The three domains of R133 as they stop. -/
def Dev.clockless (d : Dev) : Dev :=
  { d with pwr := { d.pwr with metClock := false, lostTicks := 0, accum := false, finalDone := true, fastOn := false } }

/-- A clock loss cuts both stores short, and the ledger stays as those cuts leave it. -/
theorem exec_clockLost {s : State} {l : ClockLook} (hl : l.lost = true) (hclock : s.dev.pwr.metClock = true)
    (hbackup : s.dev.pwr.pstate ≠ .backup) (hoff : s.dev.pwr.pstate ≠ .off) :
    exec (.metrologyClockLost l) s = s.ok (s.dev.cutLedger.cutConfig.txCut.clockless.mclkEdges s.dev) :=
  if_neg (by simp [hl, hclock, hbackup, hoff])

/-- What O14 says of a clock loss, said of the cut itself. -/
theorem cut_work_of_clockEvents (h : Obligations.ClockEvents) {s : State} (hclock : s.dev.pwr.metClock = true)
    (hbackup : s.dev.pwr.pstate ≠ .backup) (hoff : s.dev.pwr.pstate ≠ .off) :
    s.dev.cutLedger.cutConfig.led.work = s.dev.led.work := by
  have hexec := exec_clockLost (s := s) (l := .gap 100) (by decide) hclock hbackup hoff
  obtain ⟨_, _, _, _, _, hwork, _⟩ :=
    Runs.of_ok hexec ((h s).1 (.gap 100) hclock hbackup hoff (.inl ⟨100, rfl, le_rfl⟩))
  have hled : (s.dev.cutLedger.cutConfig.txCut.clockless.mclkEdges s.dev).led = s.dev.cutLedger.cutConfig.led :=
    (Dev.mclkEdges_led _ _).trans (Dev.txCut_led _)
  rw [← hled]
  exact hwork

/-- Refutes O14: on METROLOGY_CLOCK_LOST a slot being written is cut short; where that slot's sector is due for retirement and no spare
is left, CONFIG_SPARES_EXHAUSTED is raised, which counts in ERRORS: the working values of the ledger change. -/
theorem not_clockEvents : ¬ Obligations.ClockEvents := by
  intro h
  have hwork : spareless.cutLedger.cutConfig.led.work = spareless.led.work :=
    cut_work_of_clockEvents h (s := { dev := spareless }) rfl (by decide) (by decide)
  have hcount := congrArg (fun w : Image => w.errors.count.get 5 0) hwork
  exact absurd (spareless_cut_counts.symm.trans (hcount.trans spareless_counts)) (by decide)

/-! ### DOZE and the fast domain -/

theorem Dev.leaveDoze_pwr_of_run {d : Dev} (h : d.pwr.pstate = .run) : d.leaveDoze = d := by
  simp [Dev.leaveDoze, h]

/-- A wake in RUN, out of Backstop, leaves the fast domain on. -/
theorem Dev.rouse_fastOn {d : Dev} (hrun : d.pwr.pstate = .run) (hback : d.pwr.backstop = false) : d.rouse.pwr.fastOn = true := by
  unfold Dev.rouse
  rw [Dev.leaveDoze_pwr_of_run hrun]
  simp [hrun, hback]

theorem Dev.rouse_led (d : Dev) : d.rouse.led = d.led := by rw [Dev.rouse_eq]

theorem Dev.backstop_of_serving {d : Dev} (h : d.serving = true) : d.pwr.backstop = false := by
  simp only [Dev.serving, Bool.and_eq_true, Bool.not_eq_true'] at h
  exact h.2

/-- Settles O15: DOZE's entry only drives balls besides, and a pre-wake is a wake of the fast domain. -/
theorem dozeAndFastDomain : Obligations.DozeAndFastDomain := by
  unfold Obligations.DozeAndFastDomain
  intro s
  refine ⟨fun hrun hunits hidle hwake hdoze hlink hsince => ?_, fun hrun hserving hdue => ?_, fun tx hserving hrun hslot hboundary => ?_,
    fun hfast hwork hsince hstores => ?_⟩
  · let d : Dev := { s.dev with pwr := { s.dev.pwr with
      pstate := .doze, fastOn := false, dozeEntries := s.dev.pwr.dozeEntries + 1, dozeSince := s.dev.now } }
    have hexec : exec .dozeEntry s = s.ok (if !d.pwr.hostmode then d
        else if d.host.ltrEn then (d.emit (.ltr 1000)).emit (.clkreq false) else d.emit (.clkreq false)) := if_pos (by
      have hsince' : s.dev.since s.dev.pwr.idleSince (us s.dev.dozeAfter) = true := hsince
      simp only [hrun, hunits, hidle, hwake, hsince', Bool.and_eq_true, decide_eq_true_eq, ne_eq, hdoze, not_false_eq_true, Bool.not_false,
        and_self, true_and, and_true, Bool.or_eq_true, Bool.not_eq_true', or_assoc]
      exact hlink)
    have hout : ∀ e : Dev, (e = d ∨ e = d.emit (.clkreq false) ∨ e = (d.emit (.ltr 1000)).emit (.clkreq false)) →
        e.pwr = d.pwr ∧ e.host = d.host ∧ e.eng = d.eng ∧ e.led = d.led := by
      rintro e (rfl | rfl | rfl) <;> exact ⟨rfl, rfl, rfl, rfl⟩
    refine Runs.ok _ hexec ?_
    obtain ⟨hpwr, hhost, heng, hled⟩ := hout (if !d.pwr.hostmode then d
        else if d.host.ltrEn then (d.emit (.ltr 1000)).emit (.clkreq false) else d.emit (.clkreq false)) (by (repeat' split) <;> simp)
    exact ⟨hpwr, hhost, heng, hled, rfl⟩
  · have hexec : ∃ d : Dev, exec .dozeExitCount s = s.ok { d with pwr := { d.pwr with dozeEntries := 0, dozeTime := 0 } } :=
      ⟨_, if_neg (by simp [hrun, hserving, hdue])⟩
    obtain ⟨d, hexec⟩ := hexec
    exact Runs.ok _ hexec ⟨rfl, rfl⟩
  · have hexec : ∃ n eng, exec (.preWake tx) s = s.ok { s.dev.rouse with pwr := { s.dev.rouse.pwr with preWake := n }, eng := eng } :=
      ⟨_, _, if_neg (by cases tx <;> simp [hserving, hslot, hboundary])⟩
    obtain ⟨n, eng, hexec⟩ := hexec
    exact Runs.ok _ hexec ⟨Dev.rouse_fastOn hrun (Dev.backstop_of_serving hserving), s.dev.rouse_led, rfl⟩
  · exact (if_pos (by simp [hfast, hwork, hsince])).trans (State.ok_none hstores)

end Sys2Proof.Machine

/-! ## Proofs: what posting and completing leaves of the power state -/

namespace Sys2Proof.Machine

/-- The power state, DOZE taken as the RUN that a wake makes of it: posting and completing leave it. -/
def Dev.stay (d : Dev) : PState := if d.pwr.pstate = .doze then .run else d.pwr.pstate

theorem Dev.stay_of_pwr {d e : Dev} (h : d.pwr = e.pwr) : d.stay = e.stay := by simp [Dev.stay, h]

theorem Dev.pstate_of_stay {d : Dev} {p : PState} (hrun : p ≠ .run) (h : d.stay = p) : d.pwr.pstate = p := by
  unfold Dev.stay at h
  split at h
  · exact absurd h.symm hrun
  · exact h

/-! ### Wakes -/

@[simp] theorem Dev.leaveDoze_stay (d : Dev) : d.leaveDoze.stay = d.stay := by
  unfold Dev.leaveDoze
  dsimp only
  split
  · rfl
  · rename_i h
    have hdoze : d.pwr.pstate = .doze := not_not.1 h
    (repeat' split) <;> simp [Dev.stay, Dev.emit, hdoze]

@[simp] theorem Dev.rouse_stay (d : Dev) : d.rouse.stay = d.stay := by
  refine Eq.trans ?_ d.leaveDoze_stay
  unfold Dev.rouse
  dsimp only
  split <;> rfl

@[simp] theorem Dev.wake_stay (d : Dev) : d.wake.stay = d.stay := by
  unfold Dev.wake
  rw [Dev.rouse_stay]
  rfl

/-! ### Records -/

@[simp] theorem Dev.emit_stay (d : Dev) (o : Out) : (d.emit o).stay = d.stay := rfl
@[simp] theorem Dev.setRing_stay (d : Dev) (r : Nat) (g : Ring) : (d.setRing r g).stay = d.stay := rfl
@[simp] theorem Dev.updRing_stay (d : Dev) (r : Nat) (f : Ring → Ring) : (d.updRing r f).stay = d.stay := rfl
@[simp] theorem Dev.setFn_stay (d : Dev) (f : Nat) (x : Fn) : (d.setFn f x).stay = d.stay := rfl
@[simp] theorem Dev.land_stay (d : Dev) (c : CmdRef) : (d.land c).stay = d.stay := rfl
@[simp] theorem Dev.fill_stay (d : Dev) (r : Nat) (e : Entry) : (d.fill r e).stay = d.stay := rfl
@[simp] theorem Dev.claimed_stay (d old : Dev) : (d.claimed old).stay = d.stay := rfl
theorem Dev.eng_stay (d : Dev) (e : RingEngine) : ({ d with eng := e } : Dev).stay = d.stay := rfl
theorem Dev.recs_stay (d : Dev) (r : Records) : ({ d with recs := r } : Dev).stay = d.stay := rfl
theorem Dev.lnet_stay (d : Dev) (l : LineNet) : ({ d with lnet := l } : Dev).stay = d.stay := rfl
theorem Dev.keys_stay (d : Dev) (k : KeyUnit) : ({ d with keys := k } : Dev).stay = d.stay := rfl

@[simp] theorem Dev.sendMsix_stay (d : Dev) (f v : Nat) : (d.sendMsix f v).stay = d.stay := by
  unfold Dev.sendMsix
  dsimp only
  split <;> rfl

@[simp] theorem Dev.openWindow_stay (d : Dev) (f v n : Nat) : (d.openWindow f v n).stay = d.stay := by
  unfold Dev.openWindow
  dsimp only
  split <;> simp

@[simp] theorem Dev.occur_stay (d : Dev) (f v : Nat) : (d.occur f v).stay = d.stay := by
  unfold Dev.occur
  dsimp only
  (repeat' split) <;> simp

@[simp] theorem Dev.ringState_stay (d : Dev) (r : Nat) (st : RingState) : (d.ringState r st).stay = d.stay := by
  unfold Dev.ringState Dev.writeBack
  dsimp only
  split <;> rfl

@[simp] theorem Dev.discardHeld_stay (d : Dev) (r : Nat) : (d.discardHeld r).stay = d.stay := rfl

@[simp] theorem fillBufs_stay (l : List FreeBuf) (bs : List Byte) (d : Dev) : (fillBufs d bs l).stay = d.stay := by
  induction l generalizing bs d with
  | nil => rfl
  | cons b t ih => simp [fillBufs, ih]

theorem Dev.placePayload_stay (d : Dev) (r : Nat) (b : RecBody) (room : Nat) : (d.placePayload r b room).1.stay = d.stay := by
  unfold Dev.placePayload
  dsimp only
  split
  · rfl
  · split <;> simp

@[simp] theorem Dev.formRec_stay (d : Dev) (r : Nat) (b : RecBody) (plan : AuthPlan) (ph : Bool) :
    (d.formRec r b plan ph).1.stay = d.stay := by
  cases plan with
  | stub => rfl
  | sign gen counter => exact d.placePayload_stay r b 30
  | plain => exact d.placePayload_stay r b 48
  | wait => exact d.placePayload_stay r b 48

@[simp] theorem Dev.padRing_stay (n r : Nat) (d : Dev) : (d.padRing r n).stay = d.stay := by
  induction n generalizing d with
  | zero => rfl
  | succ n ih => simp [Dev.padRing, ih]

@[simp] theorem Dev.writeRec_stay (d : Dev) (r : Nat) (b : RecBody) : (d.writeRec r b).stay = d.stay := by
  unfold Dev.writeRec
  dsimp only
  split
  · rw [Dev.recs_stay]
    split <;> simp
  · split <;> simp

@[simp] theorem Dev.holdOrDrop_stay (d : Dev) (r : Nat) (b : RecBody) : (d.holdOrDrop r b).stay = d.stay := by
  unfold Dev.holdOrDrop
  dsimp only
  split <;> simp

@[simp] theorem Dev.postNow_stay (d : Dev) (r : Nat) (b : RecBody) : (d.postNow r b).stay = d.stay := by
  unfold Dev.postNow
  dsimp only
  (repeat' split) <;> simp

@[simp] theorem Dev.postTo_stay (d : Dev) (r : Nat) (b : RecBody) : (d.postTo r b).stay = d.stay := by
  unfold Dev.postTo
  split
  · rfl
  · simp

@[simp] theorem Dev.tunnelPush_stay (d : Dev) (k : Nat) (t : Option Nat) (bs : List Byte) : (d.tunnelPush k t bs).stay = d.stay := by
  unfold Dev.tunnelPush
  dsimp only
  split <;> rfl

@[simp] theorem Dev.tunnelRecord_stay (d : Dev) (b : RecBody) (t : Option Nat) : (d.tunnelRecord b t).stay = d.stay := by
  unfold Dev.tunnelRecord
  dsimp only
  split <;> simp

@[simp] theorem Dev.route_stay (d : Dev) (b : RecBody) : (d.route b).stay = d.stay := by
  unfold Dev.route
  dsimp only
  split
  · simp
  · rw [Dev.each_keeps Dev.stay (fun d x => by split <;> simp)]
    split <;> simp

/-! ### Completions -/

theorem Dev.writeCompletion_stay (d : Dev) (c : Nat) (o : OwedCompletion) : (d.writeCompletion c o).stay = d.stay := by
  unfold Dev.writeCompletion
  dsimp only
  (repeat' split) <;> simp

theorem Dev.tunSkip_stay (n : Nat) (d : Dev) : (d.tunSkip n).stay = d.stay := by
  induction n generalizing d with
  | zero => rfl
  | succ n ih =>
    unfold Dev.tunSkip
    split
    · split
      · rw [ih, Dev.tunnelPush_stay]
        rfl
      · rfl
    · rfl

theorem Dev.finish_stay (d : Dev) (o : OwedCompletion) : (d.finish o).stay = d.stay := by
  unfold Dev.finish Dev.finishNow
  dsimp only
  split
  · rfl
  · split
    · rw [Dev.tunSkip_stay, Dev.lnet_stay, Dev.tunnelPush_stay]
      split <;> simp
    · split
      · rw [Dev.land_stay, Dev.writeCompletion_stay]
      · rfl

theorem Dev.settleFences_stay (n : Nat) (d : Dev) : (d.settleFences n).stay = d.stay := by
  induction n generalizing d with
  | zero => rfl
  | succ n ih =>
    unfold Dev.settleFences
    dsimp only
    split
    · rfl
    · split <;> rw [ih]
      · rfl
      · rw [Dev.finish_stay, Dev.eng_stay]

theorem Dev.settleStops_stay (n : Nat) (d : Dev) : (d.settleStops n).stay = d.stay := by
  induction n generalizing d with
  | zero => rfl
  | succ n ih =>
    unfold Dev.settleStops
    dsimp only
    split
    · rfl
    · rw [ih, Dev.finish_stay, Dev.ringState_stay, Dev.discardHeld_stay, Dev.eng_stay]

theorem Dev.settle_stay (d : Dev) : d.settle.stay = d.stay := by
  simp only [Dev.settle, Dev.settleFences_stay, Dev.settleStops_stay]

@[simp] theorem Dev.done_stay (d : Dev) (c : CmdRef) (st : Nat) : (d.done c st).stay = d.stay := by
  rw [Dev.done, Dev.settle_stay, Dev.finish_stay]

@[simp] theorem Dev.doneWith_stay (d : Dev) (c : CmdRef) (v : Nat) (b : Bool) : (d.doneWith c v b).stay = d.stay := by
  rw [Dev.doneWith, Dev.settle_stay, Dev.finish_stay]

/-! ### The end of a commit -/

theorem Dev.keyDone_stay (d : Dev) (k : KeyCommit) : (d.keyDone k).stay = d.stay := by
  unfold Dev.keyDone
  dsimp only
  split
  · rw [Dev.done_stay]
    split <;> rfl
  · split <;> rfl

theorem Dev.drainCeil_stay (d : Dev) : d.drainCeil.stay = d.stay := by
  unfold Dev.drainCeil
  refine (Dev.each_keeps Dev.stay (fun e x => ?_) _ _).trans (Dev.recs_stay ..)
  extract_lets g late trk e1
  split
  · rfl
  · split
    · have he : e1.stay = e.stay := rfl
      split <;> simp [he]
    · split <;> simp

theorem Dev.fencesDone_stay (d : Dev) (seq : Nat) : (d.fencesDone seq).stay = d.stay := by
  unfold Dev.fencesDone
  exact Dev.each_keeps Dev.stay (fun d (f : FenceWait) => d.doneWith_stay f.cmd seq false) _ _

theorem Dev.serving_of_hold {d : Dev} (h : d.pwr.pstate = .hold) : d.serving = false := by
  simp [Dev.serving, Dev.units, Dev.awake, h]

/-- A commit that ends in HOLD leaves HOLD: what it posts and completes wakes nothing. -/
theorem Dev.commitDone_hold {d : Dev} (h : d.pwr.pstate = .hold) : d.commitDone.pwr.pstate = .hold := by
  have hstay : d.stay = .hold := by simp [Dev.stay, h]
  unfold Dev.commitDone
  split
  · exact h
  · rename_i w _
    extract_lets led e1 tam e2 e3 recs rec e4 e5
    have h3 : e3.stay = .hold := (Dev.each_keeps Dev.stay (fun d k => d.keyDone_stay k) _ _).trans hstay
    have h5 : e5.stay = .hold := by
      have hposts := Dev.each_keeps Dev.stay (fun d b => d.route_stay b) recs e4.drainCeil
      exact (Dev.fencesDone_stay _ _).trans (hposts.trans (e4.drainCeil_stay.trans h3))
    have hpstate : e5.pwr.pstate = .hold := Dev.pstate_of_stay (by decide) h5
    rw [Dev.serving_of_hold hpstate]
    exact hpstate

end Sys2Proof.Machine

/-! ## Proofs: the steps of power-up -/

namespace Sys2Proof.Machine

/-! ### What the units leave of the power unit -/

/-- The power unit less the waking of the fast domain. -/
def Dev.supply (d : Dev) : Power := d.quiet.pwr

theorem Dev.supply_of_still {d e : Dev} (h : d.still = e.still) : d.supply = e.supply := (congrArg Dev.pwr h :)
theorem Dev.supply_of_quiet {d e : Dev} (h : d.quiet = e.quiet) : d.supply = e.supply := (congrArg Dev.pwr h :)

theorem Dev.setPhy_supply (d : Dev) (l : LinePhy) : (d.setPhy l).supply = d.supply := rfl
theorem Dev.setTrk_supply (d : Dev) (t : Tracker) : (d.setTrk t).supply = d.supply := rfl
theorem Dev.setHarm_supply (d : Dev) (x : Harm) : (d.setHarm x).supply = d.supply := rfl
theorem Dev.setLink_supply (d : Dev) (n : Nat) (l : Link) : (d.setLink n l).supply = d.supply := rfl

theorem Dev.lineApply_supply (d : Dev) : d.lineApply.supply = d.supply := by
  unfold Dev.lineApply
  dsimp only
  split <;> rfl

theorem Dev.lineReceiveStop_supply (d : Dev) : d.lineReceiveStop.supply = d.supply := by
  unfold Dev.lineReceiveStop
  dsimp only
  rw [Dev.lineApply_supply]
  split <;> rfl

theorem Dev.followUp_supply (d : Dev) (ps : List Preview) (reason : Nat) (t : DevTime) : (d.followUp ps reason t).supply = d.supply := by
  unfold Dev.followUp
  dsimp only
  split
  · rfl
  · split
    · rfl
    · refine (Dev.each_keeps Dev.supply (fun d q => Dev.supply_of_quiet (by simp)) _ _).trans ?_
      (repeat' split) <;> rfl

theorem Dev.closeWindow_cut_supply (d : Dev) (t : Nat) : (d.closeWindow t true).supply = d.supply := by
  unfold Dev.closeWindow
  split <;> rfl

theorem Dev.enterSearch_supply (d : Dev) (cause volt : Nat) : (d.enterSearch cause volt).supply = d.supply := by
  unfold Dev.enterSearch
  extract_lets e1 e2 h e3 q e4 t e5 e6
  have h1 : e1.supply = d.supply := Dev.each_keeps Dev.supply (fun d p => d.followUp_supply ..) _ _
  have h2 : e2.supply = e1.supply := e1.closeWindow_cut_supply _
  have h4 : e4.supply = e2.supply := rfl
  have h6 : e6.supply = e5.supply := e5.lineReceiveStop_supply
  have h5 : e5.supply = e4.supply := rfl
  exact (Dev.supply_of_quiet (Dev.post_quiet ..)).trans (h6.trans (h5.trans (h4.trans (h2.trans h1))))

/-- The start of accumulation changes nothing of the power unit but `accum`, and what a wake changes. -/
theorem Dev.beginAccum_supply (d : Dev) : d.beginAccum.supply = { d.supply with accum := true } := by
  unfold Dev.beginAccum
  extract_lets p q e1 v e2 f e3 t e4 e5 e6
  have h4 : e4.supply = { d.supply with accum := true } := rfl
  have h5 : e5.supply = e4.supply := Dev.enterSearch_supply ..
  have h6 : e6.supply = e5.supply := Dev.each_keeps Dev.supply (fun d a =>
    Dev.supply_of_still ((Dev.judgeUnmetered_still _ _).trans (Dev.each_keeps Dev.still (fun d k => d.updPair_still ..) _ _))) _ _
  exact (Dev.each_keeps Dev.supply (fun d n => d.setLink_supply ..) _ _).trans (h6.trans (h5.trans h4))

theorem Dev.accum_of_supply {d e : Dev} (h : d.supply = { e.supply with accum := true }) :
    d.pwr.accum = true ∧ d.pwr.wasHeld = e.pwr.wasHeld := ⟨(congrArg Power.accum h :), (congrArg Power.wasHeld h :)⟩

theorem Dev.powerOrOwe_supply (d : Dev) (event : Nat) (fs : List Fld) :
    (d.powerOrOwe event fs).supply = { d.supply with owed := (d.powerOrOwe event fs).pwr.owed } := by
  unfold Dev.powerOrOwe
  split
  · have h : (d.postPower event fs).supply = d.supply := Dev.supply_of_quiet (by simp)
    have howed : (d.postPower event fs).pwr.owed = d.pwr.owed := (congrArg Power.owed h :)
    rw [h, howed]
    rfl
  · rfl

theorem Dev.powerOrOwe_accum (d : Dev) (event : Nat) (fs : List Fld) : (d.powerOrOwe event fs).pwr.accum = d.pwr.accum := by
  have h := d.powerOrOwe_supply event fs
  generalize d.powerOrOwe event fs = e at h ⊢
  exact (congrArg Power.accum h :)

theorem Dev.startTest_supply (d : Dev) (kind : Nat) (cmd : Option CmdRef) : (d.startTest kind cmd).supply = d.supply := by
  unfold Dev.startTest Dev.refreshFrame
  split <;> rfl

/-- A GO that is judged leaves the step of power-up, and holds no GO. -/
theorem Dev.judgeGo_keeps (d : Dev) : d.judgeGo.supply = d.supply ∧ d.judgeGo.host.goHeld = d.host.goHeld := by
  unfold Dev.judgeGo
  split
  · exact ⟨rfl, rfl⟩
  · split
    · exact ⟨rfl, rfl⟩
    · have h := Dev.occur_quiet ({ d with host := { d.host with negFail := true } } : Dev) 0 3
      exact ⟨(Dev.supply_of_quiet h).trans rfl, (congrArg (fun e : Dev => e.host.goHeld) h :)⟩

/-! ### The commands -/

theorem Dev.mclkEdges_pwr (d old : Dev) : (d.mclkEdges old).pwr = d.pwr := by rw [Dev.mclkEdges_eq]

/-- The links as the metrology domain stops. -/
def linksDown (t : Tbl Link) : Tbl Link := t.mapV fun l => { l with state := .down, found := 0, released := false, bad := 0 }

theorem mem_linksDown {t : Tbl Link} {p : Nat × Link} (h : p ∈ (linksDown t).cells) : p.2.state = .down ∧ p.2.released = false := by
  obtain ⟨q, _, rfl⟩ := List.mem_map.1 h
  exact ⟨rfl, rfl⟩

/-- The device as the final commit has completed. -/
def Dev.finalDone (d : Dev) : Dev :=
  let e := d.commitDone
  let e := { e with links := linksDown e.links, pwr := { e.pwr with finalDone := true } }
  (e.each (List.range 8) fun e o => e.emit (.pulse o false (plsLow (e.pulse o).block))).mclkEdges d

theorem Dev.finalDone_out {β : Type} (d : Dev) (π : Dev → β) (hπ : ∀ (e : Dev) (o : List Out), π { e with out := o } = π e) :
    π d.finalDone = π { d.commitDone with
      links := linksDown d.commitDone.links, pwr := { d.commitDone.pwr with finalDone := true } } := by
  unfold Dev.finalDone
  rw [Dev.mclkEdges_eq, hπ]
  exact Dev.each_keeps π (f := fun e o => e.emit (.pulse o false (plsLow (e.pulse o).block))) (fun e o => hπ e _) _ _

/-- Accumulation starts 40 ms after voltage is present and recall has ended. -/
theorem exec_accumulationStart {s : State} {t0 : Nat} (hunits : s.dev.units = true) (haccum : s.dev.pwr.accum = false)
    (htest : ∀ t, s.dev.volt.test = some t → t.kind ≠ 1) (hserves : s.dev.volt.serving ≠ 2)
    (hpresent : s.dev.pwr.presentSince = some t0) (hsince : s.dev.since (max t0 s.dev.pwr.recallAt) (ms 40) = true) :
    exec .accumulationStart s =
      if !s.dev.beginAccum.pwr.wasHeld then s.ok s.dev.beginAccum
      else
        let d := s.dev.beginAccum.powerOrOwe 0x10
          [⟨8, 8, s.dev.beginAccum.pwr.holdTime⟩, ⟨16, 8, s.dev.beginAccum.pwr.backupTime⟩, ⟨24, 8, s.dev.beginAccum.now⟩]
        s.ok { d with pwr := { d.pwr with wasHeld := false, backupTime := 0 } } := by
  have htesting : (match s.dev.volt.test with | some t => decide (t.kind = 1) | none => false) = false := by
    cases htest' : s.dev.volt.test with
    | none => rfl
    | some t => simpa using htest t htest'
  have hnow : (s.dev.pwr.presentSince.any fun t => s.dev.since (max t s.dev.pwr.recallAt) (ms 40)) = true := by
    rw [hpresent, Option.any_some, hsince]
  refine if_neg ?_
  rw [hnow, hunits, haccum]
  simp only [hserves, decide_false, Bool.not_true, Bool.false_or, Bool.or_false]
  exact Bool.eq_false_iff.mp htesting

/-- Settles O17, step by step. -/
theorem powerUpSteps : Obligations.PowerUpSteps := by
  unfold Obligations.PowerUpSteps
  intro s hclock
  refine ⟨fun bad hrun hstep => ?_, fun bad hrun hstep => ?_, fun t0 hunits haccum htest hserves hpresent hsince => ⟨fun hheld => ?_, fun hheld => ?_⟩,
    fun hmode hunits hneg hstandalone hsince => ?_, fun hhold hfinal => ?_, fun mv hrun hunits hgood hdue => ?_⟩
  · have hexec : ∃ e : Dev, exec (.configRecallDone bad) s =
        s.ok { (e.setPhy { e.lphy with applied := e.lineParams }).mclkEdges s.dev with
          pwr := { ((e.setPhy { e.lphy with applied := e.lineParams }).mclkEdges s.dev).pwr with
            step := .ledgerRecall, configAt := ((e.setPhy { e.lphy with applied := e.lineParams }).mclkEdges s.dev).up } } :=
      ⟨_, if_neg (by simp [hrun, hstep, hclock])⟩
    obtain ⟨e, hexec⟩ := hexec
    refine Runs.ok _ hexec ⟨rfl, ?_, rfl⟩
    rw [Dev.mclkEdges_eq]
    rfl
  · have hexec : ∃ e : Dev, exec (.ledgerRecallDone bad) s =
        s.ok (if e.host.goHeld then ({ e with host := { e.host with goHeld := false } } : Dev).judgeGo
          else { e with host := { e.host with goHeld := false } }) ∧ e.supply.step = .ready := by
      have hskip : ¬ (s.dev.pwr.step ≠ .ledgerRecall || s.dev.pwr.pstate ≠ .run || !s.dev.pwr.metClock) = true := by
        simp [hrun, hstep, hclock]
      refine ⟨_, if_neg hskip, ?_⟩
      rw [Dev.startTest_supply]
      rfl
    obtain ⟨e, hexec, hready⟩ := hexec
    refine Runs.ok _ hexec ?_
    split
    · obtain ⟨hstep, hheld⟩ := Dev.judgeGo_keeps { e with host := { e.host with goHeld := false } }
      exact ⟨(congrArg Power.step hstep).trans hready, hheld, rfl⟩
    · exact ⟨hready, rfl, rfl⟩
  · obtain ⟨hacc, hwas⟩ := Dev.accum_of_supply s.dev.beginAccum_supply
    have hexec := exec_accumulationStart hunits haccum htest hserves hpresent hsince
    generalize s.dev.beginAccum = e at hacc hwas hexec ⊢
    exact ⟨hexec.trans (if_pos (by simp [hwas, hheld])), hacc⟩
  · obtain ⟨hacc, hwas⟩ := Dev.accum_of_supply s.dev.beginAccum_supply
    have hexec := exec_accumulationStart hunits haccum htest hserves hpresent hsince
    generalize s.dev.beginAccum = e at hacc hwas hexec
    replace hexec := hexec.trans (if_neg (by simp [hwas, hheld]))
    exact Runs.ok _ hexec ⟨(Dev.powerOrOwe_accum ..).trans hacc, rfl, rfl, rfl⟩
  · refine if_neg ?_
    simp [hmode, hunits, hneg, hstandalone, hsince]
  · have hexec : exec .finalCommitDone s = s.ok s.dev.finalDone := if_neg (by simp [hhold, hfinal, hclock])
    have hpwr := Dev.finalDone_out s.dev Dev.pwr fun _ _ => rfl
    have hled := Dev.finalDone_out s.dev Dev.led fun _ _ => rfl
    have hlinks := Dev.finalDone_out s.dev Dev.links fun _ _ => rfl
    have hstate : s.dev.finalDone.pwr.pstate = .hold := by rw [hpwr]; exact Dev.commitDone_hold hhold
    have hfd : s.dev.finalDone.pwr.finalDone = true := by rw [hpwr]
    refine Runs.ok _ hexec ?_
    generalize s.dev.finalDone = e at hpwr hled hlinks hstate hfd ⊢
    refine ⟨hfd, ?_, hled, fun p hp => ?_, rfl⟩
    · show ((e.pwr.metClock && (e.awake || (e.pwr.pstate = .hold && !e.pwr.finalDone))) = false)
      simp [Dev.awake, hstate, hfd]
    · rw [show ({ s with dev := { e with stores := [] } } : State).dev.links = _ from hlinks] at hp
      exact mem_linksDown hp
  · have hdue' : (match s.dev.pwr.vbatAt with | some t => s.dev.since t (3600 * second) | none => true) = true := by
      cases hat : s.dev.pwr.vbatAt with
      | none => rfl
      | some t => exact hdue t hat
    refine if_neg ?_
    simp only [hrun, hunits, hgood, ne_eq, not_true, decide_false, Bool.not_true, Bool.false_or, Bool.not_eq_true', Bool.not_eq_false]
    exact hdue'

end Sys2Proof.Machine

/-! ## Proofs: the config store, and the results of units -/

namespace Sys2Proof.Machine

/-! ### The config store -/

/-- An erased sector is clean, and the others stay as they were. -/
theorem mem_dropSectors_dirty (d : Dev) (g x y : Nat) :
    y ∈ (d.dropSectors g [x]).store.dirty ↔ y ∈ d.store.dirty ∧ y ≠ x := by
  simp [Dev.dropSectors]

theorem Dev.dropSectors_led (d : Dev) (g : Nat) (ss : List Nat) : (d.dropSectors g ss).led = d.led := rfl

/-- The sectors of the oldest erase leave whatever group's ring they lie in. -/
def Dev.erased (d : Dev) (x : Nat) : Dev := match d.groupOfSector x with | some g => d.dropSectors g [x] | none => d

theorem Dev.erased_led (d : Dev) (x : Nat) : (d.erased x).led = d.led := by
  unfold Dev.erased
  split <;> rfl

theorem Dev.mem_erased_dirty {d : Dev} {x y : Nat} (h : y ≠ x) : y ∈ (d.erased x).store.dirty ↔ y ∈ d.store.dirty := by
  unfold Dev.erased
  split
  · rw [mem_dropSectors_dirty]
    exact and_iff_left h
  · rfl

/-- Settles O39. -/
theorem configStore : Obligations.ConfigStore := by
  unfold Obligations.ConfigStore
  intro s
  refine ⟨fun x hx hunits hwaits => ⟨fun hfresh hkeys => ?_, fun hfresh hfirst hkeys => ?_, fun hrefresh hkeys => ?_⟩,
    fun x t hx hunits => ?_, fun hserving => ⟨fun found t hrun hlast hdue => ?_, fun found hdue => ?_, fun staging rings hdue => ?_⟩⟩
  · unfold exec execGroupWriteDone
    dsimp only
    rw [hx]
    dsimp only
    rw [if_neg (by simp [hfresh, hunits, hwaits]), if_neg (by simp), if_neg hkeys]
    simp only [Bool.or_eq_true, decide_eq_true_eq, or_assoc] <;> rfl
  · unfold exec execGroupWriteDone
    dsimp only
    rw [hx]
    dsimp only
    rw [if_neg (by simp [hfresh, hunits, hwaits]), if_pos (by simp)]
    unfold Dev.writeFailed
    dsimp only
    rw [if_neg hkeys, if_pos (by simp [hfirst])]
  · unfold exec execRefreshForward
    dsimp only
    rw [hx]
    dsimp only
    rw [if_neg (by simp [hrefresh, hunits, hwaits]), if_neg (by simp), if_neg hkeys]
  · have hexec : exec .sectorEraseDone s = s.ok { s.dev.erased x with store := { (s.dev.erased x).store with
        erasing := t, dirty := (s.dev.erased x).store.dirty.filter fun y => y ≠ x } } := by
      unfold exec execSectorEraseDone
      dsimp only
      rw [hx]
      exact if_neg (by simp [hunits])
    refine Runs.ok _ hexec ⟨rfl, by simp, fun y hy => ?_, s.dev.erased_led x, rfl⟩
    refine Iff.trans ?_ (Dev.mem_erased_dirty hy)
    simp [hy]
  · unfold exec execMarginPass
    dsimp only
    rw [hlast]
    exact if_pos (by simp [hserving, hrun, hdue])
  · exact if_pos (by rw [hserving, hdue]; rfl)
  · exact if_pos (by rw [hserving, hdue]; rfl)

/-! ### Errors, tests and the generator -/

/-- What an ERROR record, delivered or waiting, leaves of the error unit. -/
theorem Dev.listSeq_keeps (e : ErrorUnit) (seq : Nat) : (e.listSeq seq).totals = e.totals ∧ (e.listSeq seq).slot = e.slot := by
  unfold ErrorUnit.listSeq
  dsimp only
  split <;> exact ⟨rfl, rfl⟩

/-- The totals and the open slot of the error unit. -/
def Dev.errKept (d : Dev) : Tbl Nat × Option ErrSlot := (d.err.totals, d.err.slot)

theorem Dev.errKept_of_quiet {d e : Dev} (h : d.quiet = e.quiet) : d.errKept = e.errKept :=
  (congrArg (fun q : Dev => (q.err.totals, q.err.slot)) h :)

theorem Dev.listed_errKept (d : Dev) (seq : Nat) : ({ d with err := d.err.listSeq seq } : Dev).errKept = d.errKept :=
  Prod.ext (Dev.listSeq_keeps d.err seq).1 (Dev.listSeq_keeps d.err seq).2

theorem Dev.updErr_errKept (d : Dev) (f : ErrBlk → ErrBlk) : (d.updErr f).errKept = d.errKept := rfl

theorem Dev.reported_errKept (d : Dev) (r : Nat) : (d.reported r).errKept = d.errKept := by
  unfold Dev.reported
  split <;> rfl

theorem Dev.writeError_errKept (d : Dev) (e : ErrRec) (queued : Bool) : (d.writeError e queued).errKept = d.errKept := by
  unfold Dev.writeError
  dsimp only
  have h : ∀ (x : Dev) (r : Nat), ((x.occur 0 2).reported r).errKept = x.errKept := fun x r =>
    (Dev.reported_errKept ..).trans (Dev.errKept_of_quiet (by simp))
  split
  · rw [Dev.listed_errKept, h]
    exact Dev.errKept_of_quiet (by simp)
  · rw [h]
    exact Dev.errKept_of_quiet (by simp)

theorem Dev.deliverError_errKept (d : Dev) (e : ErrRec) : (d.deliverError e).errKept = d.errKept := by
  unfold Dev.deliverError
  dsimp only
  have htunnel : ((d.tunnelRecord (e.body false) none).reported e.err.region).errKept = d.errKept :=
    (Dev.reported_errKept ..).trans (Dev.errKept_of_quiet (by simp))
  split
  · split
    · exact (Dev.listed_errKept ..).trans htunnel
    · exact htunnel
  · split
    · exact Dev.writeError_errKept ..
    · split
      · exact (Dev.errKept_of_quiet (Dev.occur_quiet ..)).trans rfl
      · rfl

theorem Dev.postErrorNow_errKept (d : Dev) (e : Err) (t : DevTime) (follow rc : Nat) : (d.postErrorNow e t follow rc).errKept = d.errKept :=
  (Dev.deliverError_errKept ..).trans (Dev.errKept_of_quiet (Dev.number_quiet ..))

theorem Dev.postErrorNow_still (d : Dev) (e : Err) (t : DevTime) (follow rc : Nat) : (d.postErrorNow e t follow rc).still = d.still :=
  (Dev.deliverError_still ..).trans (Dev.still_of_quiet (Dev.number_quiet ..))

theorem Dev.drbgDraw_eq (d : Dev) :
    d.drbgDraw.1 = { d with keys := { d.keys with drbg := d.keys.drbg.generate.1, requests := d.keys.requests + 1 } } := by
  unfold Dev.drbgDraw
  cases d.keys.drbg.generate
  rfl

/-- The snapshot that waited leaves the list, with one generate request more. -/
def Dev.snapTaken (d : Dev) (t : List SnapWait) : Dev :=
  { d.drbgDraw.1 with keys := { d.drbgDraw.1.keys with snaps := t } }

/-- The device as the oldest snapshot has been signed. -/
def Dev.snapSigned (d : Dev) (w : SnapWait) (t : List SnapWait) (bytes : List Byte) : Dev :=
  let e := d.wake.snapTaken t
  let n := e.number (e.snapRec w bytes)
  let sig := ecdsaSign Config.identityKey (1 + d.wake.drbgDraw.2 % (p256n - 1)) (sha256 bytes)
  ((n.1.output w.cmd (bytes ++ sig)).finish ⟨w.cmd.ref, stOK, fieldAt bytes 4 4, false, some n.2⟩).settle

theorem Dev.snapSigned_quiet (d : Dev) (w : SnapWait) (t : List SnapWait) (bytes : List Byte) :
    (d.snapSigned w t bytes).quiet = (d.wake.snapTaken t).quiet := by
  unfold Dev.snapSigned
  dsimp only
  rw [Dev.settle_quiet, Dev.finish_quiet, Dev.output_quiet, Dev.number_quiet]

/-- Settles O40. -/
theorem unitResults : Obligations.UnitResults := by
  unfold Obligations.UnitResults
  intro s
  refine ⟨fun t ht hruns hcls hsince => ?_, fun hruns hrun hdue => ?_,
    fun t bits raw ht hserving hsince => ⟨fun htest => ?_, fun htest => ?_, fun bad htest hbad => ?_⟩,
    fun raw hon => ⟨fun hseed => ?_, fun hseed hdue => ?_⟩, fun w t bytes hw htaken hserving hready hcommit => ?_⟩
  · unfold exec execSlotWindowClose
    dsimp only
    rw [ht]
    exact if_pos (by simp [hruns, hcls, hsince])
  · have hexec : ∃ (e : Err) (now : DevTime), exec .errorSummary s = s.ok ((s.dev.wake.quarter 0x70).postErrorNow e now 0 0) :=
      ⟨_, _, if_pos (by simp [hruns, hrun, hdue])⟩
    obtain ⟨e, now, hexec⟩ := hexec
    have hkept : ((s.dev.wake.quarter 0x70).postErrorNow e now 0 0).errKept = s.dev.errKept :=
      (Dev.postErrorNow_errKept ..).trans (Dev.errKept_of_quiet (s.dev.wake_quiet))
    have hstill : ((s.dev.wake.quarter 0x70).postErrorNow e now 0 0).still = s.dev.still :=
      (Dev.postErrorNow_still ..).trans s.dev.wake_still
    refine Runs.ok _ hexec ?_
    generalize (s.dev.wake.quarter 0x70).postErrorNow e now 0 0 = u at hkept hstill
    exact ⟨(congrArg (fun q : Dev => q.led.last) hstill :), (congrArg Prod.fst hkept :), (congrArg Prod.snd hkept :), rfl⟩
  · unfold exec execSelftestComplete
    dsimp only
    rw [ht]
    dsimp only
    have hskip : ¬ (!s.dev.serving || decide (t.test = 0x11) || !s.dev.since t.since t.span) = true := by
      rcases htest with h | h <;> simp [hserving, hsince, h]
    have hcrypto : ¬ t.test = 0x20 := by omega
    have hvolt : ¬ t.test = 0x10 := by omega
    rw [if_neg hskip, if_neg hcrypto, if_neg hvolt]
  · unfold exec execSelftestComplete
    dsimp only
    rw [ht]
    dsimp only
    rw [if_neg (by simp [hserving, hsince, htest]), if_neg (by omega), if_pos htest]
  · unfold exec execSelftestComplete
    dsimp only
    rw [ht]
    dsimp only
    rw [if_neg (by simp [hserving, hsince, htest]), if_pos htest, hbad]
  · exact congrArg s.ok (if_pos (by simp [hon, hseed]))
  · exact congrArg s.ok (if_pos (by simp [hon, hseed, hdue]))
  · have hexec : exec .snapshotSigned s = s.ok (s.dev.snapSigned w t bytes) := by
      unfold exec execSnapshotSigned
      dsimp only
      rw [hw]
      dsimp only
      rw [htaken]
      exact if_neg (by simp [hserving, hready, hcommit])
    have hquiet := s.dev.snapSigned_quiet w t bytes
    refine Runs.ok _ hexec ?_
    generalize s.dev.snapSigned w t bytes = u at hquiet
    unfold Dev.snapTaken at hquiet
    rw [Dev.drbgDraw_eq] at hquiet
    generalize s.dev.wake.keys.drbg.generate.1 = g at hquiet
    have hreq : u.keys.requests = s.dev.wake.keys.requests + 1 := (congrArg (fun q : Dev => q.keys.requests) hquiet :)
    have hled : u.led = s.dev.wake.led := (congrArg Dev.led hquiet :)
    rw [Dev.wake_eq] at hreq
    exact ⟨(congrArg (fun q : Dev => q.keys.snaps) hquiet :), hreq, hled.trans s.dev.wake_led, rfl⟩

end Sys2Proof.Machine

/-! ## Proofs: the host link, the registers, messages and functions -/

namespace Sys2Proof.Machine

theorem State.stored_none {s : State} {d : Dev} (h : d.stores = []) : s.stored d = .next { s with dev := d } := by
  refine Eq.trans ?_ (State.ok_none h)
  rw [State.stored_eq, h]
  rfl

/-- Settles O41. -/
theorem hostLink : Obligations.HostLink := by
  unfold Obligations.HostLink
  intro s
  refine ⟨fun hmode hruns hup => ?_, fun hmode hruns hready hdown hsince hback => ?_, fun hmode hawake hclock hstores => ?_,
    fun halive => ⟨fun f on hf => ?_, fun on => ?_, ?_⟩⟩
  · have hexec : exec .hostPortDown s =
        s.ok ({ s.dev with host := { s.dev.host with linkUp := false, downSince := s.dev.up } } : Dev).resetConfigSpace :=
      if_pos (by simp [hmode, hruns, hup])
    exact Runs.ok _ hexec ⟨rfl, rfl, rfl, rfl, rfl, rfl, rfl, rfl, rfl, rfl, rfl⟩
  · exact if_pos (by simp [hmode, hruns, hready, hdown, hsince, hback])
  · exact (if_pos (by simp [hmode, hawake, hclock])).trans (State.ok_none hstores)
  · exact if_pos (by rcases hf with h | h <;> simp [halive, h])
  · exact if_pos halive
  · exact if_pos halive

/-! ### Registers -/

theorem Dev.hostAlive_of_barAlive {d : Dev} {f : Nat} (h : d.barAlive f = true) :
    d.hostAlive = true ∧ (f = 0 ∨ d.vfExists f = true) := by
  unfold Dev.barAlive at h
  simp only [Bool.and_eq_true] at h
  obtain ⟨halive, hf⟩ := h
  refine ⟨halive, ?_⟩
  by_cases h0 : f = 0
  · exact .inl h0
  · rw [if_neg h0] at hf
    exact .inr hf

/-- Past step 5 a function that exists has an answer to every host access. -/
theorem exec_registerRead {s : State} {f : Nat} (halive : s.dev.hostAlive = true) (hf : f = 0 ∨ s.dev.vfExists f = true) (a : HostAccess) :
    exec (.registerRead f a) s = match a with
      | .read off =>
        if !s.dev.barAlive f then s.ok s.dev
        else
          let d := if 0x48 ≤ off && f = 0 then s.dev.wake.moverLook else s.dev.wake
          s.ok (d.emit (.readData (BitVec.ofNat 64 (d.regOf f (off / 8 * 8)))))
      | .config i => s.ok (s.dev.wake.emit (.configAnswer f i (s.dev.configItem f i)))
      | .linkControl l1 ltr =>
        s.ok (if f = 0 then { s.dev.wake with host := { s.dev.wake.host with aspmL1 := l1, ltrEn := ltr } } else s.dev.wake) := by
  simp only [Dev.hostAlive, Bool.and_eq_true, decide_eq_true_eq] at halive
  obtain ⟨⟨⟨⟨hmode, hawake⟩, hclock⟩, hup⟩, hready⟩ := halive
  refine (if_neg (by rcases hf with h | h <;> simp [hmode, hawake, hclock, hup, h])).trans ?_
  cases a with
  | read off => rfl
  | config i => exact congrArg s.ok (if_pos hready)
  | linkControl l1 ltr => exact congrArg s.ok (if_pos hready)

theorem Dev.regWrite_of_dead {d : Dev} (halive : d.hostAlive = false) (hwrites : d.twtWrites = false) (p : Path) : d.regWrite p = false := by
  cases p with
  | pcie f => simp [Dev.regWrite, Dev.barAlive, halive]
  | twt => exact hwrites

/-- Settles O42. -/
theorem registers : Obligations.Registers := by
  unfold Obligations.Registers
  intro s w
  refine ⟨fun f off hpath halive => ⟨?_, ?_, ?_⟩, fun off hpath hwrites => ⟨?_, ?_⟩, fun hwrite => ⟨if_pos hwrite, if_pos hwrite⟩,
    fun f off hbar hoff => ?_, fun f hf halive => ⟨fun i => ?_, fun l1 ltr h0 => ?_⟩, fun hmode hawake hclock hup hstep i l1 ltr => ?_,
    fun hstores halive hwrites off b => ?_⟩
  · unfold exec execRegisterWrite
    dsimp only
    rw [hpath]
    exact if_pos halive
  · unfold exec execRegisterWrite
    dsimp only
    rw [hpath]
    exact if_pos halive
  · unfold exec execCauseW1c
    dsimp only
    rw [hpath]
    exact if_pos halive
  · unfold exec execRegisterWrite
    dsimp only
    rw [hpath]
    exact if_pos (by simp [Dev.regWrite, hwrites])
  · unfold exec execCauseW1c
    dsimp only
    rw [hpath]
    exact if_pos hwrites
  · obtain ⟨halive, hf⟩ := Dev.hostAlive_of_barAlive hbar
    refine (exec_registerRead halive hf (.read off)).trans ((if_neg (by simp [hbar])).trans ?_)
    have hlow : ¬ (decide (0x48 ≤ off) && decide (f = 0)) = true := by simp; omega
    simp only [hlow]
    rfl
  · exact exec_registerRead halive hf (.config i)
  · exact (exec_registerRead halive hf (.linkControl l1 ltr)).trans (congrArg s.ok (if_pos h0))
  · have hdown : ¬ (!s.dev.pwr.hostmode || !s.dev.awake || !s.dev.pwr.metClock || !s.dev.host.linkUp ||
        !(decide (0 = 0) || s.dev.vfExists 0)) = true := by simp [hmode, hawake, hclock, hup]
    exact ⟨(if_neg hdown).trans (congrArg s.ok (if_neg hstep)), (if_neg hdown).trans (congrArg s.ok (if_neg hstep))⟩
  · have hreg := Dev.regWrite_of_dead halive hwrites w.path
    have hgo : ∀ d, (if s.dev.regWrite w.path = true then s.stored d else s.stored s.dev) = .next s := fun d =>
      (if_neg (by simp [hreg])).trans (State.stored_none hstores)
    have hbar : ∀ f, s.dev.barAlive f = false := fun f => by simp [Dev.barAlive, halive]
    have htwt : s.dev.regWrite .twt = false := hwrites
    refine ⟨?_, hgo _, hgo _, ?_⟩
    · unfold exec execRegisterWrite
      dsimp only
      split
      · exact (if_neg (by simp [hbar])).trans (State.stored_none hstores)
      · exact (if_neg (by simp [htwt])).trans (State.stored_none hstores)
    · unfold exec execCauseW1c
      dsimp only
      split
      · exact (if_neg (by simp [hbar])).trans (State.ok_none hstores)
      · exact (if_neg (by simp [htwt])).trans (State.ok_none hstores)

/-! ### Messages and virtual functions -/

/-- Settles O45. -/
theorem functionsAndMessages : Obligations.FunctionsAndMessages := by
  unfold Obligations.FunctionsAndMessages
  intro s
  refine ⟨fun f v hunits hopened hsince => ?_, fun halive => ⟨fun f en fmask vmask hf => ?_, fun t ht => ?_, fun n ari hn => ?_⟩,
    fun t ht howed => ?_⟩
  · have hexec : exec (.msixHoldoff f v) s = s.ok (s.dev.wake.sendMsix f v) := if_pos (by simp [hunits, hopened, hsince])
    exact ⟨hexec, onlyPosts_of_quiet hexec (by simp)⟩
  · have hexec : exec (.msixUnmask f en fmask vmask) s =
        s.ok ((s.dev.wake.setFn f { s.dev.fn f with msixEn := en, fmask := fmask, vmask := vmask }).each (List.range 4) fun d v =>
          if ((d.fn f).win.get v {}).pending then d.sendMsix f v else d) :=
      if_pos (by rcases hf with h | h <;> simp [halive, h])
    refine ⟨hexec, onlyPosts_of_quiet hexec ?_⟩
    refine (Dev.each_keeps Dev.quiet (fun d v => ?_) _ _).trans ((Dev.setFn_quiet ..).trans s.dev.wake_quiet)
    split <;> simp
  · exact if_pos (by simp [halive, ht])
  · have hnone : (if s.dev.host.vfEnable then s.dev.host.numVfs else 0) - n.val = 0 := by
      rcases hn with h | h
      · simp [h]
      · split <;> omega
    have hexec : exec (.vfEnable n true ari) s =
        s.ok { s.dev.wake with host := { s.dev.wake.host with numVfs := n.val, vfEnable := true, ari := ari } } := by
      refine (if_pos halive).trans ?_
      simp only [if_true, hnone]
      rfl
    exact Runs.ok _ hexec ⟨rfl, rfl, rfl, s.dev.wake_eng, s.dev.wake_led⟩
  · let rs := (s.dev.eng.rings.cells.filter fun p => s.dev.ringOwner p.1 = t.val && p.2.state = .stopping).map Prod.fst
    let e : Dev := s.dev.each rs fun d r => d.ringState r .stopped
    have hall : (rs.all fun r => (s.dev.ring r).owed = 0) = true := by
      simp only [rs, List.all_map, List.all_filter, List.all_eq_true]
      intro p hp
      by_cases hmine : s.dev.ringOwner p.1 = t.val
      · by_cases hstop : p.2.state = .stopping
        · simp [howed p hp hmine hstop]
        · simp [hstop]
      · simp [hmine]
    have hexec : exec (.vfFlrDone t) s = s.ok ({ e with host := { e.host with flrWait := e.host.flrWait.erase t.val } } : Dev).settle :=
      (if_pos ht).trans (if_pos hall)
    have he : e.quiet = s.dev.quiet := Dev.each_keeps Dev.quiet (fun d r => d.ringState_quiet r .stopped) _ _
    have hsettle := Dev.settle_quiet { e with host := { e.host with flrWait := e.host.flrWait.erase t.val } }
    have hwait : e.host.flrWait = s.dev.host.flrWait := (congrArg (fun q : Dev => q.host.flrWait) he :)
    have hled : e.led = s.dev.led := (congrArg Dev.led he :)
    refine Runs.ok _ hexec ?_
    generalize ({ e with host := { e.host with flrWait := e.host.flrWait.erase t.val } } : Dev).settle = u at hsettle
    have hu : u.host.flrWait = e.host.flrWait.erase t.val := (congrArg (fun q : Dev => q.host.flrWait) hsettle :)
    rw [hwait] at hu
    exact ⟨hu, (congrArg Dev.led hsettle :).trans hled, rfl⟩

end Sys2Proof.Machine

/-! ## Proofs: negotiation and the restart check -/

namespace Sys2Proof.Machine

/-! ### HOSTMODE stands -/

/-- HOSTMODE as the strap set it. -/
def Dev.strap (d : Dev) : Bool := d.pwr.hostmode

theorem Dev.strap_of_still {d e : Dev} (h : d.still = e.still) : d.strap = e.strap := (congrArg (fun q : Dev => q.pwr.hostmode) h :)
theorem Dev.strap_of_quiet {d e : Dev} (h : d.quiet = e.quiet) : d.strap = e.strap := Dev.strap_of_still (Dev.still_of_quiet h)

theorem Dev.takeAccept_strap (d : Dev) (a : W64) : (d.takeAccept a).strap = d.strap := by
  unfold Dev.takeAccept
  extract_lets host store e1 e2 rs
  split
  · rfl
  · exact (Dev.each_keeps Dev.strap (fun d r => Dev.strap_of_quiet (by simp)) rs e2).trans rfl

theorem Dev.wake_strap (d : Dev) : d.wake.strap = d.strap := Dev.strap_of_quiet d.wake_quiet

theorem Dev.ringFault_strap (d : Dev) (r e : Nat) : (d.ringFault r e).strap = d.strap := by
  unfold Dev.ringFault
  extract_lets e1 e2 ended eng e3 e4 e5
  have h2 : e2.strap = d.strap := Dev.strap_of_quiet (by simp [e2, e1])
  have h4 : e4.strap = e3.strap := Dev.each_keeps Dev.strap (fun d p => Dev.strap_of_quiet (by simp)) _ _
  have h5 : e5.strap = e4.strap := Dev.strap_of_still (by simp [e5])
  have hall : e5.strap = d.strap := h5.trans (h4.trans h2)
  split
  · exact (Dev.strap_of_quiet (Dev.occur_quiet ..)).trans hall
  · exact hall

theorem Dev.takeShadow_strap (d : Dev) (fresh : Bool) : (d.takeShadow fresh).strap = d.strap := by
  unfold Dev.takeShadow
  split <;> rfl

theorem Dev.startFixed_strap (d : Dev) (ctx : List HostRead) : (d.startFixed ctx).strap = d.strap := by
  unfold Dev.startFixed
  refine Dev.each_keeps Dev.strap (fun d i => ?_) _ _
  split
  · exact Dev.strap_of_quiet (by simp)
  · split <;> exact Dev.ringFault_strap ..

/-! ### Backstop ends with HOSTMODE as it was -/

theorem Dev.tamperCatchUp_strap (d : Dev) : d.tamperCatchUp.strap = d.strap := by
  unfold Dev.tamperCatchUp
  refine Dev.each_keeps Dev.strap (fun d p => ?_) _ _
  dsimp only
  split
  · rfl
  · split
    · exact (Dev.strap_of_quiet (Dev.post_quiet ..)).trans rfl
    · exact (Dev.strap_of_quiet (Dev.postAfterCommit_quiet ..)).trans rfl

theorem Dev.errorCatchUp_strap (d : Dev) : d.errorCatchUp.strap = d.strap := by
  have hpost : ∀ (d : Dev) (e : Err) (t : DevTime) (f rc : Nat), (d.postErrorNow e t f rc).strap = d.strap := fun d e t f rc =>
    Dev.strap_of_still (Dev.postErrorNow_still ..)
  unfold Dev.errorCatchUp
  extract_lets b seq e1 err e2 e3 e4 n top fs
  have h2 : e2.strap = d.strap := by
    simp only [e2]
    split
    · exact hpost ..
    · rfl
  have h3 : e3.strap = e2.strap := by
    simp only [e3]
    split
    · exact hpost ..
    · rfl
  have h4 : e4.strap = e3.strap := Dev.each_keeps Dev.strap (fun d r => by exact hpost ..) _ _
  split
  · exact h4.trans (h3.trans h2)
  · exact (hpost ..).trans (h4.trans (h3.trans h2))

theorem Dev.enterListen_strap (d : Dev) (mode filter : Nat) (only : Option Nat) (yields : Bool) :
    (d.enterListen mode filter only yields).strap = d.strap := by
  unfold Dev.enterListen Dev.setRole
  dsimp only
  split <;> rfl

theorem Dev.postLine_quiet (d : Dev) (event : Nat) (fs : List Fld) : (d.postLine event fs).quiet = d.quiet := by
  simp [Dev.postLine]

theorem Dev.lineRestart_strap (d : Dev) : d.lineRestart.strap = d.strap := by
  unfold Dev.lineRestart
  split
  · exact (Dev.strap_of_quiet (Dev.postLine_quiet ..)).trans (Dev.enterListen_strap ..)
  · rfl

theorem Dev.endBackstop_strap (d : Dev) : d.endBackstop.strap = d.strap := by
  unfold Dev.endBackstop
  extract_lets cause since pwr pq harm e1 e2 e3 owed pwr' e4 e5 e6 e7
  have h3 : e3.strap = d.strap := (Dev.strap_of_quiet (by simp [e3, e2])).trans (show e1.strap = d.strap from rfl)
  have h5 : e5.strap = e3.strap := (Dev.each_keeps Dev.strap (fun d o => Dev.strap_of_quiet (by simp)) _ e4).trans rfl
  have h6 : e6.strap = e5.strap := Dev.tamperCatchUp_strap _
  have h7 : e7.strap = e6.strap := (Dev.lineRestart_strap _).trans (Dev.errorCatchUp_strap _)
  have hall : e7.strap = d.strap := h7.trans (h6.trans (h5.trans h3))
  split
  · exact (Dev.strap_of_still (Dev.raise_still ..)).trans hall
  · exact hall

theorem Dev.afterNegotiation_strap (d : Dev) : d.afterNegotiation.strap = d.strap := by
  unfold Dev.afterNegotiation
  split
  · rfl
  · split
    · split <;> rfl
    · split
      · rfl
      · exact d.endBackstop_strap

/-! ### The commands -/

/-- A negotiation's set as taken, the cached contexts dropped where another set was in force. -/
def Dev.negotiated (d : Dev) (a : W64) : Dev :=
  if !d.host.negotiated then (d.takeAccept a).wake else (d.takeAccept a).wake.dropContexts

theorem Dev.negotiated_strap (d : Dev) (a : W64) : (d.negotiated a).strap = d.strap := by
  have h : (d.takeAccept a).wake.strap = d.strap := (Dev.wake_strap _).trans (d.takeAccept_strap a)
  unfold Dev.negotiated
  split
  · exact h
  · exact h

/-- Rings 0–2 are loaded, and the other rings' contexts written back. -/
def Dev.ringsUp (d : Dev) (fresh : Bool) (ctx : List HostRead) : Dev :=
  let e := (d.takeShadow fresh).startFixed ctx
  e.each (e.eng.rings.cells.filter fun p => p.2.state != .absent && p.1 > 2) fun d p => d.writeBack p.1

theorem Dev.ringsUp_strap (d : Dev) (fresh : Bool) (ctx : List HostRead) : (d.ringsUp fresh ctx).strap = d.strap := by
  unfold Dev.ringsUp
  exact (Dev.each_keeps Dev.strap (fun d (p : Nat × Ring) => Dev.strap_of_quiet (d.writeBack_quiet p.1)) _ _).trans
    ((Dev.startFixed_strap ..).trans (Dev.takeShadow_strap ..))

theorem exec_negotiationComplete {s : State} {a : W64} (ha : s.dev.host.negotiating = some a) (ctx : List HostRead) :
    exec (.negotiationComplete ctx) s =
      let d := s.dev.negotiated a
      let e := if d.pwr.hostmode then (d.takeShadow !s.dev.host.negotiated).startFixed ctx else d
      let e := if e.pwr.hostmode then
          e.each (e.eng.rings.cells.filter fun p => p.2.state != .absent && p.1 > 2) fun d p => d.writeBack p.1
        else e
      let e := e.afterNegotiation
      s.stored (if e.pwr.hostmode && !e.pwr.backstop then e.runBootImage s.boot else e).lineAutoJoin := by
  unfold exec execNegotiationComplete
  dsimp only
  rw [ha]
  rfl

/-- With HOSTMODE high the rings are brought up before Backstop may end, and the boot image runs after it. -/
theorem exec_negotiationComplete_high {s : State} {a : W64} (ha : s.dev.host.negotiating = some a) (ctx : List HostRead)
    (hmode : s.dev.pwr.hostmode = true) :
    exec (.negotiationComplete ctx) s =
      let e := ((s.dev.negotiated a).ringsUp (!s.dev.host.negotiated) ctx).afterNegotiation
      s.stored (if e.pwr.hostmode = true ∧ e.pwr.backstop = false then e.runBootImage s.boot else e).lineAutoJoin := by
  have hhigh : (s.dev.negotiated a).pwr.hostmode = true := (s.dev.negotiated_strap a).trans hmode
  have hfixed : (((s.dev.negotiated a).takeShadow !s.dev.host.negotiated).startFixed ctx).pwr.hostmode = true :=
    (Dev.startFixed_strap ..).trans ((Dev.takeShadow_strap ..).trans hhigh)
  refine (exec_negotiationComplete ha ctx).trans ?_
  simp only [hhigh, hfixed, if_true, Bool.and_eq_true, Bool.not_eq_true']
  rfl

/-- Settles O46: the strap stands, so that HOSTMODE decides every branch alike. -/
theorem negotiationAndRestart : Obligations.NegotiationAndRestart := by
  unfold Obligations.NegotiationAndRestart
  intro s
  refine ⟨fun a ctx ha => ⟨fun hmode => ?_, fun hmode => ?_⟩, fun ctx hnone hstores => ?_,
    fun hback hchecking hneg hunits hcause => ⟨fun hcode hmode => ?_, fun pll logic hfail hstores => ?_⟩⟩
  · have hlow : (s.dev.negotiated a).pwr.hostmode = false := (s.dev.negotiated_strap a).trans hmode
    have hafter : (s.dev.negotiated a).afterNegotiation.pwr.hostmode = false := (Dev.afterNegotiation_strap _).trans hlow
    refine (exec_negotiationComplete ha ctx).trans ?_
    simp only [hlow, hafter, Bool.false_eq_true, if_false, Bool.false_and]
    rfl
  · exact exec_negotiationComplete_high ha ctx hmode
  · unfold exec execNegotiationComplete
    dsimp only
    rw [hnone]
    exact State.stored_none hstores
  · let d : Dev := { s.dev with pwr := { s.dev.pwr with checking := false }, eng := { s.dev.eng with quarantined := 0 } }
    have hend : d.endBackstop.pwr.hostmode = false := d.endBackstop_strap.trans hmode
    have hexec : exec (.restartCheck true true) s =
        s.stored (if d.endBackstop.pwr.hostmode then d.endBackstop.runBootImage s.boot else d.endBackstop) := by
      change execRestartCheck true true s = _
      unfold execRestartCheck
      extract_lets d0 code needV needP needL vOk pwr e1 eng e2 e3
      have hL : needL = true := by simp [needL, d0, hcause]
      have hV : needV = false := by simp [needV, code, d0, hcause, hcode]
      have he2 : e2 = d := if_pos hL
      rw [if_neg (by simp [d0, hback, hchecking, hneg, hunits]), if_pos (by simp [hV])]
      simp only [e3, he2]
    rw [hexec, hend]
    rfl
  · have hexec : exec (.restartCheck pll logic) s = s.stored s.dev := by
      change execRestartCheck pll logic s = _
      unfold execRestartCheck
      extract_lets d0 code needV needP needL vOk pwr e1 eng e2 e3
      have hL : needL = true := by simp [needL, d0, hcause]
      have hP : needP = true := by simp [needP, d0, hcause]
      rw [if_neg (by simp [d0, hback, hchecking, hneg, hunits]), if_neg (by rcases hfail with h | h <;> simp [hL, hP, h])]
    exact hexec.trans (State.stored_none hstores)

end Sys2Proof.Machine

/-! ## Proofs: serving the rings -/

namespace Sys2Proof.Machine

/-! ### A wake leaves what decides a ring's service -/

theorem Dev.awake_eq_stay (d : Dev) : d.awake = decide (d.stay = .run) := by
  unfold Dev.awake Dev.stay
  cases d.pwr.pstate <;> rfl

theorem Dev.awake_of_stay {d e : Dev} (h : d.stay = e.stay) : d.awake = e.awake := by
  rw [Dev.awake_eq_stay, Dev.awake_eq_stay, h]

/-- What posting leaves of the power state and of the rest leaves the units in service as well. -/
theorem Dev.serving_of_quiet {d e : Dev} (h : d.quiet = e.quiet) (hstay : d.stay = e.stay) : d.serving = e.serving := by
  have hclock : d.pwr.metClock = e.pwr.metClock := (congrArg (fun q : Dev => q.pwr.metClock) h :)
  have hstep : d.pwr.step = e.pwr.step := (congrArg (fun q : Dev => q.pwr.step) h :)
  have hback : d.pwr.backstop = e.pwr.backstop := (congrArg (fun q : Dev => q.pwr.backstop) h :)
  have hneg : d.host.negotiated = e.host.negotiated := (congrArg (fun q : Dev => q.host.negotiated) h :)
  simp only [Dev.serving, Dev.units, hclock, hstep, hback, hneg, Dev.awake_of_stay hstay]

@[simp] theorem Dev.wake_serving (d : Dev) : d.wake.serving = d.serving := Dev.serving_of_quiet d.wake_quiet d.wake_stay

@[simp] theorem Dev.wake_masters (d : Dev) (f : Nat) : d.wake.masters f = d.masters f := by
  simp only [Dev.masters, Dev.fn, Dev.wake_host]

@[simp] theorem Dev.wake_ringCount (d : Dev) : d.wake.ringCount = d.ringCount := by
  simp only [Dev.ringCount, Dev.log2Rings, Dev.wake_host]

@[simp] theorem Dev.wake_has (d : Dev) (n : Nat) : d.wake.has n = d.has n := by simp only [Dev.has, Dev.wake_host]
@[simp] theorem Dev.wake_fn (d : Dev) (f : Nat) : d.wake.fn f = d.fn f := by simp only [Dev.fn, Dev.wake_host]
@[simp] theorem Dev.wake_vfExists (d : Dev) (f : Nat) : d.wake.vfExists f = d.vfExists f := by simp only [Dev.vfExists, Dev.wake_host]
@[simp] theorem Dev.wake_ringOwner (d : Dev) (r : Nat) : d.wake.ringOwner r = d.ringOwner r := by simp only [Dev.ringOwner, Dev.wake_eng]

/-! ### KICK -/

/-- A kick by the PF, in service and while it masters, serves the ring's doorbell. -/
theorem Dev.kick_pf {d : Dev} {b : BellRead} (hserving : d.serving = true) (hneg : d.host.negotiated = true) (hring : b.ring < d.ringCount)
    (hmasters : d.masters 0 = true) : d.kick 0 b = d.wake.serveBell b := by
  unfold Dev.kick
  dsimp only
  rw [if_neg (by simp [hneg, hring]), if_neg (by simp), if_neg (by simp), if_neg (by simp [hserving, hmasters])]

/-- A kick by a VF of a ring that is not its own is counted. -/
theorem Dev.kick_foreign {d : Dev} {b : BellRead} {f : Nat} (h0 : f ≠ 0) (hneg : d.host.negotiated = true) (hring : b.ring < d.ringCount)
    (hhas : d.has 1 = true) (hvf : d.vfExists f = true) (hown : d.ringOwner b.ring ≠ f - 1) :
    d.kick f b = d.wake.setFn f { d.fn f with kickRejected := sat32 ((d.fn f).kickRejected + 1) } := by
  unfold Dev.kick
  dsimp only
  rw [if_neg (by simp [hneg, hring]), if_neg (by simp [hhas, hvf]), if_pos (by simp [h0, hown]), Dev.wake_fn]

/-! ### The scan -/

theorem Dev.rouse_host (d : Dev) : d.rouse.host = d.host := by rw [Dev.rouse_eq]

/-- A started command ring whose INDEX has changed is served by the scan. -/
theorem exec_doorbellScan_one {s : State} {b : BellRead} {w : Bell} (hserving : s.dev.serving = true) (hhas : s.dev.has 12 = true)
    (hsince : s.dev.since s.dev.eng.scanAt (us s.dev.scanUs) = true) (hbell : b.bell = some w) (hty : (s.dev.ring b.ring).ty = 0)
    (hstart : (s.dev.ring b.ring).state = .started) (hindex : wrap 32 w.index ≠ (s.dev.ring b.ring).hostIndex)
    (hmasters : s.dev.masters (fnOfOwner (s.dev.ringOwner b.ring)) = true) :
    exec (.doorbellScan [b]) s = s.ok ((({ s.dev with eng := { s.dev.eng with scanAt := s.dev.up } } : Dev).rouse.wake).serveBell b) := by
  let d : Dev := ({ s.dev with eng := { s.dev.eng with scanAt := s.dev.up } } : Dev).rouse
  have hring : d.ring b.ring = s.dev.ring b.ring := by
    simp only [d, Dev.ring, Dev.rouse_eng]
  have hmay : d.masters (fnOfOwner (d.ringOwner b.ring)) = true := by
    simp only [d, Dev.masters, Dev.fn, Dev.ringOwner, Dev.rouse_eng, Dev.rouse_host]
    exact hmasters
  refine (if_pos (by simp [hserving, hhas, hsince])).trans (congrArg s.ok ?_)
  refine if_pos ?_
  rw [hbell]
  show ((decide ((d.ring b.ring).ty = 0) || decide ((d.ring b.ring).ty = 3)) && decide ((d.ring b.ring).state = .started) &&
    decide (wrap 32 w.index ≠ (d.ring b.ring).hostIndex) && d.masters (fnOfOwner (d.ringOwner b.ring))) = true
  rw [hmay, hring, hty, hstart]
  simp [hindex]

/-- Settles O49. -/
theorem ringService : Obligations.RingService := by
  unfold Obligations.RingService
  intro s hserving
  refine ⟨fun b halive hneg hring hmasters => ⟨?_, fun hpf => ?_⟩, fun b f h0 halive hneg hring hhas hown => ?_, fun b hmasters hdue => ?_,
    fun b w hhas hsince hbell hty hstart hindex hmasters => ?_, fun r hstart hchanged hmasters => ?_, fun r l hquiesce hnext => ?_, fun r hr => ?_⟩
  · exact congrArg s.ok ((if_pos halive).trans (Dev.kick_pf hserving hneg hring hmasters))
  · refine congrArg s.ok ((if_neg (by simp [halive])).trans ((if_neg (by simp [hneg, hserving, hmasters])).trans ?_))
    exact if_pos hpf
  · obtain ⟨_, hf⟩ := Dev.hostAlive_of_barAlive halive
    exact congrArg s.ok ((if_pos halive).trans (Dev.kick_foreign h0 hneg hring hhas (hf.resolve_left h0) hown))
  · exact if_pos (by simp [hserving, hmasters, hdue])
  · exact exec_doorbellScan_one hserving hhas hsince hbell hty hstart hindex hmasters
  · have hexec : exec (.contextWriteback r) s = s.ok (s.dev.writeBack r) := if_pos (by simp [hserving, hstart, hchanged, hmasters])
    exact ⟨hexec, onlyPosts_of_quiet hexec (by simp)⟩
  · have hturn : (s.dev.serving && !s.dev.host.quiesce && decide (s.dev.nextService.2 = some r)) = true := by
      simp [hserving, hquiesce, hnext]
    exact ⟨if_pos hturn, if_pos hturn⟩
  · exact if_pos (by rcases hr with h | h <;> simp [hserving, h])

end Sys2Proof.Machine

/-! ## Proofs: the ring opcodes -/

namespace Sys2Proof.Machine

/-- A ring other than the fixed ones, below the ring count. -/
theorem ring_named {r n : Nat} (hlow : 2 < r) (hhigh : r < n) : ¬ (decide (r ≤ 2) || decide (n ≤ r)) = true := by
  simp; omega

/-- Settles O53. -/
theorem ringOpcodes : Obligations.RingOpcodes := by
  unfold Obligations.RingOpcodes
  intro s x b r
  refine ⟨fun bs h hin hpool hlow hhigh hown => ?add, fun bs h hin hpool hlow hhigh hown hctx hstopped => ?start,
    fun h hlow hhigh hstarted hty => ?stop, fun h hlow hhigh hstate hpartner => ?del, fun h hhigh hlen => ?query,
    fun h hblock hhigh hown hempty => ?assign, fun h htenant haddr hmod hmin hmax => ?buf, fun h => ?fence⟩
  case add =>
    have hring : ¬ (decide (r ≤ 2) || decide (b.ringCount ≤ r) || decide (b.ringOwner r = 0xFE)) = true := by
      simp [hown]; omega
    have hexec := (exec_accepted rfl rfl h).trans (congrArg s.ok ((if_neg hring).trans (Dev.withInput_ok _ hpool hin)))
    refine ⟨fun hctx => hexec.trans (congrArg s.ok (if_pos ?_)), fun hctx habsent => hexec.trans (congrArg s.ok ((if_neg ?_).trans (if_neg ?_)))⟩
    · simp [r, b, hctx]
    · simp [r, b, hctx]
    · exact not_not.2 habsent
  case start =>
    have hring : ¬ (decide (r ≤ 2) || decide (b.ringCount ≤ r) || decide (b.ringOwner r = 0xFE)) = true := by
      simp [hown]; omega
    refine (exec_accepted rfl rfl h).trans (congrArg s.ok ((if_neg hring).trans ((Dev.withInput_ok _ hpool hin).trans ?_)))
    exact (if_neg (show ¬ (decide (b.ringOwner r < 64) && !b.has 1) = true by simp [hown])).trans
      ((if_neg (show ¬ (!b.ctxOk r ((b.ring r).load bs) 0 true) = true by simp [hctx])).trans (if_neg (not_not.2 hstopped)))
  case stop =>
    refine (exec_accepted rfl rfl h).trans (congrArg s.ok ((if_neg (ring_named hlow hhigh)).trans ((if_neg (not_not.2 hstarted)).trans ?_)))
    have hupd : (b.updRing r fun g =>
          { g with dropped := if g.ty = 0 then g.dropped else wrap 16 (g.dropped + g.held.length), held := [], bufs := [] }) =
        b.updRing r fun g => { g with held := [], bufs := [] } :=
      congrArg (b.setRing r) (congrArg (fun n => ({ b.ring r with dropped := n, held := [], bufs := [] } : Ring)) (if_pos hty))
    exact congrArg (fun d : Dev => ({ (d.ringState r .stopping).bump 0x47 with eng := { ((d.ringState r .stopping).bump 0x47).eng with
      stops := ((d.ringState r .stopping).bump 0x47).eng.stops ++ [(r, x.ref)] } } : Dev).settle) hupd
  case del =>
    have hstate' : ¬ ((decide ((b.ring r).state = .started) || decide ((b.ring r).state = .stopping) || decide ((b.ring r).state = .absent) ||
        b.eng.rings.cells.any fun p => p.1 ≠ r && p.2.state != .absent && p.2.partner = r && (p.2.ty = 0 || p.2.ty = 2)) = true) := by
      have hnone : (b.eng.rings.cells.any fun p => p.1 ≠ r && p.2.state != .absent && p.2.partner = r && (p.2.ty = 0 || p.2.ty = 2)) = false := by
        rw [List.any_eq_false]
        intro p hp
        simp [hpartner p hp]
      rw [hnone]
      rcases hstate with h | h <;> simp [h]
    exact (exec_accepted rfl rfl h).trans (congrArg s.ok ((if_neg (ring_named hlow hhigh)).trans (if_neg hstate')))
  case query =>
    refine ⟨_, ?_, (exec_accepted rfl rfl h).trans (congrArg s.ok (if_neg ?_))⟩
    · exact layout_length ..
    · simp only [Bool.or_eq_true, decide_eq_true_eq]
      rintro (hr | hl)
      · exact absurd hhigh (Nat.not_lt.2 hr)
      · omega
  case assign =>
    have hbad : ¬ (decide (x.arg 24 2 = 0) || decide (b.ringCount ≤ 512 * x.arg 24 2) ||
        (decide (64 ≤ x.arg 26 1) && decide (x.arg 26 1 ≠ 0xFF))) = true := by
      simp [hown]; omega
    have hused : ¬ (b.eng.rings.cells.any fun p => p.1 / 512 = x.arg 24 2 && p.2.state != .absent) = true := by
      rw [Bool.not_eq_true, List.any_eq_false]
      intro p hp
      by_cases hin : p.1 / 512 = x.arg 24 2
      · simp [hempty p hp hin]
      · simp [hin]
    refine (exec_accepted rfl rfl h).trans (congrArg s.ok ((if_neg hbad).trans ((if_neg ?_).trans ((if_neg hused).trans ?_))))
    · simp [hown]
    · rw [hown]
  case buf =>
    refine (exec_accepted rfl rfl h).trans (congrArg s.ok ((if_neg ?_).trans (if_neg ?_)))
    · simp [htenant]
    · simp [haddr, hmod]; omega
  case fence => exact exec_accepted rfl rfl h

end Sys2Proof.Machine

/-! ## Proofs: the opcodes that write the config store -/

namespace Sys2Proof.Machine

theorem ite_or_eq {α : Type} (a b : Bool) (u v : α) :
    (if a = false then u else if b = false then u else v) = if a = false ∨ b = false then u else v := by
  cases a <;> cases b <;> rfl

/-- The content check of CAL_SET, by its KIND. -/
theorem calGood_eq (d : Dev) (kind i : Nat) (bs : List Byte) :
    (match kind with
      | 0 => d.cabinetOk bs
      | 1 => voltBlkOk i bs
      | _ => chanBlkOk i bs) = if kind = 0 then d.cabinetOk bs else if kind = 1 then voltBlkOk i bs else chanBlkOk i bs := by
  rcases kind with _ | _ | n
  · rfl
  · rfl
  · rw [if_neg (by omega), if_neg (by omega)]
    rfl

/-- CAL_SET of a good block stands before the seal. -/
theorem exec_calSet {s : State} {x : Desc} {bs : List Byte} {kind i n : Nat} (hin : x.input = .ok bs) (hpool : (s.dev.begun x).poolFree ≠ 0)
    (hkind : kind = x.arg 24 1) (hi : i = x.arg 26 2) (h : Accepted (.calSet x) s) (hsize : calSize kind i = some n) (hlen : n ≤ x.len)
    (hk : kind < 3)
    (hgood : (if kind = 0 then (s.dev.begun x).cabinetOk bs else if kind = 1 then voltBlkOk i bs else chanBlkOk i bs) = true) :
    exec (.calSet x) s = s.ok (
      let b := s.dev.begun x
      let group := if kind = 2 then 0x03 else 0x02
      let key := if kind = 1 then 1 + i else i
      if b.cal.sealed then b.done x.ref stSealed
      else if b.groupPending group key then b.done x.ref stBusy
      else b.queueGroup x.ref { group := group, key := key, block := calKept kind bs, cmd := some x.ref, sealChange := true }) := by
  refine (exec_accepted rfl rfl h).trans (congrArg s.ok ?_)
  rw [← calGood_eq] at hgood
  subst hkind hi
  dsimp only
  rw [hsize]
  refine (if_neg (by simp [hk]; omega)).trans ((Dev.withInput_ok _ hpool hin).trans (if_neg ?_))
  rw [Bool.not_eq_true', Bool.not_eq_false]
  exact hgood

/-- Settles O54. (The model has a list of its own under the name `storeOpcodes`.) -/
theorem storeOpcodes_hold : Obligations.StoreOpcodes := by
  unfold Obligations.StoreOpcodes
  intro s x bs hin hpool b a
  refine ⟨fun kind i n hkind hi h hsize hlen hk hgood => ?cal, fun h hlen ha hok hclear hsame hpend hmay => ?tenant, fun g hg h => ?config,
    fun h hlen hseq => ?aux, fun o h hlen ho hle hacct hq hc1 hc2 hw1 hw2 hcal hnone hpend => ?pulse,
    fun o ho h hlen hlt hkind hgen hpend hccm hloaded => ?key, fun p hp h hpend hmin hmax hlen hmagic hdev hsha hecdsa htime => ?package⟩
  case cal =>
    have hexec := exec_calSet hin hpool hkind hi h hsize hlen hk hgood
    exact ⟨fun hsealed => hexec.trans (congrArg s.ok (if_pos hsealed)), fun hopen hfree => hexec.trans (congrArg s.ok
      ((if_neg (by simp [b] at hopen; simp [hopen])).trans (if_neg (by rw [hfree]; decide))))⟩
  case tenant =>
    refine (exec_accepted rfl rfl h).trans (congrArg s.ok ((if_neg (by omega)).trans ((Dev.withInput_ok _ hpool hin).trans ?_)))
    have hseal : (!(sameSealed (b.acct a).block bs || sameSealed (b.nextBlock a) bs) || bitOf (fieldAt bs 13 1) 0) = false := by
      simp [hsame, hclear]
    have hmay' : ¬ (decide (blkTarget bs = 0) && decide ((b.acct a).shown ≠ 1)) = true := by
      rcases hmay with h | h <;> simp [h]
    refine (if_neg (not_not.2 ha)).trans ((if_neg (by simp [b, a] at hok; simp [hok])).trans ?_)
    show (if ((!(sameSealed (b.acct a).block bs || sameSealed (b.nextBlock a) bs) || bitOf (fieldAt bs 13 1) 0) && b.cal.sealed) = true
      then _ else _) = _
    rw [hseal, hclear]
    exact (if_neg (by simp)).trans ((if_neg (by rw [hpend]; decide)).trans (if_neg hmay'))
  case config =>
    have hexec (good : Bool) (hdef : (if g = 0x05 then pqOk bs else if g = 0x08 then hostOk bs else lineOk bs) = good)
        (hsize : ¬ ((decide (g ≠ 0x05) && decide (g ≠ 0x08) && decide (g ≠ 0x09)) || decide (x.len ≠ if g = 0x05 then 32 else 64)) = true)
        (hgood : good = true) : exec (.configWrite x) s = s.ok (b.queueWrite x.ref g 0 (configKept g bs)) := by
      subst hg
      refine (exec_accepted rfl rfl h).trans (congrArg s.ok ((if_neg hsize).trans ((Dev.withInput_ok _ hpool hin).trans (if_neg ?_))))
      rw [hdef, hgood]
      decide
    refine ⟨fun h5 hlen hok => hexec _ rfl ?_ ?_, fun h8 hlen hok => hexec _ rfl ?_ ?_, fun h9 hlen hok => hexec _ rfl ?_ ?_⟩
    · simp [h5, hlen]
    · simp [h5, hok]
    · simp [h8, hlen]
    · simp [h8, hok]
    · simp [h9, hlen]
    · simp [h9, hok]
  case aux =>
    have hexec := (exec_accepted rfl rfl h).trans (congrArg s.ok ((if_neg (by omega : ¬ x.len < 40)).trans
      ((Dev.withInput_ok _ hpool hin).trans (if_neg (by rw [hseq]; decide)))))
    refine ⟨fun hstore => hexec.trans (congrArg s.ok (if_pos hstore)), fun hstore hslots => hexec.trans (congrArg s.ok ?_)⟩
    refine (if_neg (by rw [hstore]; decide)).trans (congrArg (fun d : Dev => d.done x.ref stOK) (if_pos ?_))
    show (b.slotsOf 0x07).isEmpty = true
    rw [hslots]
    rfl
  case pulse =>
    subst ho
    have hbad : ¬ (decide (fieldAt bs 0 1 > 7) || (decide (plsAccount bs > 64) && decide (plsAccount bs ≠ 0xFF)) || decide (plsQuantity bs > 15) ||
        decide (plsConst bs < 1) || decide (plsConst bs > 16000000) || decide (plsWidth bs < 2) || decide (plsWidth bs > 250)) = true := by
      simp only [Bool.or_eq_true, Bool.and_eq_true, decide_eq_true_eq]
      omega
    have hseal : ¬ (plsCal bs && b.cal.sealed) = true := by rcases hcal with h | h <;> simp [h]
    have hbusy : ¬ ((b.pulse (fieldAt bs 0 1)).pend.isSome || b.groupPending 0x06 (fieldAt bs 0 1)) = true := by
      rw [hnone, hpend]
      decide
    have hexec := (exec_accepted rfl rfl h).trans (congrArg s.ok ((if_neg (by omega : ¬ x.len < 16)).trans
      ((Dev.withInput_ok _ hpool hin).trans ((if_neg hbad).trans ((if_neg hseal).trans (if_neg hbusy))))))
    exact ⟨fun hstore => hexec.trans (congrArg s.ok (if_pos hstore)),
      fun hstore => hexec.trans (congrArg s.ok (if_neg (by rw [hstore]; decide)))⟩
  case key =>
    subst ho
    have hbad : ¬ (decide (fieldAt bs 0 1 > 0x41) || decide (fieldAt bs 1 1 ≠ b2n (fieldAt bs 0 1 = 0x41)) || decide (fieldAt bs 4 4 = 0)) = true := by
      have ho : ¬ fieldAt bs 0 1 = 0x41 := by omega
      have hgen0 : ¬ fieldAt bs 4 4 = 0 := by omega
      simp [ho, hkind, hgen0, b2n]
      omega
    have hexec := (exec_accepted rfl rfl h).trans (congrArg s.ok ((if_neg (by omega : ¬ x.len < 96)).trans
      ((Dev.withInput_ok _ hpool hin).trans ((if_neg hbad).trans ((if_neg (by rw [hpend]; decide)).trans
        ((if_neg (Nat.not_le.2 hgen)).trans (if_neg (by rw [hccm]; decide))))))))
    refine ⟨fun hnone => hexec.trans (congrArg s.ok ?_), fun key hkey => hexec.trans (congrArg s.ok ?_)⟩
    · rw [hnone]
    · rw [hkey]
      have ho : ¬ fieldAt bs 0 1 = 0x41 := by omega
      refine (if_neg (by simp [ho])).trans ?_
      dsimp only
      rw [hloaded, if_neg ho]
  case package =>
    subst hp
    have hbad : ¬ (decide (fieldAt bs 4 4 < 432) || decide (16352 < fieldAt bs 4 4) || decide (x.len < fieldAt bs 4 4) ||
        decide (fieldAt bs 0 4 ≠ 0x01564645)) = true := by
      simp [hmagic]
      omega
    refine (exec_accepted rfl rfl h).trans (congrArg s.ok ((Dev.withInput_ok _ hpool hin).trans ?_))
    refine (if_neg (by rw [hpend]; decide)).trans ((if_neg hbad).trans ((if_neg (by simp [hdev])).trans ((if_neg ?_).trans ?_)))
    · rw [hsha, hecdsa]
      decide
    · have htime' : ¬ (decide (fieldAt (bs.take (fieldAt bs 4 4)) 24 8 ≠ 0) && !b.pwr.timeInvalid &&
          decide (b.now < fieldAt (bs.take (fieldAt bs 4 4)) 24 8)) = true := by simp [htime]
      simp only [Bool.not_eq_true']
      exact ite_congr rfl (fun _ => rfl) fun _ => ite_congr rfl (fun _ => rfl) fun _ =>
        (if_neg htime').trans (ite_or_eq ..)

end Sys2Proof.Machine

/-! ## Proofs: the opcodes that act -/

namespace Sys2Proof.Machine

/-- A test of SELFTEST that is accepted, and that its own checks allow, starts. -/
theorem exec_selftest {c : Instr} {s : State} {x : Desc} {test : Nat} {ok : Bool} {shut busy may : Dev → Bool} {start : Dev → Dev}
    (hexec : exec c s = s.ok (s.dev.selftest x test ok shut busy may start)) (hrow : opcodeRow c = opcodeRow.selftestRow x test)
    (h : Accepted c s) (htest : x.arg 24 1 = test) (hok : ok = true) (hshut : shut (s.dev.begun x) = false)
    (hnone : (s.dev.begun x).test = none) (hbusy : busy (s.dev.begun x) = false) (hmay : may (s.dev.begun x) = true) :
    exec c s = s.ok (start { s.dev.begun x with test := some ({
      cmd := x.ref, test := x.arg 24 1, target := x.arg 25 1, duration := x.arg 26 2, since := (s.dev.begun x).up } : SelfTest) }) := by
  have hmine : ¬ (x.arg 24 1 ≠ test ∧ selfTests.contains (x.arg 24 1) = true) := fun h => h.1 htest
  have hrun : ¬ (decide (x.arg 24 1 ≠ test) && selfTests.contains (x.arg 24 1)) = true := by simp [htest]
  have hrow' := hrow.trans (if_neg hmine)
  simp only [Dev.selftest, if_neg hrun, Bool.or_eq_true, decide_eq_true_eq] at hexec
  refine (exec_accepted hexec hrow' h).trans (congrArg s.ok ?_)
  rw [if_neg (by simp [htest, hok]), if_neg (by simp [hshut]), if_neg (by simp [hnone, hbusy]), if_neg (by simp [hmay])]

/-- TENANT_SUSPEND and TENANT_RESUME past their checks. -/
theorem Dev.tenantPend_may {d : Dev} {x : Desc} {a : Nat} (ha : a ≠ 64) (hpend : d.tenantPending a = false) (p : AcctPend) :
    d.tenantPend x a true p = ({ d with accts := d.accts.set a { d.acct a with pend := some p } } : Dev).done x.ref stOK := by
  unfold Dev.tenantPend
  rw [if_neg ha, if_neg (by simp [hpend]), if_neg (by simp)]

/-- A sealed recovery past its checks waits for its tick. -/
theorem Dev.recoverWith_waits {d : Dev} {x : Desc} (hopen : d.cal.sealed = false) (hhold : d.faultHold (x.arg 26 1) = true)
    (hnone : (d.acct (x.arg 26 1)).recover = none) (r : Recovery) :
    d.recoverWith x true r =
      ({ d with accts := d.accts.set (x.arg 26 1) { d.acct (x.arg 26 1) with recover := some r } } : Dev).done x.ref stOK := by
  unfold Dev.recoverWith
  dsimp only
  rw [if_neg (by simp [hopen]), if_neg (by simp [hhold]), if_neg (by simp [hnone])]

/-- What LINE_JOIN does once a role held is reported: it listens anew and completes. -/
def Dev.listenAnew (x : Desc) (d : Dev) : Dev :=
  let d := d.setNet { d.lnet with w := 64 }
  let d := d.enterListen (if d.pwr.hostmode then x.arg 24 1 else 0) (x.arg 26 2) none false
  (d.postLine 0x01 []).done x.ref stOK

/-- Listening anew, with HOSTMODE as it was before the role's report. -/
theorem Dev.listenAnew_eq {d : Dev} {x : Desc} {host : Bool} (h : d.pwr.hostmode = host) :
    Dev.listenAnew x d = (((d.setNet { d.lnet with w := 64 }).enterListen (if host then x.arg 24 1 else 0) (x.arg 26 2) none false).postLine
      0x01 []).done x.ref stOK := by
  subst h
  rfl

/-- Settles O55. Each command passes the common checks and then its own, one after another, to the branch that acts. -/
theorem actingOpcodes : Obligations.ActingOpcodes := by
  unfold Obligations.ActingOpcodes
  intro s x b a
  refine ⟨fun h ha hpend hshown => ?suspend, fun h ha hpend hshown => ?resume, fun h hstate => ?grid,
    fun mode v amount hmode hv hamount h ha hprepay hle => ?credit, fun h ha hlink hmode => ?relay, fun k h ho hk hpend => ?commit,
    fun h hlen hsnaps hsha hecdsa hready => ?snap, fun h htime => ?clock, fun bs h hin hpool hlen hok => ?arm, fun n hn h hact hseq => ?ack,
    fun h ha hn hopen hhold hcand hnone => ?candidate, fun h ha hopen hhold hnone => ?fresh, fun d t hnone ht hd => ?tests,
    fun bs ty fl h hin hpool hty hfl hmay hlen hdest hack hrole hsec hqueue => ?send, fun h hmode hkey => ?join⟩
  case suspend =>
    refine (exec_accepted rfl rfl h).trans (congrArg s.ok (Eq.trans (congrArg (fun m => b.tenantPend x a m .suspend) ?_) (Dev.tenantPend_may ha hpend _)))
    rcases hshown with h | h <;> simp [a, b] at h <;> simp [h]
  case resume =>
    refine (exec_accepted rfl rfl h).trans (congrArg s.ok (Eq.trans (congrArg (fun m => b.tenantPend x a m .resume) ?_) (Dev.tenantPend_may ha hpend _)))
    simp [a, b] at hshown
    simp [hshown]
  case grid => exact (exec_accepted rfl rfl h).trans (congrArg s.ok (if_neg (by omega)))
  case credit =>
    subst hmode hv hamount
    have hbad : ¬ (decide (x.arg 24 1 > 1) || decide (a = 64) || decide (blkPrepay (b.acct a).block = 0)) = true := by
      simp [ha, hprepay]
      omega
    have hexec := (exec_accepted rfl rfl h).trans (congrArg s.ok (if_neg hbad))
    exact ⟨fun hold => hexec.trans (congrArg s.ok (if_pos hold)), fun hnew => hexec.trans (congrArg s.ok (if_neg (Nat.not_le.2 hnew)))⟩
  case relay =>
    refine (exec_accepted rfl rfl h).trans (congrArg s.ok (if_neg ?_))
    simp [show accountOf x.tenant ≠ 64 from ha, show blkLink ((s.dev.begun x).acct (accountOf x.tenant)).block ≠ 0xFF from hlink]
    omega
  case commit =>
    have hexec := (exec_accepted rfl rfl h).trans (congrArg s.ok (if_neg (by omega : ¬ x.arg 24 1 > 0x41)))
    have hall : ((b.loadedKey (x.arg 24 1)).all fun k => k.gen ≠ x.arg 28 4) = decide (k.gen ≠ x.arg 28 4) := by
      rw [hk]
      rfl
    refine ⟨fun hother => hexec.trans (congrArg s.ok (if_pos (hall.trans ?_))),
      fun hsame => hexec.trans (congrArg s.ok ((if_neg ?_).trans (if_neg ?_)))⟩
    · simp [hother]
    · exact (Bool.eq_false_iff.mp (hall.trans (by simp [hsame])))
    · exact Bool.eq_false_iff.mp hpend
  case snap =>
    refine (exec_accepted rfl rfl h).trans (congrArg s.ok ?_)
    exact (if_neg (by omega)).trans ((if_neg (Nat.not_le.2 hsnaps)).trans
      ((if_neg (by simp [show (s.dev.begun x).keys.shaFailed = false from hsha, show (s.dev.begun x).keys.ecdsaFailed = false from hecdsa])).trans
        (if_neg (by simp [show (s.dev.begun x).drbgReady = true from hready]))))
  case clock =>
    have hpast : ¬ x.addr / second = 0 := Nat.pos_iff_ne_zero.1 (Nat.div_pos htime (by decide))
    exact (exec_accepted rfl rfl h).trans (congrArg s.ok (if_neg hpast))
  case arm =>
    have hexec := (exec_accepted rfl rfl h).trans (congrArg s.ok ((if_neg (by omega)).trans ((Dev.withInput_ok _ hpool hin).trans
      (if_neg (by simp [hok])))))
    refine ⟨fun ht => ?_, fun ht h0 => ?_, fun ht h0 h1 => ?_, fun ht h0 h1 => ?_⟩
    · exact hexec.trans (congrArg s.ok (if_pos ht))
    · exact hexec.trans (congrArg s.ok ((if_neg (fun h => Option.isSome_iff_ne_none.1 h ht)).trans (if_pos h0)))
    · exact hexec.trans (congrArg s.ok ((if_neg (fun h => Option.isSome_iff_ne_none.1 h ht)).trans ((if_neg h0).trans
        (congrArg (fun d : Dev => d.done x.ref stOK) (if_neg h1)))))
    · exact hexec.trans (congrArg s.ok ((if_neg (fun h => Option.isSome_iff_ne_none.1 h ht)).trans ((if_neg h0).trans
        (congrArg (fun d : Dev => d.done x.ref stOK) (if_pos h1)))))
  case ack =>
    subst hn
    have hnot : ¬ (x.arg 24 1 = 1 ∨ x.arg 24 1 = 2) := by omega
    have hexec : exec (.errorAck x) s = s.ok (s.dev.ackCommand x _) := if_neg (by simp [hact])
    have hexec := hexec.trans (congrArg s.ok (Dev.ackCommand_other _ hnot))
    exact (exec_accepted hexec (if_neg hnot) h).trans (congrArg s.ok (if_neg (by simp [hact]; exact hseq)))
  case candidate =>
    obtain ⟨p, hp, -⟩ := id h
    have hact : x.arg 24 1 = 1 := by
      by_contra hact
      exact nomatch (if_neg hact).symm.trans hp
    have hexec : exec (.recoverCandidate x) s = s.ok (s.dev.ackCommand x _) := if_neg (by simp [hact])
    have hexec := hexec.trans (congrArg s.ok (Dev.ackCommand_recover _ (.inl hact)))
    refine (exec_accepted hexec (if_pos hact) h).trans (congrArg s.ok ((if_neg (by simp; omega)).trans ?_))
    exact (congrArg (fun f => b.recoverWith x f (.candidate (x.arg 25 1))) (decide_eq_true hcand)).trans
      (Dev.recoverWith_waits hopen hhold hnone _)
  case fresh =>
    obtain ⟨p, hp, -⟩ := id h
    have hact : x.arg 24 1 = 2 := by
      by_contra hact
      exact nomatch (if_neg hact).symm.trans hp
    have hexec : exec (.recoverFresh x) s = s.ok (s.dev.ackCommand x _) := if_neg (by simp [hact])
    have hexec := hexec.trans (congrArg s.ok (Dev.ackCommand_recover _ (.inr hact)))
    exact (exec_accepted hexec (if_pos hact) h).trans (congrArg s.ok ((if_neg (by omega)).trans
      (Dev.recoverWith_waits hopen hhold hnone _)))
  case tests =>
    subst hd ht
    refine ⟨fun h ht hn hlo hhi hmay => ?_, fun h ht hn hlen hmay => ?_, fun h ht hn hlo hhi hopen hserve hgood => ?_,
      fun h ht hn hlen hfree hlost => ?_, fun h ht hn hlen => ?_⟩
    · exact exec_selftest rfl rfl h ht (by simp [hn, hlo, hhi]) rfl hnone rfl hmay
    · exact exec_selftest rfl rfl h ht (by simp [hn, hlen]) rfl hnone rfl hmay
    · exact exec_selftest rfl rfl h ht (by simp [hn, hlo, hhi]) hopen hnone rfl (by simp only [show (s.dev.begun x).volt.serving = 0 from hserve, show (s.dev.begun x).volt.healthB.good = true from hgood]; rfl)
    · exact exec_selftest rfl rfl h ht (by simp [hn, hlen]) rfl hnone (Option.isSome_eq_false_iff.2 (Option.isNone_iff_eq_none.2 hfree)) (congrArg not hlost)
    · exact exec_selftest rfl rfl h ht (by simp [hn, hlen]) rfl hnone rfl rfl
  case send =>
    subst hty hfl
    refine (exec_accepted rfl rfl h).trans (congrArg s.ok ((if_neg ?_).trans ((Dev.withInput_ok _ hpool hin).trans
      ((if_neg hrole).trans ((if_neg ?_).trans (if_neg (Nat.not_le.2 hqueue)))))))
    · have hty : (decide (0x20 ≤ x.arg 26 1) && decide (x.arg 26 1 ≤ 0x7F) || decide (x.arg 26 1 = 0x10) && decide (b.lnet.role = 2)) = true := by
        simpa using hmay
      have hlong : ¬ (if bitOf (x.arg 27 1) 0 = true then 194 else 202) < x.len := by
        split <;> omega
      have hack' : (bitOf (x.arg 27 1) 1 && decide (x.arg 24 2 = 0xFFFF)) = false := by
        rcases hb : bitOf (x.arg 27 1) 1 with _ | _
        · rfl
        · exact decide_eq_false (hack hb)
      change ¬ (!(decide (0x20 ≤ x.arg 26 1) && decide (x.arg 26 1 ≤ 0x7F) || decide (x.arg 26 1 = 0x10) && decide (b.lnet.role = 2)) ||
        decide ((if bitOf (x.arg 27 1) 0 = true then 194 else 202) < x.len) || (bitOf (x.arg 27 1) 1 && decide (x.arg 24 2 = 0xFFFF)) ||
        decide (x.arg 24 2 = 0)) = true
      rw [hty, hack', decide_eq_false hlong, decide_eq_false hdest]
      decide
    · change ¬ (bitOf (x.arg 27 1) 0 && b.lineExhausted) = true
      rcases hb : bitOf (x.arg 27 1) 0 with _ | _
      · simp
      · simp [hsec hb]
  case join =>
    have hkey' : ¬ (b.activeKey 0x40).isNone = true := by simpa [Option.isSome_iff_ne_none] using hkey
    refine (exec_accepted rfl rfl h).trans (congrArg s.ok ((if_neg (by omega)).trans ((if_neg hkey').trans ?_)))
    have hrole : (if b.lnet.role ≠ 0 then b.postLine 0x07 [⟨16, 1, 3⟩] else b) = if b.lnet.role = 0 then b else b.postLine 0x07 [⟨16, 1, 3⟩] :=
      ite_not ..
    have hmode : (if b.lnet.role = 0 then b else b.postLine 0x07 [⟨16, 1, 3⟩]).pwr.hostmode = b.pwr.hostmode := by
      split
      · rfl
      · exact Dev.strap_of_quiet (Dev.postLine_quiet ..)
    refine (congrArg (Dev.listenAnew x) hrole).trans ?_
    exact Dev.listenAnew_eq hmode

end Sys2Proof.Machine

/-! ## Proofs: the pod bus (chapter 20) -/

namespace Sys2Proof.Machine

/-! ### An error leaves metering -/

@[simp] theorem Dev.deliverError_metering (d : Dev) (e : ErrRec) : (d.deliverError e).metering = d.metering := by
  have htunnel : ∀ (b : RecBody) (t : Option Nat), (d.tunnelRecord b t).metering = d.metering := fun b t =>
    Dev.metering_of_quiet (by simp)
  unfold Dev.deliverError
  dsimp only
  split
  · split
    · exact (Dev.reported_metering ..).trans (htunnel ..)
    · exact (Dev.reported_metering ..).trans (htunnel ..)
  · split
    · exact Dev.writeError_metering ..
    · split
      · exact (Dev.occur_metering ..).trans rfl
      · rfl

@[simp] theorem Dev.closeSlot_metering (d : Dev) (escalated : Bool) : (d.closeSlot escalated).metering = d.metering := by
  unfold Dev.closeSlot
  dsimp only
  split
  · rfl
  · exact (Dev.deliverError_metering ..).trans rfl

theorem Dev.closeExpired_metering (d : Dev) : d.closeExpired.metering = d.metering := by
  unfold Dev.closeExpired
  split
  · split
    · exact Dev.closeSlot_metering ..
    · rfl
  · rfl

theorem Dev.slotted_metering (d : Dev) (e : Err) (rc : Nat) : (d.slotted e rc).metering = d.metering := by
  unfold Dev.slotted
  split
  · rfl
  · split
    · rfl
    · exact d.closeSlot_metering true

theorem Dev.counted_metering (d : Dev) (e : Err) : (d.counted e).metering = d.metering := by
  unfold Dev.counted
  dsimp only
  split <;> rfl

@[simp] theorem Dev.raise_metering (d : Dev) (e : Err) : (d.raise e).metering = d.metering := by
  unfold Dev.raise
  split
  · rfl
  · rw [Dev.handleError_eq]
    split
    · rw [Dev.slotted_metering, Dev.closeExpired_metering, Dev.wake_metering, Dev.counted_metering]
    · split
      · exact d.counted_metering e
      · exact (Dev.updErr_metering ..).trans (d.counted_metering e)

/-! ### What the bus's errors and records leave -/

theorem Dev.tw_of_still {d e : Dev} (h : d.still = e.still) : d.tw = e.tw := (congrArg Dev.tw h :)
theorem Dev.up_of_still {d e : Dev} (h : d.still = e.still) : d.up = e.up := (congrArg Dev.up h :)

theorem Dev.twmError_still (d : Dev) (code outcome moved : Nat) : (d.twmError code outcome moved).still = d.still := Dev.raise_still ..
theorem Dev.twmError_metering (d : Dev) (code outcome moved : Nat) : (d.twmError code outcome moved).metering = d.metering :=
  Dev.raise_metering ..

theorem Dev.postPod_quiet (d : Dev) (event link channel : Nat) (fs : List Fld) (len : Nat) :
    (d.postPod event link channel fs len).quiet = d.quiet := Dev.post_quiet ..

theorem Dev.drive_eq (d : Dev) {l : List TwmSeg} (h : l ≠ []) : d.drive l = d.emit (.twm l) := if_neg (by simpa using h)

/-- What a transaction leaves: all but what goes out. -/
def Dev.bused (d : Dev) : Dev := { d with out := [] }

theorem Dev.drive_bused (d : Dev) (l : List TwmSeg) : (d.drive l).bused = d.bused := by
  unfold Dev.drive
  split <;> rfl

theorem Dev.lineupRecords_quiet (d : Dev) (b : LineupBook) (pods : List ((Nat × Nat × Nat) × Nat)) (ending micros : Nat) :
    (d.lineupRecords b pods ending micros).quiet = d.quiet := by
  unfold Dev.lineupRecords
  dsimp only
  rw [Dev.postPod_quiet, Dev.each_keeps Dev.quiet (fun d _ => Dev.postPod_quiet ..),
    Dev.each_keeps Dev.quiet (fun d _ => Dev.postPod_quiet ..), Dev.each_keeps Dev.quiet (fun d _ => Dev.postPod_quiet ..)]

theorem Dev.lineupDone_quiet (d : Dev) (cmd : Option CmdRef) (assigned addressed ending : Nat) :
    (d.lineupDone cmd assigned addressed ending).quiet = d.quiet := by
  unfold Dev.lineupDone
  split
  · exact Dev.doneWith_quiet ..
  · rfl

/-! ### A stuck line -/

/-- With no POD_XFER on the bus, a stuck line is noted and a line-up breaks off. -/
theorem Dev.busStuck_tw {d : Dev} (h : d.tw.xfers = []) (sda : Bool) (moved : Nat) (data : List Byte) :
    (d.busStuck sda moved data).tw = { d.tw with
      stuck := some (sda, d.up), recovered := none, lineup := d.tw.lineup.map fun l => { l with broken := true } } := by
  unfold Dev.busStuck
  simp only [h]
  generalize he : d.twmError _ _ _ = e
  have htw : e.tw = d.tw := he ▸ Dev.tw_of_still (Dev.twmError_still ..)
  have hup : e.up = d.up := he ▸ Dev.up_of_still (Dev.twmError_still ..)
  simp [Dev.endXfer, Dev.failXfers, Dev.breakLineup, htw, hup, h]

/-! ### The end of a line-up -/

/-- The device once a line-up's bus transaction, its mapping and its losses of arbitration have been. -/
def Dev.linedUp (d : Dev) (b : LineupBook) (noted : List ((Nat × Nat × Nat) × Nat)) : Dev :=
  ((d.drive b.sent).each noted fun d p => d.markPod p.1.1).each (List.replicate b.stopLosses ()) fun d _ => d.twmError 0x0703 4 0

theorem Dev.markPod_bused (d : Dev) (a : Nat) : (d.markPod a).bused = d.bused := (Dev.drive_bused ..).trans (Dev.drive_bused ..)

theorem Dev.still_of_bused {d e : Dev} (h : d.bused = e.bused) : d.still = e.still := (congrArg Dev.still h :)
theorem Dev.metering_of_bused {d e : Dev} (h : d.bused = e.bused) : d.metering = e.metering := (congrArg Dev.metering h :)

theorem Dev.linedUp_still (d : Dev) (b : LineupBook) (noted : List ((Nat × Nat × Nat) × Nat)) : (d.linedUp b noted).still = d.still := by
  unfold Dev.linedUp
  rw [Dev.each_keeps Dev.still (fun d _ => Dev.twmError_still ..),
    Dev.each_keeps Dev.still (fun d p => Dev.still_of_bused (Dev.markPod_bused ..))]
  exact Dev.still_of_bused (Dev.drive_bused ..)

theorem Dev.linedUp_metering (d : Dev) (b : LineupBook) (noted : List ((Nat × Nat × Nat) × Nat)) :
    (d.linedUp b noted).metering = d.metering := by
  unfold Dev.linedUp
  rw [Dev.each_keeps Dev.metering (fun d _ => Dev.twmError_metering ..),
    Dev.each_keeps Dev.metering (fun d p => Dev.metering_of_bused (Dev.markPod_bused ..))]
  exact Dev.metering_of_bused (Dev.drive_bused ..)

/-- A POD_XFER within the limits of R967 is not refused for its arguments. -/
theorem xferArgs_good {x : Desc} (hlo : 0x40 ≤ xferTarget x) (hhi : xferTarget x ≤ 0x4F) (hw : xferWrite x ≤ 256) (hr : xferRead x ≤ 256)
    (hsome : xferWrite x + xferRead x ≠ 0) (hfits : xferWrite x + xferRead x ≤ x.len) :
    ¬ (decide (xferTarget x < 0x40) || decide (0x4F < xferTarget x) || decide (256 < xferWrite x) || decide (256 < xferRead x) ||
      decide (xferWrite x + xferRead x = 0) || decide (x.len < xferWrite x + xferRead x)) = true := by
  simp only [Bool.or_eq_true, decide_eq_true_eq]
  omega

/-- The clocks a recovery takes to the first SDA read high. -/
theorem takeWhile_low (n : Nat) : ((List.replicate n false ++ [true]).takeWhile (!·)).length = n := by
  induction n with
  | zero => rfl
  | succ n ih => simp

/-- Settles O56. The commands pass their checks to the branch that acts; what a stuck line and a line-up's end leave is the lemmas
above: an error changes neither the bus nor an account. -/
theorem podBus : Obligations.PodBus := by
  unfold Obligations.PodBus
  intro s
  refine ⟨fun x bs hin h hpool hlo hhi hw hr hsome hfits => ?xfer, fun x h hnone => ?lineup, fun hu hfree => ?bus,
    fun t sda micros hstuck hrec hu => ?recovery, fun r l hl hwhole hu hx => ?ending⟩
  case xfer =>
    have hexec := (exec_accepted rfl rfl h).trans (congrArg s.ok ((if_neg (xferArgs_good hlo hhi hw hr hsome hfits)).trans
      (Dev.withInput_ok _ hpool hin)))
    refine ⟨fun hlu => hexec.trans (congrArg s.ok (if_pos hlu)), fun sda t hlu hst => hexec.trans (congrArg s.ok ?_),
      fun hlu hst => hexec.trans (congrArg s.ok ?_)⟩
    · refine (if_neg (by simp [hlu])).trans ?_
      rw [hst]
    · refine (if_neg (by simp [hlu])).trans ?_
      rw [hst]
  case lineup =>
    have hfree : ¬ (s.dev.begun x).tw.lineup.isSome = true := by simp [hnone]
    refine ⟨fun h0 hst => ?_, fun h0 hst => ?_, fun h6 hmode hlo hhi hlt hlow => ?_⟩
    · refine (exec_accepted rfl rfl h).trans (congrArg s.ok ?_)
      dsimp only
      rw [h0, if_neg (by simp [bitOf]), if_neg hfree, if_neg (by decide), if_neg (by simp [hst]), if_neg (by decide)]
    · refine (exec_accepted rfl rfl h).trans (congrArg s.ok ?_)
      dsimp only
      rw [h0, if_neg (by simp [bitOf]), if_neg hfree, if_neg (by decide), if_pos hst]
    · refine (exec_accepted rfl rfl h).trans (congrArg s.ok ?_)
      dsimp only
      rw [h6, if_neg (by simp [show bitOf 6 1 = true from rfl]; omega), if_neg hfree, if_pos (by decide)]
  case bus =>
    refine ⟨fun x t rest e hx hfit hbusy hdone => ?_, fun x t rest micros moved data hx hlong hdue hmoved hread => ?_,
      fun micros moved data hx hlong => ?_, fun micros moved data hx hlong => ?_⟩
    · have hdue : (match (generalizing := false) e with
          | .busBusy => s.dev.since t (ms 100)
          | .done _ => s.dev.since t (s.dev.tw.bits (xferClocks x))
          | _ => true) = true := by
        cases e with
        | busBusy => exact hbusy rfl
        | done read => exact hdone read rfl
        | addrNack _ | dataNack _ | lost _ _ => rfl
      change execPodXferEnd e s = _
      unfold execPodXferEnd
      dsimp only
      rw [hx]
      exact if_neg (by rw [hu, hfree, hfit]; simp; exact hdue)
    · change execStretchLimit micros moved data s = _
      unfold execStretchLimit
      dsimp only
      rw [if_neg (by simp [hu, hfree]; omega), hx]
      exact if_pos (by simp [hdue, hmoved, hread])
    · change execStretchLimit micros moved data s = _
      unfold execStretchLimit
      dsimp only
      rw [if_neg (by simp [hu, hfree]; omega), hx]
    · have hscl : exec (.twmSclStuck micros moved data) s = s.ok (s.dev.busStuck false moved data) := if_pos (by simp [hu, hfree, hlong])
      have hsda : exec (.twmSdaStuck micros true moved data) s = s.ok (s.dev.busStuck true moved data) :=
        if_pos (by simp [hu, hfree, hlong])
      exact ⟨Runs.ok _ hscl (Dev.busStuck_tw hx ..), Runs.ok _ hsda (Dev.busStuck_tw hx ..)⟩
  case recovery =>
    refine ⟨fun n hsda hn => ?_, fun hsda => ?_⟩
    · subst hsda
      change execBusRecovery micros _ s = _
      unfold execBusRecovery
      dsimp only
      rw [hstuck, hrec]
      dsimp only
      rw [takeWhile_low, if_neg (by simp [hu]), if_pos (by simp; omega)]
      rfl
    · subst hsda
      change execBusRecovery micros _ s = _
      unfold execBusRecovery
      dsimp only
      rw [hstuck, hrec]
      dsimp only
      rw [if_neg (by simp [hu]), if_neg (by simp), if_pos (List.length_replicate ..)]
  case ending =>
    intro b pods hend hmarks hdue
    let noted : List ((Nat × Nat × Nat) × Nat) := pods.zip (r.marks.map notedLinks)
    let d := s.dev.linedUp b noted
    let map := noted.foldl (fun (m : Tbl Nat) p => m.set p.1.2.1 (mappedLink p.2)) d.tw.map
    let e := d.setTw { d.tw with lineup := none, addressed := b.inUse, map := map }
    let f := (e.lineupRecords b noted (b.ending.getD 4) (toMicros (e.up - l.since))).lineupDone l.cmd b.assigned.length b.inUse.length
      (b.ending.getD 4)
    have hexec : exec (.lineupEnd r) s = s.ok f := by
      change execLineupEnd r s = _
      unfold execLineupEnd
      dsimp only
      rw [hl]
      dsimp only
      rw [hwhole, if_neg ?_]
      · simp only [List.map_id']
        rfl
      · have hall : (b.ending.isSome && decide (r.marks.length = pods.length)) = true := by simp [hend, hmarks]
        simp only [Bool.false_eq_true, if_false]
        change ¬ (!s.dev.units || !s.dev.tw.xfers.isEmpty || !decide ((b.ending.isSome && decide (r.marks.length = pods.length)) = true) ||
          !s.dev.since l.since (s.dev.tw.bits (b.clocks + 54 * r.marks.length) + ms r.marks.length)) = true
        rw [hu, hx, hall, hdue]
        decide
    have hf : f.quiet = e.quiet := (Dev.lineupDone_quiet ..).trans (Dev.lineupRecords_quiet ..)
    have hd : d.tw = s.dev.tw := Dev.tw_of_still (Dev.linedUp_still ..)
    have htw : f.tw = { s.dev.tw with
        lineup := none, addressed := b.inUse
        map := (pods.zip (r.marks.map notedLinks)).foldl (fun m p => m.set p.1.2.1 (mappedLink p.2)) s.dev.tw.map } := by
      rw [Dev.tw_of_still (Dev.still_of_quiet hf)]
      simp only [e, map, hd, Dev.setTw_tw, noted]
    have haccts : f.accts = s.dev.accts := (congrArg Dev.accts hf :).trans (congrArg Dev.accts (Dev.linedUp_metering s.dev b noted) :)
    exact Runs.ok _ hexec ⟨htw, haccts, rfl⟩

end Sys2Proof.Machine

/-! ## Proofs: the target port (chapter 20) -/

namespace Sys2Proof.Machine

/-- The device once a transaction has addressed its target port, which had slept or not. -/
def Dev.twtAddressed (d : Dev) (sleeps : Bool) : Dev :=
  d.setTw { d.tw with lastUse := d.up, asleep := false, wakeAt := if sleeps then d.up + us 50 else d.tw.wakeAt, staged := [] }

/-- The target port answers its own address where the device is powered: it refuses asleep or busy, and else does the parts. -/
theorem exec_twtAddress {s : State} (parts : List TwtPart) (hoff : s.dev.pwr.pstate ≠ .off) (hbackup : s.dev.pwr.pstate ≠ .backup) :
    exec (.twtAddress s.dev.twtAddress parts) s =
      let sleeps := s.dev.tw.asleep && decide (s.dev.pwr.pstate ≠ .run)
      let d := s.dev.twtAddressed sleeps
      if (sleeps || s.dev.twtBusy) = true then s.stored (d.emit (.twtAnswer [false] []))
      else
        let q := twtParts d none (if parts.isEmpty then [.write []] else parts)
        s.stored ((q.1.setTw { q.1.tw with staged := [] }).emit (.twtAnswer q.2.1 q.2.2)) :=
  (if_neg (by simp [hoff])).trans (if_neg hbackup)

/-- The same in RUN, where the port never sleeps. -/
theorem exec_twtAddress_run {s : State} (parts : List TwtPart) (hrun : s.dev.pwr.pstate = .run) :
    exec (.twtAddress s.dev.twtAddress parts) s =
      let d := s.dev.setTw { s.dev.tw with lastUse := s.dev.up, asleep := false, staged := [] }
      if s.dev.twtBusy = true then s.stored (d.emit (.twtAnswer [false] []))
      else
        let q := twtParts d none (if parts.isEmpty then [.write []] else parts)
        s.stored ((q.1.setTw { q.1.tw with staged := [] }).emit (.twtAnswer q.2.1 q.2.2)) := by
  have hawake : (s.dev.tw.asleep && decide (s.dev.pwr.pstate ≠ .run)) = false := by simp [hrun]
  refine (exec_twtAddress parts (by simp [hrun]) (by simp [hrun])).trans ?_
  rw [hawake]
  rfl

/-- Settles O57. In DOZE a sleeping port refuses and wakes; in RUN it refuses where it is busy, and else does the parts. -/
theorem targetPort : Obligations.TargetPort := by
  unfold Obligations.TargetPort
  intro s
  refine ⟨fun addr parts h => if_pos (by simpa using h), fun parts h => ?backup, fun parts h hsleeps => ?doze, fun parts h hbusy => ?busy,
    fun parts h hfree => ?free, fun h hdue => ?sleep⟩
  case backup => exact (if_neg (by simp [h])).trans (if_pos h)
  case doze =>
    have hexec := exec_twtAddress (s := s) parts (by simp [h]) (by simp [h])
    have hasleep : (s.dev.tw.asleep && decide (s.dev.pwr.pstate ≠ .run)) = true := by simp [h, hsleeps]
    rw [hasleep] at hexec
    exact Runs.stored _ (hexec.trans (if_pos rfl)) ⟨rfl, rfl, rfl, rfl⟩
  case busy => exact (exec_twtAddress_run parts h).trans (if_pos hbusy)
  case free => exact (exec_twtAddress_run parts h).trans (if_neg (by simp [hfree]))
  case sleep => exact if_pos (by simpa [hdue] using h)

end Sys2Proof.Machine

/-! ## Proofs: the frames the line's MAC acts on (chapter 22) -/

namespace Sys2Proof.Machine

/-- A frame of the type asked for is taken from the front of those accepted. -/
theorem Dev.takeInbox_some {d : Dev} {f : RxLine} {rest : List RxLine} {ty : Nat → Bool} (hin : d.lnet.inbox = f :: rest)
    (hmac : d.macRuns = true) (hty : ty f.ftype = true) :
    d.takeInbox ty = some ((d.setNet { d.lnet with inbox := rest }).wake, f) := by
  unfold Dev.takeInbox
  rw [hin]
  exact if_pos (by simp [hmac, hty])

/-- A new role changes the line network's role and address, and else the epochs only. -/
theorem Dev.setRole_lnet (d : Dev) (role net addr : Nat) :
    (d.setRole role net addr).lnet = { d.lnet with role := role, netId := net, addr := addr } := by
  unfold Dev.setRole
  dsimp only
  split <;> rfl

theorem Dev.setRole_led (d : Dev) (role net addr : Nat) : (d.setRole role net addr).led = d.led := by
  unfold Dev.setRole
  dsimp only
  split <;> rfl

/-- The line network, less the tunnel's messages, on which posting a record may act. -/
def Dev.network (d : Dev) : LineNet := d.quiet.lnet

theorem Dev.network_setRole (d : Dev) (role net addr : Nat) :
    (d.setRole role net addr).network = { d.network with role := role, netId := net, addr := addr } := by
  change ({ (d.setRole role net addr).lnet with tunQueue := [], tunNext := 0, tunDropped := 0, tunReady := [], tunRunning := none } :
    LineNet) = _
  rw [Dev.setRole_lnet]
  rfl

theorem Dev.network_postLine (d : Dev) (event : Nat) (fs : List Fld) : (d.postLine event fs).network = d.network :=
  congrArg Dev.lnet (Dev.postLine_quiet ..)

/-- A joining node named by a JOIN_ACK that takes it, once it has taken it. -/
def Dev.joined (d : Dev) (f : RxLine) : Dev :=
  let a := fieldAt f.payload 8 2
  let l := { d.lnet with table := d.lnet.table.set a (fieldAt f.payload 0 8) }
  let l := { l with queue := l.queue.filter fun f => f.ftype ≠ 3 }
  let d := d.setNet { l with
    kstate := 4, w := 64, captainId := l.joinId, rosterEpoch := fieldAt f.payload 11 4, beaconAt := d.up, refusedAt := none }
  (d.setRole 1 l.joinNet a).postLine 0x05 [⟨0, 8, l.joinId⟩, ⟨8, 2, a⟩]

theorem Dev.joined_network (d : Dev) (f : RxLine) :
    (d.joined f).network.role = 1 ∧ (d.joined f).network.kstate = 4 ∧ (d.joined f).network.addr = fieldAt f.payload 8 2 ∧
      (d.joined f).network.netId = d.lnet.joinNet ∧ (d.joined f).network.captainId = d.lnet.joinId ∧
      (d.joined f).network.rosterEpoch = fieldAt f.payload 11 4 ∧ (d.joined f).network.beaconAt = d.up := by
  unfold Dev.joined
  rw [Dev.network_postLine, Dev.network_setRole]
  exact ⟨rfl, rfl, rfl, rfl, rfl, rfl, rfl⟩

theorem exec_joinAck_joined {s : State} {d : Dev} {f : RxLine} (h : s.dev.takeInbox (fun t => decide (t = 0x04)) = some (d, f))
    (hk : d.lnet.kstate = 3) (hown : fieldAt f.payload 0 8 = ownId) (hok : fieldAt f.payload 10 1 = 0) :
    exec .joinAck s = s.ok (d.joined f) := by
  rw [show exec .joinAck s = execJoinAck s from rfl, execJoinAck, h]
  dsimp only
  rw [decide_eq_true hok]
  simp only [if_true]
  rw [if_neg (by simp [hk, hown])]
  rfl

/-- Settles O59. Each command takes the front frame of its type, and then the branch its role and state lead to. -/
theorem lineMessages : Obligations.LineMessages := by
  unfold Obligations.LineMessages
  intro s f rest hin hmac
  have htake : ∀ ty : Nat → Bool, ty f.ftype = true →
      s.dev.takeInbox ty = some ((s.dev.setNet { s.dev.lnet with inbox := rest }).wake, f) := fun ty hty =>
    Dev.takeInbox_some hin hmac hty
  intro d
  change ∀ ty : Nat → Bool, ty f.ftype = true → s.dev.takeInbox ty = some (d, f) at htake
  clear_value d
  refine ⟨fun hty => ?beacon, fun hty => ?claim, fun hty => ?joinReq, fun hty => ?joinAck, fun hty => ?ack, fun hty hrole => ?keyreq,
    fun hty hmode hhas hrole hlen hid hkind => ?tunnelCmd, fun hty hrole => ?tunnelRec, fun hlo hhi => ?app⟩
  case beacon =>
    rw [show exec .beacon s = execBeacon s from rfl, execBeacon, htake _ (by simp [hty])]
    refine ⟨fun hrole => congrArg s.ok (if_pos hrole), fun hrole hnet hcap => congrArg s.ok ?_, fun hrole hk => congrArg s.ok ?_⟩
    · exact (if_neg (by rw [hrole]; decide)).trans ((if_pos hrole).trans (if_pos ((Bool.and_eq_true ..).mpr ⟨decide_eq_true hnet, decide_eq_true hcap⟩)))
    · refine (if_neg (by rw [hrole]; decide)).trans ((if_neg (by rw [hrole]; decide)).trans ?_)
      rw [hk]
      rfl
  case claim =>
    rw [show exec .claim s = execClaim s from rfl, execClaim, htake _ (by simp [hty])]
    refine ⟨fun hrole => congrArg s.ok ((if_pos hrole).trans ?_), fun hrole hk => congrArg s.ok ((if_neg ?_).trans ?_),
      fun hrole hk => congrArg s.ok ((if_neg ?_).trans ?_)⟩
    · simp
    · rw [hrole]
      decide
    · rw [hk]
      simp
    · rw [hrole]
      decide
    · rw [hk]
      rfl
  case joinReq =>
    rw [show exec .joinReq s = execJoinReq s from rfl, execJoinReq, htake _ (by simp [hty])]
    refine ⟨fun hrole => if_pos (by simp [hrole]), fun hrole hex hkind => ?_⟩
    have hanswers : ¬ (decide (d.lnet.role ≠ 2) || d.lineExhausted || decide (fieldAt f.payload 0 1 ≠ 0) && !d.takesEndpoints) = true := by
      simp [hrole, hex, hkind]
    refine ⟨fun hfull => (if_neg hanswers).trans ?_, fun a ha => (if_neg hanswers).trans ?_⟩
    · rw [hkind]
      dsimp only
      rw [hfull]
    · rw [hkind]
      dsimp only
      rw [ha]
      rfl
  case joinAck =>
    rw [show exec .joinAck s = execJoinAck s from rfl, execJoinAck, htake _ (by simp [hty])]
    refine ⟨fun hk => ⟨fun hok => ?_, fun hno => ?_⟩, fun hk hown hok => ?_⟩
    · dsimp only
      rw [decide_eq_true hok]
      exact if_pos ((Bool.or_eq_true ..).mpr (.inl (decide_eq_true hk)))
    · dsimp only
      rw [decide_eq_false hno]
      exact if_pos ((Bool.or_eq_true ..).mpr (.inl (decide_eq_true hk)))
    · exact Runs.ok _ (exec_joinAck_joined (htake _ (by simp [hty])) hk hown hok) (d.joined_network f)
  case ack =>
    rw [show exec .ack s = execAck s from rfl, execAck, htake _ (by simp [hty])]
    intro q t hq hwait hdest
    dsimp only
    rw [hq]
    exact ⟨fun hx hc => congrArg s.ok (if_pos (by simp [hwait, hdest, hx, hc])), fun hx => congrArg s.ok (if_neg (by simp [hx]))⟩
  case keyreq =>
    rw [show exec .keyreq s = execKeyreq s from rfl, execKeyreq, htake _ (by simp [hty])]
    exact congrArg s.ok (if_pos hrole)
  case tunnelCmd =>
    rw [show exec .tunnelCmd s = execTunnelCmd s from rfl, execTunnelCmd, htake _ (by simp [hty])]
    exact if_neg (by simp [hmode, hhas, hrole, hkind]; omega)
  case tunnelRec =>
    rw [show exec .tunnelRec s = execTunnelRec s from rfl, execTunnelRec, htake _ (by simp [hty])]
    exact congrArg s.ok (if_pos hrole)
  case app => rw [show exec .app s = execApp s from rfl, execApp, htake _ (by simp [hlo, hhi])]

end Sys2Proof.Machine

/-! ## Proofs: the line MAC's times (chapter 22) -/

namespace Sys2Proof.Machine

/-- A claimant whose gaps were not all collided, once it is Captain. -/
def Dev.captained (d : Dev) : Dev :=
  let l := d.lnet.judgeGap
  ((d.setNet { l with
    kstate := 4, w := 64, captainId := ownId, claims := 0, claimEnd := none, roster := {}, nodes := 0, rosterSet := false
    rosterEpoch := 0, beaconSec := some ((d.now - 1) / 2 ^ 31), beaconWait := none, dissolve := none
    table := l.table.set 1 ownId }).setRole 2 d.formId 1).postLine 0x04 []

theorem Dev.captained_network (d : Dev) :
    d.captained.network.kstate = 4 ∧ d.captained.network.role = 2 ∧ d.captained.network.w = 64 ∧ d.captained.network.captainId = ownId := by
  unfold Dev.captained
  dsimp only
  rw [Dev.network_postLine, Dev.network_setRole]
  exact ⟨rfl, rfl, rfl, rfl⟩

theorem Dev.captained_led (d : Dev) : d.captained.led = d.led :=
  (congrArg Dev.led (Dev.postLine_quiet ..) :).trans (Dev.setRole_led ..)

/-- Settles O60. Each command's guard is what the statement asks for; what Captain's start leaves are the lemmas above. -/
theorem lineTimers : Obligations.LineTimers := by
  unfold Obligations.LineTimers
  intro s
  refine ⟨fun hmac => ⟨fun hk hmode hdue => ?listen, fun t hend hk hclaims hdue hcoll => ?captain, fun hrole hex hsec hdis => ?beacon,
    fun hrole hdue => ?loss, fun f q t hq hwait hdue => ⟨fun htries => ?again, fun htries => ?givenUp⟩, fun hex hnoted hdue => ?keyreq,
    fun t hat hk hdue => ?retry, fun tid j hj hdue => ?tunnel, fun src j hj hdue => ?segment⟩, fun hrun hserve hdue => ?summary⟩
  case listen => exact if_pos (by simp [hmac, hk, hmode, hdue])
  case captain =>
    have hexec : exec .captainTimeout s = s.ok s.dev.captained := by
      rw [show exec .captainTimeout s = execCaptainTimeout s from rfl, execCaptainTimeout]
      dsimp only
      rw [hend]
      dsimp only
      rw [if_neg (by simp [hmac, hk, hdue]; omega), if_neg (Nat.not_le.2 hcoll)]
      rfl
    obtain ⟨hk', hrole, hw, hcap⟩ := s.dev.captained_network
    exact Runs.ok _ hexec ⟨hk', hrole, hw, hcap, s.dev.captained_led, rfl⟩
  case beacon =>
    rw [show exec .beaconDue s = execBeaconDue s from rfl, execBeaconDue]
    dsimp only
    rw [if_neg (by simp [hmac, hrole, hex]; exact hsec), hdis]
  case loss => exact if_pos (by simp [hmac, hrole, hdue])
  case again =>
    rw [show exec .ackTimeout s = execAckTimeout s from rfl, execAckTimeout]
    dsimp only
    rw [hq]
    dsimp only
    rw [hwait]
    exact (if_neg (by simp [hmac, hdue])).trans (if_pos htries)
  case givenUp =>
    rw [show exec .ackTimeout s = execAckTimeout s from rfl, execAckTimeout]
    dsimp only
    rw [hq]
    dsimp only
    rw [hwait]
    exact (if_neg (by simp [hmac, hdue])).trans (if_neg (Nat.not_lt.2 htries))
  case keyreq =>
    refine (if_neg (by simp [hmac, hex])).trans ((if_neg (by simp [hnoted])).trans (congrArg s.ok (if_pos ?_)))
    split
    · next t ht => exact hdue t ht
    · rfl
  case retry =>
    rw [show exec .joinRetry s = execJoinRetry s from rfl, execJoinRetry]
    dsimp only
    rw [hat]
    exact if_pos (by simp [hmac, hk, hdue])
  case tunnel =>
    rw [show exec (.tunnelTimeout tid) s = execTunnelTimeout tid s from rfl, execTunnelTimeout]
    dsimp only
    rw [hj]
    exact if_pos (by simp [hmac, hdue])
  case segment =>
    rw [show exec (.segmentTimeout src) s = execSegmentTimeout src s from rfl, execSegmentTimeout]
    rw [hj]
    exact if_pos (by simp [hmac, hdue])
  case summary => exact if_pos (by simp [hrun, hserve, hdue])

end Sys2Proof.Machine

end
